-- ==== Sys2Proof/Word.lean ====
section
/-! DEFINITION. Tagged words (R28, R29): the 64-bit word, its 4-bit tag, and the plainest bit-field arithmetic. -/

namespace Sys2Proof

/-- A 64-bit word of data. -/
abbrev Word := BitVec 64

/-- The 4-bit type carried by every word (R29). -/
abbrev Tag := BitVec 4

/-- A word with its tag, one indivisible unit (R28). -/
structure TWord where
  data : Word
  tag  : Tag
deriving DecidableEq, Repr

def tagUninit  : Tag := 0x0
def tagInt     : Tag := 0x1
def tagBfp     : Tag := 0x2
def tagDec     : Tag := 0x3
def tagBytes   : Tag := 0x4
def tagPtr     : Tag := 0x5
def tagDesc    : Tag := 0x6
def tagCode    : Tag := 0x7
def tagRetaddr : Tag := 0x8
def tagSealed  : Tag := 0x9
def tagPoison  : Tag := 0xA
def tagCustom  : Tag := 0xF

/-- Data 0 tagged UNINIT: every word of memory and every general register after reset (R42, R419). -/
def uninitWord : TWord := ⟨0, tagUninit⟩

/-- Data 0 tagged POISON (R214). -/
def poisonWord : TWord := ⟨0, tagPoison⟩

/-- A word of data tagged INT. -/
def intWord (d : Word) : TWord := ⟨d, tagInt⟩

/-- The field NAME[hi:lo] of a number, as a number (00_scope, Notation). -/
def bits (x hi lo : Nat) : Nat := (x >>> lo) % 2 ^ (hi + 1 - lo)

/-- The bit NAME[n] of a number. -/
def bit (x n : Nat) : Bool := x.testBit n

/-- The number with its field [hi:lo] replaced. -/
def setBits (x hi lo v : Nat) : Nat :=
  x - (bits x hi lo) * 2 ^ lo + (v % 2 ^ (hi + 1 - lo)) * 2 ^ lo

/-- One bit as a number. -/
def b2n (b : Bool) : Nat := if b then 1 else 0

end Sys2Proof
end

