-- ==== Sys2Proof/Syntax.lean ====
section
/-! DEFINITION. The commands of the block: one constructor of Instr per row of the spec's opcode table, with its
operands. An instruction row carries the PU, its prefix bytes and its operand specifiers (R61 to R77); every other row
carries what its rule says arrives with it. -/

namespace Sys2Proof

/-- The three roles of a triad's cores (R169). -/
inductive Role where
  | lead
  | trail2
  | trail4
deriving DecidableEq, Repr

/-- What the voters found for the first bundle that the command hands over (R173, R178): of a request that must leave first, of
the instruction or unit, or of an interruption entry. It is the only part of a command that is a physical happening and no
choice of a program. -/
inductive Vote where
  /-- All bundles agree and none is marked; those that follow in the same command too. -/
  | agree
  /-- The first bundle agrees. What follows it, the rest after a request or an entry at the boundary, is left to later commands
  with votes of their own. -/
  | agreeOnly
  /-- Exactly one core dissents; cause 0 to 4 of R196, and the differing parts of its bundle. -/
  | dissent (role : Role) (cause : BitVec 4) (detail : BitVec 7)
  /-- No two bundles agree and are unmarked; the lowest cause among the cores. -/
  | noMajority (cause : BitVec 4)
  /-- VA and VB disagree. -/
  | voterDisagree
deriving DecidableEq, Repr

/-- The result of a voter self-check (R184): the voters that fail it. -/
inductive SelfCheck where
  | pass
  | vaFail
  | vbFail
  | both
deriving DecidableEq, Repr

/-- A register of the slate besides PREFIX and the PSW (R177). -/
inductive SlateReg where
  | g (n : BitVec 4)
  | bankBase (n : BitVec 3)
  | bankAttr (n : BitVec 3)
  | ctl (n : BitVec 5)
  | rsp
  | fpc
  | fpfia
  | busy
deriving DecidableEq, Repr

/-- A slate word found bad in both copies (R183). -/
inductive SlateLoss where
  | none
  /-- A word of PREFIX or of the machine-check slot's new PSW path. -/
  | entryPath
  | psw
  | other (r : SlateReg)
deriving DecidableEq, Repr

/-- Who sends a request to a home (R230, R234): a PU's L2, a guest port's agent, or a requester that is no node. -/
inductive Requester where
  | pu (n : Fin 60)
  | guest (k : Fin 4)
  | other
deriving DecidableEq, Repr

/-- The bytes of one word that a non-caching write carries (R234): bit k of the mask for the byte at word offset k. -/
structure WordMask where
  mask : BitVec 8
  word : TWord
deriving DecidableEq, Repr

/-- A stash hint (R247): the L2 of a PU, or the L3 of a compute die. -/
inductive Stash where
  | l2 (pu : Fin 60)
  | l3 (die : Fin 6)
deriving DecidableEq, Repr

/-- The kinds of flit (R260); partition flits as responses and all others (R267). -/
inductive FlitKind where
  | urgentReply
  | urgentRequest
  | coherence
  | general
  | response
  | request
deriving DecidableEq, Repr

/-- The messages that flits carry, as R260 sorts them: channel instructions and abort sequencer messages with their replies; snoops,
ACKs, and the DATA or WB that answers a snoop; the other control messages; and everything else. -/
inductive FabType where
  | ioRequest
  | ioReply
  | abort
  | abortReply
  | snoop
  | ack
  | answerData
  | answerWb
  | tbPurge
  | sigpu
  | sigpuAnswer
  | presentation
  | loaderOrder
  | control
  | data
  | cmp
  | cmpack
  | wb
  | evc
  | request
deriving DecidableEq, Repr

/-- What sends a partition flit, as far as its charge depends on it (R261). -/
inductive FabSource where
  | pu (n : Fin 60)
  | l2Victim (n : Fin 60)
  | l3Victim (fill : Fin 32)
  | answer (who : Requester) (line : BitVec 45)
  | stash (part : Fin 32)
  | channel (ioq : BitVec 18)
  | guest (k : Fin 4)
  | service
deriving DecidableEq, Repr

/-- A message that enters a link's sending queue (R254, R264): the line it carries with its tags, and in its header home-credit
returns (by home) and NACKs (port and reason). -/
structure FabMsg where
  type    : FabType
  src     : FabSource
  line    : List TWord
  returns : List (Fin 6)
  nacks   : List (Fin 4 × BitVec 8)
deriving DecidableEq, Repr

/-- What the ECC of a directory entry finds (R251). -/
inductive EccResult where
  | clean
  | corrected
  | lost
deriving DecidableEq, Repr

/-- What the symbol code of a line of DRAM finds (R213): nothing, an error of one device, an error of more devices that it takes for
one (with the line it then reads), or an uncorrectable line. -/
inductive DramResult where
  | clean
  | corrected
  | miscorrected (line : List TWord)
  | lost
deriving DecidableEq, Repr

/-- What the codes find where a home reads: the line's directory entry, and its DRAM when memory supplies it (R213, R251). -/
structure Found where
  dir  : EccResult
  dram : DramResult
deriving DecidableEq, Repr

/-- What the codes find in a cache that reads a line (R208): nothing; in the L2 of a PU parity errors, of a dirty line with the
failing words (true: the side code cannot correct the word); in the L3 one bit, or two bits of a word. -/
inductive CopyErr where
  | none
  | l2 (pu : Fin 60) (words : List (Fin 8 × Bool))
  | l3One
  | l3Two (word : Fin 8)
deriving DecidableEq, Repr

/-- What the codes find for a request: at its home, and in the caches of a die that reads the line (R208, R213, R251). -/
structure Met where
  found : Found
  err   : CopyErr
deriving DecidableEq, Repr

/-- The line of a request, and what the codes find where its home reads (R213, R251). -/
structure ReqLine where
  line  : BitVec 45
  found : Found
deriving DecidableEq, Repr

/-- A line that a node reads in its caches, and what their codes find (R208). -/
structure HeldLine where
  line : BitVec 45
  err  : CopyErr
deriving DecidableEq, Repr

/-- The far atomic of a PU on its way to the home, and what the codes find (R246, R251). -/
structure FarAtom where
  pu  : Fin 60
  met : Met
deriving DecidableEq, Repr

/-- The oldest device store of a PU as it leaves the merging buffer: `bad` when a word fails its parity in both copies (R201). -/
structure DevStore where
  pu  : Fin 60
  bad : Bool
deriving DecidableEq, Repr

/-- A held start that no copy holds any more, by IOQ and XID (R329): `kept` when its USER and SBKADDR were recovered. -/
structure LostStart where
  ioq  : Fin 262144
  xid  : BitVec 32
  kept : Bool
deriving DecidableEq, Repr

/-- A channel frame (R333, R334): the four header words, the data, and the nibbles of the tag block. -/
structure ChanFrame where
  w0   : Word
  w1   : Word
  w2   : Word
  w3   : Word
  data : List (BitVec 8)
  tags : List (BitVec 4)
deriving DecidableEq, Repr

/-- The two ways of a DATA frame (R345): a write's frame that the channel sends, or a read's frame that arrives. -/
inductive DataMove where
  | send (ioq : Fin 262144)
  | receive (port : Fin 16) (cu : Fin 4096) (f : ChanFrame)
deriving DecidableEq, Repr

/-- Requests of the support host that the PCI Express standard defines (R390, R391): configuration doublewords with their byte
enables, and the MSI-X table (by 64-bit word, the doublewords written) and PBA in BAR4. -/
inductive HostConfig where
  | read (dw : Fin 1024)
  | write (dw : Fin 1024) (be : BitVec 4) (v : BitVec 32)
  | tableRead (i : Fin 34)
  | tableWrite (i : Fin 34) (lo hi : Bool) (v : Word)
  | pbaRead
deriving DecidableEq, Repr

/-- The bytes of one word of a host request (R394): bit k of the mask for the byte at word offset k. -/
structure HostWord where
  mask : BitVec 8
  data : Word
deriving DecidableEq, Repr

/-- How training at 2.5 GT/s ends (R277). -/
inductive TrainResult where
  | up
  /-- Width or protocol not accepted. -/
  | refused
  | timeout
deriving DecidableEq, Repr

/-- The index part of a memory specifier (R75). -/
structure Idx where
  reg   : BitVec 4
  resv  : BitVec 2
  scale : BitVec 2
deriving DecidableEq, Repr

/-- An operand specifier (R73): the mode byte and what follows it. -/
inductive Spec where
  /-- MODE 0x0. -/
  | reg (n : BitVec 4)
  /-- MODE 0x1 (16-bit displacement) and, when `long`, MODE 0x2 (32-bit displacement). -/
  | mem (long : Bool) (bank : BitVec 3) (idx : Option Idx) (disp : BitVec 32)
  /-- MODE 0x3: ARG gives the size, 1, 2, 4 or 8 bytes; the value stands in the low bytes. -/
  | imm (arg : BitVec 4) (v : Word)
  /-- MODE 0x4: ARG 0 stack, 1 top. -/
  | stack (arg : BitVec 4)
  /-- A reserved MODE, 0x5 to 0xF. -/
  | reserved (mode : BitVec 4) (arg : BitVec 4)
deriving DecidableEq, Repr

/-- What every instruction command carries: the PU that executes it at its PSW.IA, its prefix bytes 0xE0 to 0xEF in
order (the low four bits of each), and the outcome of the vote on its bundle. -/
structure Hdr where
  pu   : Fin 60
  pfx  : List (BitVec 4)
  vote : Vote
deriving DecidableEq, Repr

/-- The PU that makes an interruption entry, and the outcome of the vote on its bundle (R138, R173). -/
structure EntryHdr where
  pu   : Fin 60
  vote : Vote
deriving DecidableEq, Repr

/-- What befalls a micro-program as it runs: the wait cycles after which the condition of each WAIT is met, 0 for one that is not;
whether an enabled interruption has become pending at each BF of IRQ; the core cycles in which the data of each memory read
arrives (R147, R150, R152). -/
structure MicroRun where
  waits : List Nat
  irqs  : List Bool
  lats  : List Nat
deriving DecidableEq, Repr

/-- What training finds on a memory channel (R419, R453): its die and controller, whether it trained, the DIMM slots in use,
and its GiB. -/
structure Training where
  die     : Fin 6
  mc      : Fin 2
  trained : Bool
  dimms   : BitVec 2
  cap     : Fin 513
deriving DecidableEq, Repr

/-- The commands: the rows of the opcode table in its order. -/
inductive Instr where
  /-- LD (R88): Loads a whole word with its tag from a memory operand into a general register. -/
  | ld (h : Hdr) (op1 : Spec) (op2 : Spec)
  /-- LDW (R36): Loads 4 bytes zero-extended from one word into a register, tagged INT or UNINIT. -/
  | ldw (h : Hdr) (op1 : Spec) (op2 : Spec)
  /-- LDH (R36): Loads 2 bytes zero-extended from one word into a register. -/
  | ldh (h : Hdr) (op1 : Spec) (op2 : Spec)
  /-- LDB (R36): Loads 1 byte zero-extended from one word into a register. -/
  | ldb (h : Hdr) (op1 : Spec) (op2 : Spec)
  /-- ST (R87): Stores a whole register word with its tag into memory. -/
  | st (h : Hdr) (op1 : Spec) (op2 : Spec)
  /-- STW (R37): Stores the low 4 bytes of a register into a word, keeping or adjusting the word's tag. -/
  | stw (h : Hdr) (op1 : Spec) (op2 : Spec)
  /-- STH (R37): Stores the low 2 bytes of a register under the narrow-store tag rules. -/
  | sth (h : Hdr) (op1 : Spec) (op2 : Spec)
  /-- STB (R37): Stores the low byte of a register under the narrow-store tag rules. -/
  | stb (h : Hdr) (op1 : Spec) (op2 : Spec)
  /-- LDA (R89): Writes the bank offset of an address specifier to a register tagged PTR, with no access check. -/
  | lda (h : Hdr) (op1 : Spec) (op2 : Spec)
  /-- LDBANK (R90): Loads a 16-byte descriptor indivisibly into a bank register under R43. -/
  | ldbank (h : Hdr) (op1 : Spec) (op2 : Spec)
  /-- STBANK (R90): Stores a bank register as two DESC words, or two UNINIT words when empty. -/
  | stbank (h : Hdr) (op1 : Spec) (op2 : Spec)
  /-- LDX (R89): Loads a word from a register-given offset in the implicit bank. -/
  | ldx (h : Hdr) (op1 : Spec) (op2 : Spec)
  /-- STX (R89): Stores a word at a register-given offset in the implicit bank. -/
  | stx (h : Hdr) (op1 : Spec) (op2 : Spec)
  /-- MOV (R91): Copies a source operand with its tag to a destination, serving as push and pop with stack specifiers. -/
  | mov (h : Hdr) (op1 : Spec) (op2 : Spec)
  /-- MOVL (R93): Copies storage between two register-pair operands as a resumable sequence of units. -/
  | movl (h : Hdr) (op1 : Spec) (op2 : Spec)
  /-- ADD (R96): Adds op2 into op1 with the tag and condition-code rules for INT and PTR. -/
  | add (h : Hdr) (op1 : Spec) (op2 : Spec)
  /-- SUB (R96): Subtracts op2 from op1 with the tag and condition-code rules for INT and PTR. -/
  | sub (h : Hdr) (op1 : Spec) (op2 : Spec)
  /-- NEG (R96): Negates an INT operand. -/
  | neg (h : Hdr) (op1 : Spec)
  /-- CMP (R96): Compares two operands of one tag and sets the condition code. -/
  | cmp (h : Hdr) (op1 : Spec) (op2 : Spec)
  /-- CMPU (R96): Compares two operands as unsigned values. -/
  | cmpu (h : Hdr) (op1 : Spec) (op2 : Spec)
  /-- AND (R97): Logical AND of two operands. -/
  | and (h : Hdr) (op1 : Spec) (op2 : Spec)
  /-- OR (R97): Logical OR of two operands. -/
  | or (h : Hdr) (op1 : Spec) (op2 : Spec)
  /-- XOR (R97): Logical exclusive OR of two operands. -/
  | xor (h : Hdr) (op1 : Spec) (op2 : Spec)
  /-- NOT (R97): Logical complement of an operand. -/
  | not (h : Hdr) (op1 : Spec)
  /-- SHL (R97): Shifts left with zero fill. -/
  | shl (h : Hdr) (op1 : Spec) (op2 : Spec)
  /-- SHR (R97): Shifts right with zero fill. -/
  | shr (h : Hdr) (op1 : Spec) (op2 : Spec)
  /-- SAR (R97): Shifts right with sign fill. -/
  | sar (h : Hdr) (op1 : Spec) (op2 : Spec)
  /-- ROL (R97): Rotates left. -/
  | rol (h : Hdr) (op1 : Spec) (op2 : Spec)
  /-- BR (R99): Branches to a bank-relative target. -/
  | br (h : Hdr) (op1 : Spec)
  /-- BC (R99): Branches to a bank-relative target when the mask bit for the condition code is set. -/
  | bc (h : Hdr) (op1 : Spec) (op2 : Spec)
  /-- BRR (R99): Branches to a register target tagged CODE. -/
  | brr (h : Hdr) (op1 : Spec)
  /-- BCR (R99): Branches conditionally to a register target tagged CODE. -/
  | bcr (h : Hdr) (op1 : Spec) (op2 : Spec)
  /-- CALL (R100): Forms a bank-relative target, pushes a RETADDR word and branches. -/
  | call (h : Hdr) (op1 : Spec)
  /-- CALLR (R100): Pushes a RETADDR word and branches to a register target tagged CODE. -/
  | callr (h : Hdr) (op1 : Spec)
  /-- RET (R52): Pops and checks the RETADDR word at RSP and branches to it. -/
  | ret (h : Hdr)
  /-- RSREAD (R101): Reads the return-stack entry at RSP as INT without moving RSP. -/
  | rsread (h : Hdr) (op1 : Spec)
  /-- RSDROP (R101): Checks and discards 1 to 255 return-stack entries. -/
  | rsdrop (h : Hdr) (op1 : Spec)
  /-- STRSP (R101): Stores RSP into an operand tagged INT. -/
  | strsp (h : Hdr) (op1 : Spec)
  /-- SRSP (R45): Sets RSP from an INT operand that is a multiple of 8. -/
  | srsp (h : Hdr) (op1 : Spec)
  /-- SYNC (R219): Full barrier that waits for earlier loads, merging-buffer entries and device stores. -/
  | sync (h : Hdr)
  /-- SYNCS (R220): Store barrier that orders later stores after earlier ones. -/
  | syncs (h : Hdr)
  /-- FPSYNC (R127): Reporting boundary that delivers a pending deferred floating-point trap. -/
  | fpsync (h : Hdr)
  /-- CAS (R103): Compares a memory word with a register in data and tag and swaps on equality, indivisibly. -/
  | cas (h : Hdr) (op1 : Spec) (op2 : Spec) (op3 : Spec)
  /-- FADD (R103): Adds to a memory word indivisibly and returns the old word. -/
  | fadd (h : Hdr) (op1 : Spec) (op2 : Spec) (op3 : Spec)
  /-- TAGGET (R104): Returns the tag of an operand as an INT value. -/
  | tagget (h : Hdr) (op1 : Spec) (op2 : Spec)
  /-- TAGCHK (R104): Tests the bit of a mask selected by an operand's tag. -/
  | tagchk (h : Hdr) (op1 : Spec) (op2 : Spec)
  /-- TAGSET (R105): Changes only the tag of an operand, indivisibly for memory. -/
  | tagset (h : Hdr) (op1 : Spec) (op2 : Spec)
  /-- MKDESC (R106): Writes a base and attribute word as a DESC pair indivisibly. -/
  | mkdesc (h : Hdr) (op1 : Spec) (op2 : Spec) (op3 : Spec)
  /-- LCA (R106): Forms a CODE word from a bank-relative target address. -/
  | lca (h : Hdr) (op1 : Spec) (op2 : Spec)
  /-- IOSTART (R311): Sends a start block to the channel subsystem and receives a condition code and DEFERRED indication. -/
  | iostart (h : Hdr) (op1 : Spec) (op2 : Spec) (op3 : Spec)
  /-- IOHALT (R314): Halts the active start of an IOQ. -/
  | iohalt (h : Hdr) (op1 : Spec)
  /-- IOCLEAR (R315): Ends every queued and active start of an IOQ and removes its suspension and sense. -/
  | ioclear (h : Hdr) (op1 : Spec)
  /-- IOTEST (R316): Takes the oldest stored status of an IOQ or stores a query record. -/
  | iotest (h : Hdr) (op1 : Spec) (op2 : Spec)
  /-- IOSENSE (R317): Stores the IOQ's sense record. -/
  | iosense (h : Hdr) (op1 : Spec) (op2 : Spec)
  /-- CMPB (R359): Compresses a storage operand into Bellows blocks as a resumable instruction. -/
  | cmpb (h : Hdr) (op1 : Spec) (op2 : Spec) (op3 : Spec)
  /-- EXPB (R360): Expands Bellows blocks into a storage operand as a resumable instruction. -/
  | expb (h : Hdr) (op1 : Spec) (op2 : Spec)
  /-- BELLOWS_UNIT (R363): The Bellows engine takes a waiting unit in round-robin slot order and codes or decodes one block. -/
  | bellowsUnit (e : Fin 12) (vote : Vote) (belCheck muteCheck : Bool)
  /-- MLOCK (R110): Takes the cluster's Mute engine for this PU. -/
  | mlock (h : Hdr) (op1 : Spec)
  /-- MFREE (R110): Releases the cluster's Mute engine held by this PU. -/
  | mfree (h : Hdr)
  /-- MSEAL (R374): Encrypts payload and authenticates AAD under a parameter block as a resumable instruction. -/
  | mseal (h : Hdr) (op1 : Spec) (op2 : Spec) (op3 : Spec)
  /-- MOPEN (R377): Decrypts payload under a parameter block, writing SEALED plaintext and finishing by the tag verdict. -/
  | mopen (h : Hdr) (op1 : Spec) (op2 : Spec) (op3 : Spec)
  /-- MUTE_UNIT (R374): The Mute engine processes one AAD, payload, tag or finishing unit for its holder and writes the state back. -/
  | muteUnit (e : Fin 12) (vote : Vote) (check : Bool)
  /-- SVC (R111): Supervisor call with a code of 0 to 255. -/
  | svc (h : Hdr) (op1 : Spec)
  /-- RETI (R144): Checks and reloads the old PSW of a class slot and clears the class busy bit. -/
  | reti (h : Hdr) (op1 : Spec)
  /-- RDTOD (R114): Samples the time of day once into a register pair. -/
  | rdtod (h : Hdr) (op1 : Spec)
  /-- STPU (R111): Writes the PU number and partition into a register. -/
  | stpu (h : Hdr) (op1 : Spec)
  /-- NOP (R111): Does nothing. -/
  | nop (h : Hdr)
  /-- SIGPU_SENSE (R113): SIGPU order 0 senses whether the target PU is running or stopped. -/
  | sigpuSense (h : Hdr) (op1 : Spec) (op2 : Spec)
  /-- SIGPU_EXTERNAL_CALL (R113): SIGPU order 1 makes external call 0x1001 pending at the target. -/
  | sigpuExternalCall (h : Hdr) (op1 : Spec) (op2 : Spec)
  /-- SIGPU_STOP (R113): SIGPU order 2 holds a stop that the target takes at its next boundary. -/
  | sigpuStop (h : Hdr) (op1 : Spec) (op2 : Spec)
  /-- SIGPU_RESTART (R113): SIGPU order 3 makes a restart interruption pending and runs a stopped target. -/
  | sigpuRestart (h : Hdr) (op1 : Spec) (op2 : Spec)
  /-- SIGPU_SET_PREFIX (R113): SIGPU order 4 sets PREFIX of a stopped target. -/
  | sigpuSetPrefix (h : Hdr) (op1 : Spec) (op2 : Spec)
  /-- PSWLD (R112): Loads the PSW from a 16-byte memory operand under the privilege rules. -/
  | pswld (h : Hdr) (op1 : Spec)
  /-- CTLWR (R111): Writes a control register. -/
  | ctlwr (h : Hdr) (op1 : Spec) (op2 : Spec)
  /-- CTLRD (R111): Reads a control register into an INT operand. -/
  | ctlrd (h : Hdr) (op1 : Spec) (op2 : Spec)
  /-- PFXWR (R49): Writes PREFIX, serialising the PU and checking the area against the partition's zones. -/
  | pfxwr (h : Hdr) (op1 : Spec)
  /-- PFXRD (R111): Reads PREFIX into an INT operand. -/
  | pfxrd (h : Hdr) (op1 : Spec)
  /-- TBPURGE (R57): Purges this PU's translation buffer. -/
  | tbpurge (h : Hdr)
  /-- TBPURGEP (R112): Purges the translation buffers of every PU of the partition. -/
  | tbpurgep (h : Hdr)
  /-- MUL (R116): Signed multiply keeping the low bits. -/
  | mul (h : Hdr) (op1 : Spec) (op2 : Spec)
  /-- MULP (R116): Signed 128-bit multiply into a register pair. -/
  | mulp (h : Hdr) (op1 : Spec) (op2 : Spec)
  /-- MULPU (R116): Unsigned 128-bit multiply into a register pair. -/
  | mulpu (h : Hdr) (op1 : Spec) (op2 : Spec)
  /-- DIV (R117): Signed divide of a pair, giving quotient and remainder. -/
  | div (h : Hdr) (op1 : Spec) (op2 : Spec)
  /-- DIVU (R117): Unsigned divide of a pair, giving quotient and remainder. -/
  | divu (h : Hdr) (op1 : Spec) (op2 : Spec)
  /-- ADDBF (R122): Binary floating-point add. -/
  | addbf (h : Hdr) (op1 : Spec) (op2 : Spec)
  /-- SUBBF (R122): Binary floating-point subtract. -/
  | subbf (h : Hdr) (op1 : Spec) (op2 : Spec)
  /-- MULBF (R122): Binary floating-point multiply. -/
  | mulbf (h : Hdr) (op1 : Spec) (op2 : Spec)
  /-- DIVBF (R122): Binary floating-point divide. -/
  | divbf (h : Hdr) (op1 : Spec) (op2 : Spec)
  /-- FMABF (R122): Fused multiply-add with one rounding. -/
  | fmabf (h : Hdr) (op1 : Spec) (op2 : Spec) (op3 : Spec)
  /-- MINBF (R122): IEEE minimum of two operands. -/
  | minbf (h : Hdr) (op1 : Spec) (op2 : Spec)
  /-- MAXBF (R122): IEEE maximum of two operands. -/
  | maxbf (h : Hdr) (op1 : Spec) (op2 : Spec)
  /-- NEGBF (R122): Inverts the sign bit. -/
  | negbf (h : Hdr) (op1 : Spec)
  /-- ABSBF (R122): Clears the sign bit. -/
  | absbf (h : Hdr) (op1 : Spec)
  /-- LFPC (R121): Loads the floating-point control register. -/
  | lfpc (h : Hdr) (op1 : Spec)
  /-- STFPC (R120): Stores the floating-point control register. -/
  | stfpc (h : Hdr) (op1 : Spec)
  /-- STFIA (R120): Stores the floating-point failing-instruction address. -/
  | stfia (h : Hdr) (op1 : Spec)
  /-- SQRTBF (R122): Binary floating-point square root. -/
  | sqrtbf (h : Hdr) (op1 : Spec) (op2 : Spec)
  /-- RNDBF (R122): Rounds to an integral floating-point value under RM. -/
  | rndbf (h : Hdr) (op1 : Spec) (op2 : Spec)
  /-- CVTIB (R122): Converts a signed integer to floating point. -/
  | cvtib (h : Hdr) (op1 : Spec) (op2 : Spec)
  /-- CVTBI (R123): Converts floating point to a signed integer under RM. -/
  | cvtbi (h : Hdr) (op1 : Spec) (op2 : Spec)
  /-- CVTBW (R123): Widens binary32 to binary64 exactly. -/
  | cvtbw (h : Hdr) (op1 : Spec) (op2 : Spec)
  /-- CVTBN (R123): Narrows binary64 to binary32 with rounding. -/
  | cvtbn (h : Hdr) (op1 : Spec) (op2 : Spec)
  /-- ADDP (R131): Packed-decimal add of register pairs. -/
  | addp (h : Hdr) (op1 : Spec) (op2 : Spec)
  /-- SUBP (R131): Packed-decimal subtract of register pairs. -/
  | subp (h : Hdr) (op1 : Spec) (op2 : Spec)
  /-- CMPP (R129): Packed-decimal compare. -/
  | cmpp (h : Hdr) (op1 : Spec) (op2 : Spec)
  /-- CVTPI (R131): Converts packed decimal to a signed integer. -/
  | cvtpi (h : Hdr) (op1 : Spec) (op2 : Spec)
  /-- CVTIP (R131): Converts a signed integer to packed decimal. -/
  | cvtip (h : Hdr) (op1 : Spec) (op2 : Spec)
  /-- CUSTOM_INSTRUCTION (R156): Runs a bound custom opcode's micro-program, holding writes until END and then performing them. -/
  | customInstruction (h : Hdr) (j : BitVec 6) (ops : List Spec) (run : MicroRun)
  /-- INTERRUPTION_ENTRY (R138): At a boundary the PU stores the old PSW and cause into the class slot and loads the new PSW. -/
  | interruptionEntry (e : EntryHdr)
  /-- PULOCK_CLEAR (R143): Writing 1 to PULOCK.LOCKED ends a lockup, clears the busy bits and leaves the PU stopped. -/
  | pulockClear (pu : Fin 60)
  /-- MISSING_BUNDLE (R176): A bundle not at the voters 16 core cycles after its due cycle counts as a dissent. -/
  | missingBundle (pu : Fin 60) (role : Role)
  /-- RESYNC (R180): At the next boundary after a dissent the cores are halted, the slates scrubbed and state reloaded. -/
  | resync (pu : Fin 60) (pause : Fin 1537) (check : SelfCheck) (loss : SlateLoss)
  /-- RETAKE (R181): Undoes and re-executes the instruction or unit from the slate, replaying latched responses. -/
  | retake (pu : Fin 60) (pause : Fin 1537) (check : SelfCheck) (loss : SlateLoss) (lost : Option (Fin 64))
  /-- DISSENT_WINDOW_EXPIRY (R185): A recorded dissent time leaves the 2^20-shutter window at a shutter tick. -/
  | dissentWindowExpiry (pu : Fin 60) (role : Role)
  /-- STANDIN_SELFTEST_DONE (R186): The stand-in's array self-test ends and the microstore copy begins, or the stand-in is retired. -/
  | standinSelftestDone (pu : Fin 60) (pass : Bool)
  /-- STANDIN_COPY_DONE (R186): The microstore copy into the stand-in completes. -/
  | standinCopyDone (pu : Fin 60)
  /-- STANDIN_INSERTION (R186): At the first boundary after the copy the stand-in joins the triad through a resync. -/
  | standinInsertion (pu : Fin 60) (pause : Fin 1537) (check : SelfCheck) (loss : SlateLoss)
  /-- MOVESLATE (R191): PUCMD moves a checkstopped PU's slate, latch and unit hold to a spare PU. -/
  | moveslate (pu : Fin 60) (target : BitVec 6)
  /-- PAIRTEST (R192): PUCMD runs recovery pair tests on an offline or checkstopped PU. -/
  | pairtest (pu : Fin 60) (discard : Bool)
  /-- PAIRTEST_COMPLETE (R192): The pair test ends and the PU is formed again from its good cores. -/
  | pairtestComplete (pu : Fin 60) (good : BitVec 3)
  /-- MERGING_BUFFER_PERFORM (R201): The oldest merging-buffer entry is performed in the L2 as one act. -/
  | mergingBufferPerform (pu : Fin 60) (bad : BitVec 8)
  /-- PRELOAD (R204): L2CMD reads a range of lines into PLWAYS ways with shared permission. -/
  | preload (pu : Fin 60)
  /-- LOCK (R205): L2CMD sets the locked ways to PLWAYS. -/
  | lock (pu : Fin 60)
  /-- UNLOCK (R205): L2CMD clears the locked ways and reserve marks. -/
  | unlock (pu : Fin 60)
  /-- RANGEINV (R206): L2CMD writes back and invalidates a range of lines held in the L2. -/
  | rangeinv (pu : Fin 60)
  /-- L2_DRAIN (R207): Writing 0 to L2CTL.EN begins a drain of the L2. -/
  | l2Drain (pu : Fin 60)
  /-- L2_DRAIN_COMPLETE (R207): The last drain writeback completes and STATE becomes disabled. -/
  | l2DrainComplete (pu : Fin 60)
  /-- L2_ENABLE (R207): Writing 1 to L2CTL.EN while disabled enables an empty L2. -/
  | l2Enable (pu : Fin 60)
  /-- PATROL_SCRUB_READ (R215): A controller reads a line for patrol scrub and corrects or poisons it. -/
  | patrolScrubRead (die : Fin 6) (mc : Fin 2) (line : BitVec 45) (found : DramResult)
  /-- DEVICE_STORE_TIMEOUT (R226): A device store without agent acceptance by the DSTO-th tick becomes a lost record. -/
  | deviceStoreTimeout (pu : Fin 60)
  /-- DEVICE_LOAD_TIMEOUT (R229): A device load without data by the DSTO-th tick raises code 0x0053. -/
  | deviceLoadTimeout (pu : Fin 60)
  /-- MEMMAP_EFFECT (R211): A MEMMAP write takes effect at the second tick and ACTIVE and MAPERR are evaluated again. -/
  | memmapEffect
  /-- ZONE_EFFECT (R59): A PZORG or PZEND write takes effect for every PU at the second shutter tick. -/
  | zoneEffect
  /-- DEVICE_REGION_EFFECT (R223): A device region or PDEVCTL write takes effect at the second shutter tick. -/
  | deviceRegionEffect
  /-- RDS (R237): The home takes up a read for sharing and grants S or E. -/
  | rds (who : Requester) (line : BitVec 45) (met : Met)
  /-- RDX (R237): The home takes up a read for ownership, invalidates other copies and grants M. -/
  | rdx (who : Requester) (line : BitVec 45) (found : Found)
  /-- UPG (R237): The home upgrades a held copy to M, or treats the request as RDX. -/
  | upg (who : Requester) (line : ReqLine)
  /-- RDNC (R237): The home serves a non-caching read of the current line. -/
  | rdnc (who : Requester) (line : ReqLine)
  /-- WRNC (R237): The home merges a non-caching write into the line and writes memory. -/
  | wrnc (who : Requester) (line : ReqLine) (wr : List WordMask) (stash : Option Stash) (part : Fin 32)
  /-- ATOM (R246): The home performs a far atomic in its L3 and returns CMP with the result. -/
  | atom (a : FarAtom)
  /-- SNPS (R237): The owner keeps a shared copy and sends the line to the requester. -/
  | snps (node : Fin 10) (line : HeldLine)
  /-- SNPX (R237): The owner invalidates and sends the line to the requester. -/
  | snpx (node : Fin 10) (line : HeldLine)
  /-- SNPN (R237): The owner sends the line and keeps its state. -/
  | snpn (node : Fin 10) (line : HeldLine)
  /-- SNPI (R237): The node invalidates its copy without data. -/
  | snpi (node : Fin 10) (line : BitVec 45)
  /-- SNPR (R237): The node invalidates and returns any dirty line to the home. -/
  | snpr (node : Fin 10) (line : HeldLine)
  /-- ACK (R238): The home receives a snoop answer with HELD and DIRTY. -/
  | ack (node : Fin 10) (line : BitVec 45) (held dirty : Bool) (data : List TWord)
  /-- WB (R237): The home receives a writeback of a dirty line and updates the entry. -/
  | wb (node : Fin 10) (line : HeldLine) (data : List TWord)
  /-- EVC (R237): The home receives a clean departure from X. -/
  | evc (node : Fin 10) (line : BitVec 45)
  /-- CMPACK (R236): The home receives the requester's acknowledgement and closes the transaction. -/
  | cmpack (who : Requester) (line : BitVec 45)
  /-- DATA (R236): The requester receives the line with its granted state. -/
  | data (who : Requester) (line : BitVec 45) (data : List TWord)
  /-- HOME_SNOOP_TIMEOUT (R249): A snoop unanswered at the fourth tick poisons an owned line and fails the node. -/
  | homeSnoopTimeout (node : Fin 10) (line : BitVec 45)
  /-- SHUTTER_TICK (R19): The module tick every 2,048 fabric cycles advances SHCOUNT and loads the per-shutter counters. -/
  | shutterTick (lost : List LostStart)
  /-- SLOT_ARBITRATION (R264): A link slot is given to the first candidate flit in the order of its slot kind. -/
  | slotArbitration (node : Fin 7) (link : BitVec 5) (r : Fin 2) (slot : Fin 4096) (arriving : List FabMsg)
  /-- COMMIT (R258): SLOTCMT.COMMIT checks the inactive slot-table bank and sets PEND on success. -/
  | commit (node : Fin 7) (link : BitVec 5) (r : Fin 2)
  /-- SLOT_BANK_EXCHANGE (R258): At the second tick after a commit the slot-table banks exchange roles. -/
  | slotBankExchange
  /-- GPCTL_EN (R277): Writing GPCTL.EN starts link training or takes the link down. -/
  | gpctlEn (k : Fin 4) (en : Bool)
  /-- LINK_DOWN_RETRY (R277): 1,024 shutters after entering DOWN with EN set the link enters TRAIN. -/
  | linkDownRetry (k : Fin 4)
  /-- TRAIN_COMPLETE (R277): Training at 2.5 GT/s ends and the link enters SPEED or DOWN. -/
  | trainComplete (k : Fin 4) (result : TrainResult)
  /-- SPEED_COMPLETE (R277): Recovery to 64 GT/s ends and the link enters INIT or DOWN. -/
  | speedComplete (k : Fin 4) (up : Bool)
  /-- INIT (R285): The port checks the agent's INIT record and enters ACTIVE or DOWN. -/
  | init (k : Fin 4) (record : BitVec 128)
  /-- INIT_TIMEOUT (R277): INIT not completed within 16 shutters takes the link down. -/
  | initTimeout (k : Fin 4)
  /-- FLIT_RECEIVE (R279): A received flit is FEC-corrected and CRC-checked, and its chunks are passed on or the flit discarded. -/
  | flitReceive (k : Fin 4) (flit : BitVec 2048) (fec : Bool)
  /-- NAK_REPLAY (R281): A sender receiving NAK resends every flit from ACKSEQ + 1. -/
  | nakReplay (k : Fin 4) (ackseq : BitVec 10)
  /-- REPLAY_TIMEOUT (R281): 256 flit periods without ACKSEQ advancing cause a replay. -/
  | replayTimeout (k : Fin 4)
  /-- RETRAIN_END (R277): Retraining ends, returning to the earlier state or DOWN after 64 shutters. -/
  | retrainEnd (k : Fin 4) (up : Bool)
  /-- GUEST_LINK_DOWN (R296): A link leaving service for DOWN loses device accesses, absorbs requests and fails a caching node. -/
  | guestLinkDown (k : Fin 4) (cause : Fin 9)
  /-- GUEST_REQUEST (R287): A complete agent request is checked and admitted or refused with a NACK. -/
  | guestRequest (k : Fin 4) (record : BitVec 128) (data : List Word)
  /-- GUEST_REQUEST_DISPATCH (R288): An admitted request leaves the ingress queue with a home credit after a re-check of zone and window. -/
  | guestRequestDispatch (k : Fin 4) (pos : Fin 32) (found : Found)
  /-- DRD (R290): A PU device load is sent to the agent as a device read. -/
  | drd (pu : Fin 60)
  /-- DWR (R290): A PU device store is sent to the agent as a device write. -/
  | dwr (d : DevStore)
  /-- DRSP (R292): The agent's device response gives agent acceptance, data or an error. -/
  | drsp (k : Fin 4) (record : BitVec 128) (data : List Word)
  /-- CREDIT_RETURN (R286): The agent returns snoop or device credits in a flit's control field. -/
  | creditReturn (k : Fin 4) (kind : Fin 3) (count : BitVec 8)
  /-- QUIESCE (R297): GPCTL command moves the link from ACTIVE to QUIESCED. -/
  | quiesce (k : Fin 4)
  /-- GP_RESUME (R297): GPCTL command moves the link from QUIESCED to ACTIVE. -/
  | gpResume (k : Fin 4)
  /-- FLUSH (R297): GPCTL command enters FLUSHING and sends LCMD FLUSH to the caching agent. -/
  | flush (k : Fin 4)
  /-- FLUSHED (R297): The agent's FLUSHED clears its caching bit and returns the link to QUIESCED. -/
  | flushed (k : Fin 4)
  /-- GPBIND_WRITE (R289): A write to GPBIND binds the port to a partition when the link state allows. -/
  | gpbindWrite (k : Fin 4) (v : Word)
  /-- PIOQR_WRITE (R299): A PIOQR write assigns an IOQ range to a partition from the second tick. -/
  | pioqrWrite (p : Fin 32) (r : Fin 64) (v : Word)
  /-- START_DISPATCH (R301): The oldest queued start of an IOQ becomes active on the engine with fewest exchanges. -/
  | startDispatch
  /-- JOURNAL_SPILL (R324): A committed start is written to both journal copies and its ring entry freed. `lost`: both banks had
  lost the entry, and whether USER and SBKADDR were recovered (R329). -/
  | journalSpill
  /-- CCE_FETCH (R304): The engine fetches and checks the next CCE before sending anything for it. -/
  | cceFetch (ioq : Fin 262144)
  /-- STATUS_STORE (R320): An ending or progress status is stored in the IOQ and makes an I/O interruption pending. -/
  | statusStore (ioq : Fin 262144)
  /-- START_TIMER_EXPIRY (R319): A start active for TMO × 1,024 shutters is halted with TIMED set. -/
  | startTimerExpiry (ioq : Fin 262144)
  /-- CHANNEL_ENGINE_FAILURE (R326): A failed engine is fenced and its exchanges fail over to a spare or the active engines. -/
  | channelEngineFailure (engine : Fin 18)
  /-- PATH_LOSS_TIMEOUT (R327): A start without a path for PATHTO × 1,024 shutters ends with NOPATH. -/
  | pathLossTimeout (ioq : Fin 262144)
  /-- CSCTL_ENABLE (R325): Writing 1 to CSCTL.EN checks the journal bases and enables the subsystem. -/
  | csctlEnable (v : Word)
  /-- CHANNEL_FRAME_RECEIVE (R335): A received Ethernet frame is checked in order and discarded or passed to its exchange. -/
  | channelFrameReceive (port : Fin 16) (frame : List (BitVec 8)) (fcs : Bool)
  /-- PFC_PAUSE (R331): The port sends or repeats PFC for priority 3 by receive-buffer level. -/
  | pfcPause (port : Fin 16) (level : BitVec 22)
  /-- NEIGHBOR_SOLICITATION (R332): The port answers a Neighbor Solicitation for its address. -/
  | neighborSolicitation (port : Fin 16) (target asker : BitVec 128)
  /-- LOGIN (R339): A pair sends LOGIN at once and every 1,024 shutters until accepted. -/
  | login (port : Fin 16) (cu : Fin 4096)
  /-- LOGINACC (R339): A login answer sets or leaves OPER. -/
  | loginacc (port : Fin 16) (cu : Fin 4096) (f : ChanFrame)
  /-- ECHO (R340): An operational pair sends an ECHO at least every 1,024 shutters. -/
  | echo (port : Fin 16) (cu : Fin 4096)
  /-- ECHOREP (R340): An echo reply within 4 × RTO records RTT. -/
  | echorep (port : Fin 16) (cu : Fin 4096) (f : ChanFrame)
  /-- ECHO_TIMEOUT (R340): An unanswered ECHO counts toward three misses that clear OPER. -/
  | echoTimeout (port : Fin 16) (cu : Fin 4096)
  /-- CHANNEL_ACK (R341): A frame's ACK field advances the sender's acknowledged position. -/
  | channelAck (port : Fin 16) (cu : Fin 4096) (f : ChanFrame)
  /-- ACK_DELAY_EXPIRY (R342): 2 µs after accepting a frame the module sends an ACK if none left. -/
  | ackDelayExpiry (ioq : Fin 262144)
  /-- CMD_FRAME (R345): The channel sends a command frame for the next command. -/
  | cmdFrame (ioq : Fin 262144)
  /-- DATA_FRAME (R345): A data frame of a read is written to memory, or a write's data frame is sent. -/
  | dataFrame (move : DataMove)
  /-- CKPT (R347): After each read CCE the channel journals and sends a checkpoint. -/
  | ckpt (ioq : Fin 262144)
  /-- TERM (R345): The channel sends TERM with the offset at which the data ends. -/
  | term (ioq : Fin 262144)
  /-- CMDEND (R345): The device's end of a command gives its count and status and continues or ends the start. -/
  | cmdend (port : Fin 16) (cu : Fin 4096) (f : ChanFrame)
  /-- ENDACK (R345): The channel acknowledges a stored ending to the control unit. -/
  | endack (ioq : Fin 262144)
  /-- RESUME_FRAME (R347): The channel sends RESUME on a new path or after a journal restart. -/
  | resumeFrame (ioq : Fin 262144) (journal : Bool)
  /-- HALT (R346): The channel sends HALT for an exchange after IOHALT. -/
  | halt (ioq : Fin 262144)
  /-- CLEAR (R346): The channel sends CLEAR for an exchange after IOCLEAR. -/
  | clear (ioq : Fin 262144)
  /-- HALTACK (R346): The control unit's halt answer ends the start by its RESULT. -/
  | haltack (port : Fin 16) (cu : Fin 4096) (f : ChanFrame)
  /-- CLEARACK (R346): The control unit's clear answer ends the start by its RESULT. -/
  | clearack (port : Fin 16) (cu : Fin 4096) (f : ChanFrame)
  /-- RETRANSMISSION_TIMEOUT (R343): RTO expiry resends outstanding frames and moves the exchange after RETRY expiries. -/
  | retransmissionTimeout (ioq : Fin 262144)
  /-- BELCMD_TEST (R362): TEST self-tests a fenced Bellows engine and clears the fence on pass. -/
  | belcmdTest (e : Fin 12) (pass : Bool)
  /-- MUTCMD_TEST (R381): TEST self-tests a fenced Mute engine and clears the fence on pass. -/
  | mutcmdTest (e : Fin 12) (pass : Bool)
  /-- RELEASE (R365): MUTCMD ends the holding of a held Mute engine. -/
  | release (e : Fin 12)
  /-- PROVISION (R368): KEKCMD unwraps and loads a partition's key-encryption key. -/
  | provision
  /-- KEK_ERASE (R368): KEKCMD erases a partition's KEK, image key and slot keys. -/
  | kekErase
  /-- PKEYOWN_WRITE (R369): A key-slot ownership write is checked and takes effect at the second tick. -/
  | pkeyownWrite (p : Fin 32) (e : Fin 12) (v : Word)
  /-- LINK_KEY_LOAD (R383): LKCMD LOAD unwraps a link key into the entry named by LKSEL. -/
  | linkKeyLoad
  /-- LINK_KEY_ERASE (R383): LKCMD ERASE removes a link key entry. -/
  | linkKeyErase
  /-- LINK_KEY_GRACE_EXPIRY (R383): 1,024 shutters after a link-key load the previous key is no longer accepted. -/
  | linkKeyGraceExpiry (cu : Fin 4096)
  /-- DRBG_RESEED (R382): The die DRBG reseeds from conditioned noise at least every 1,024 shutters. -/
  | drbgReseed (die : Fin 7) (healthy : Bool)
  /-- CUT_TRIGGER (R386): A detected trigger condition freezes engines, drives CUT_N and erases keys by level. -/
  | cutTrigger (present : BitVec 4) (fire : BitVec 2) (part : Fin 32)
  /-- UNFREEZE (R388): CUTCMD releases the freeze when no trigger of level 1 or more is present. -/
  | unfreeze
  /-- CONFIG_REQUEST (R391): The endpoint answers a PCI Express configuration read or write. -/
  | configRequest (r : HostConfig)
  /-- BAR0_ACCESS (R392): A BAR0 memory request accesses a service-endpoint register. -/
  | bar0Access (write : Bool) (off : BitVec 16) (whole : Bool) (v : Word)
  /-- UNSUPPORTED_REQUEST (R391): A request not accepted receives UR or is discarded and logged. -/
  | unsupportedRequest (posted : Bool)
  /-- BAR2_WINDOW_ACCESS (R394): A BAR2 request reaches CCS or memory through its window. -/
  | bar2WindowAccess (w : Fin 8) (o : BitVec 27) (write : Bool) (words : List HostWord)
  /-- EPWIN_WRITE (R395): A window register write becomes pending. -/
  | epwinWrite (w : Fin 8) (v : Word)
  /-- EPWIN_EFFECT (R395): A pending window value takes effect at the second shutter tick. -/
  | epwinEffect
  /-- DOORBELL (R396): Ringing a doorbell makes its mailbox slot BUSY and starts its command. -/
  | doorbell (m : Fin 16) (whole : Bool)
  /-- ABORT_PU (R404): ABORT stops a running PU at the slate. -/
  | abortPu (m : Fin 16)
  /-- ABORT_IOQ (R404): ABORT clears an IOQ as IOCLEAR, ignoring partition. -/
  | abortIoq (m : Fin 16)
  /-- ABORT_CHANNEL_ENGINE (R404): ABORT fails and fences a channel engine with failover. -/
  | abortChannelEngine (m : Fin 16)
  /-- ABORT_BELLOWS (R404): ABORT fences a Bellows engine and ends its units with cc3. -/
  | abortBellows (m : Fin 16)
  /-- ABORT_MUTE (R404): ABORT ends the holding of a cluster Mute engine. -/
  | abortMute (m : Fin 16)
  /-- ABORT_COMPLETE (R405): An ABORT's result is written to its slot with STATE DONE. -/
  | abortComplete (m : Fin 16)
  /-- COPYIN (R400): The endpoint copies host memory into module memory with a chosen tag. -/
  | copyin (m : Fin 16)
  /-- COPYOUT (R400): The endpoint copies module memory to host memory, stopping at SEALED or POISON. -/
  | copyout (m : Fin 16)
  /-- HOST_COMPLETION (R400): A completion for an outstanding endpoint read arrives and its data is written. -/
  | hostCompletion (tag : BitVec 10) (status : BitVec 3) (ep : Bool) (data : List Word)
  /-- COMPLETION_TIMEOUT (R400): An endpoint read reaching its Completion Timeout ends the copy with HOSTTIMEOUT. -/
  | completionTimeout (tag : BitVec 10)
  /-- RESTART (R398): The mailbox RESTART makes a restart interruption pending at a PU. -/
  | restart (m : Fin 16)
  /-- FIRMWARE_MESSAGE (R398): A firmware-message command is presented as service signal 0x1002. -/
  | firmwareMessage (m : Fin 16)
  /-- EPFWDONE (R398): Firmware completes a firmware message in its slot. -/
  | epfwdone (m : Fin 16) (status : BitVec 8)
  /-- EPATTNSET (R399): Firmware sets EPATTN.FW and MSI-X vector 16 is sent. -/
  | epattnset
  /-- BUS_MASTER_DISABLE (R401): Clearing Bus Master Enable ends copies with HOSTABORT and reserves outstanding tags. -/
  | busMasterDisable
  /-- FUNCTION_LEVEL_RESET (R402): FLR abandons tags, ends busy slots and resets windows and attention. -/
  | functionLevelReset
  /-- SE_PERST (R452): SE_PERST_N low holds the endpoint in conventional reset, acting as FLR. -/
  | sePerst
  /-- PPS_EDGE (R409): A PPS_IN rising edge is timestamped and its error e kept. -/
  | ppsEdge (t : Fin 32000)
  /-- PPS_PULSE_ACCEPT (R410): 1 µs after an edge the pulse is judged and drives the TOD state machine and servo. -/
  | ppsPulseAccept (high : Bool)
  /-- PPS_WINDOW_CLOSE (R410): A window closing without an accepted pulse counts a miss and may enter HOLDOVER or ACQUIRE. -/
  | ppsWindowClose
  /-- TOD_STEP (R412): At the tick after lock confirmation TOD steps forward to a whole second. -/
  | todStep
  /-- TODSET (R412): A seconds setting takes effect at the next tick if it moves forward. -/
  | todset (v : Word)
  /-- TODCTL_WRITE (R410): A TODCTL write changes mode and outputs at the next tick. -/
  | todctlWrite (v : Word)
  /-- TODSTEER_WRITE (R411): A STEER write in FREE mode is held until the next tick. -/
  | todsteerWrite (v : Word)
  /-- CLOCK_COMPARATOR (R416): TOD reaching CLKCMP makes the clock-comparator interruption pending. -/
  | clockComparator (pu : Fin 60)
  /-- TEMPERATURE_SAMPLE (R449): Each shutter the sensors are read, raising a warning or trigger 3. -/
  | temperatureSample (readings : List (Fin 7 × Int))
  /-- PWRGOOD_RISE (R417): PWRGOOD rising begins power-up. -/
  | pwrgoodRise
  /-- PWRGOOD_FALL (R418): PWRGOOD falling ends every happening and releases every output. -/
  | pwrgoodFall
  /-- RESET_N_LOW (R417): RESET_N low holds the module in system reset. -/
  | resetNLow
  /-- RESET_N_RISE (R419): RESET_N rising starts the boot phases and the shutter count. -/
  | resetNRise
  /-- ARRAYS_COMPLETE (R419): The array self-tests end, fencing failed dies or stopping on an I/O-die failure. -/
  | arraysComplete (dies : BitVec 6) (sramA sramB node lkarr : Bool) (links : BitVec 6)
  /-- MEMORY_TRAINING_COMPLETE (R419): Channels are trained and initialised, and the boot waits for LOADMC. -/
  | memoryTrainingComplete (chans : List Training)
  /-- SELFTEST_COMPLETE (R189): The paired self-test marks each core good or bad. -/
  | selftestComplete (r1 r2 : BitVec 102)
  /-- LOADMC (R421): The boot command verifies and writes microcode into every core. -/
  | loadmc
  /-- STARTFW (R422): The boot command starts firmware on a spare PU in partition 0. -/
  | startfw (pu : BitVec 6)
  /-- IPLCHAN (R427): The boot command reads the IPL record through a channel start and starts the partition. -/
  | iplchan (pu : BitVec 6) (part : Fin 32)
  /-- IPLCHAN_END (R427): The IPL start ends and the sequencer checks and loads the initial PSW. -/
  | iplchanEnd
  /-- IPLMEM (R427): The boot command starts a partition from an IPL record in memory. -/
  | iplmem (pu : BitVec 6) (part : Fin 32)
  /-- PRESET (R428): The boot command resets one partition. -/
  | preset (part : Fin 32)
  /-- PRESET_FLUSH_TIMEOUT (R428): A guest flush unfinished after 64 shutters takes the link down. -/
  | presetFlushTimeout (k : Fin 4)
  /-- SYSRESET (R430): The boot command or RESET_N performs a system reset after write-back. -/
  | sysreset
  /-- MODULE_SEAL (R429): Writing MODCTL.SEAL seals the module and locks its RWL fields. -/
  | moduleSeal
  /-- PARTITION_SEAL (R429): Writing PCTL.SEAL seals a partition when the module is sealed. -/
  | partitionSeal (p : Fin 32)
  /-- PUPART_WRITE (R426): A PUPART write assigns a spare or stopped PU to a partition and resets it. -/
  | pupartWrite (pu : Fin 60) (p : Fin 32)
  /-- ENROLL (R165): OMCMD unwraps and enrols a partition's customer image key. -/
  | enroll (p : Fin 32)
  /-- LOAD (R166): OMCMD checks, stops the partition's PUs and loads a signed open image. -/
  | load (p : Fin 32)
  /-- UNLOAD (R166): OMCMD removes the partition's open image. -/
  | unload (p : Fin 32)
  /-- IDENT (R432): The JTAG instruction returns MODID. -/
  | ident
  /-- EXTEST (R432): The JTAG instruction drives lands from the boundary scan when unlocked and in reset. -/
  | extest
  /-- SAMPLE (R431): The JTAG instruction samples the boundary-scan register. -/
  | sample (lands : List Bool)
  /-- PRELOAD_SCAN (R431): The JTAG PRELOAD instruction loads the boundary-scan register. -/
  | preloadScan (cells : List Bool)
  /-- DEBUG_HALT (R436): DBG HALT breaks lock-step and halts a PU at its next boundary. -/
  | debugHalt (pu : BitVec 6)
  /-- DEBUG_STEP (R436): DBG STEP runs a halted PU's lead to the next boundary. -/
  | debugStep (pu : BitVec 6)
  /-- DEBUG_RESUME (R193): DBG RESUME ends a debug halt with a resync. -/
  | debugResume (pu : BitVec 6)
  /-- DEBUG_LOCK (R435): DBG LOCK ends the unlocked state and resumes halted PUs. -/
  | debugLock
  /-- TRST_LOW (R435): TRST_N low ends the unlocked state. -/
  | trstLow
  /-- DBGACC (R437): A debug access reads or writes one memory word, CCS register or halted PU register. -/
  | dbgacc (kind : BitVec 2) (wr : Bool) (addr : BitVec 52) (w : TWord)
  /-- VFSEL_UPDATE (R439): An update of VFSEL selects signals for the viewfinder lands. -/
  | vfselUpdate (v : BitVec 72)
  /-- REGISTER_WRITE (R9): A write to a register with no behaviour of its own sets its fields under the access types. -/
  | registerWrite (addr : BitVec 40) (v : Word)
  /-- UNASSIGNED_OPCODE (R69): An opcode byte that no chapter lists raises an operation exception and nullifies the instruction. -/
  | unassignedOpcode (h : Hdr) (b1 b2 : BitVec 8)
  /-- CMP_RESPONSE (R236): The requester receives CMP from the home, after which it performs its writes, frees a journal ring entry or answers its agent. -/
  | cmpResponse (who : Requester) (line : BitVec 45)
  /-- CHANNEL_PORT_LINK_UP (R330): A channel port's Ethernet link comes up, CHPSTAT.LINK becomes 1, and its pairs begin LOGIN. -/
  | channelPortLinkUp (port : Fin 16)
  /-- CHANNEL_PORT_LINK_DOWN (R340): A channel port's Ethernet link goes down, every pair on it loses OPER, and its exchanges move to other paths. -/
  | channelPortLinkDown (port : Fin 16)
  /-- PFC_FRAME_RECEIVE (R331): A received priority flow control frame pauses or releases priority 3 of the port and sets CHPSTAT.PAUSED. -/
  | pfcFrameReceive (port : Fin 16) (enable : BitVec 8) (quanta : BitVec 16)
  /-- PFC_PAUSE_EXPIRY (R331): The pause quanta received for priority 3 run out and the port sends on priority 3 again. -/
  | pfcPauseExpiry (port : Fin 16)
  /-- HALT_RETRANSMISSION_TIMEOUT (R346): RTO expiry resends HALT or CLEAR on the next operational path, and after 8 transmissions ends the start with UNCERT set. -/
  | haltRetransmissionTimeout (ioq : Fin 262144)
  /-- ENGINE_CHECK_WINDOW_EXPIRY (R362): An engine check of a Bellows or Mute engine leaves the 2^20-shutter window and INWIN decreases. -/
  | engineCheckWindowExpiry (e : Fin 12) (mute : Bool)
  /-- MOVESLATE_COMPLETE (R191): MOVESLATE finishes within 4 shutters: the target holds the moved state, the source becomes OFFLINE, PUCMDST.BUSY clears and the target retakes. -/
  | moveslateComplete (pu : Fin 60)
  /-- L2_COMMAND_COMPLETE (R204): A PRELOAD or RANGEINV command ends, L2CMDST.BUSY clears and STATUS and SKIPPED are written. -/
  | l2CommandComplete (pu : Fin 60)
  /-- OPEN_MICROSTORE_COMMAND_COMPLETE (R166): A LOAD or UNLOAD ends: the status is set, the binding becomes active or the regions are zeroed, OMSTAT.BUSY clears and the PUs resume. -/
  | openMicrostoreCommandComplete
  /-- KEK_COMMAND_COMPLETE (R368): A KEK command ends within 1 shutter with its STATUS, and KEKST.BUSY clears. -/
  | kekCommandComplete
  /-- LINK_KEY_COMMAND_COMPLETE (R383): An LKCMD command ends within 1 shutter with its STATUS, and LKCMDST.BUSY clears. -/
  | linkKeyCommandComplete
  /-- LOADMC_COMPLETE (R419): The microcode write into every core ends, MCV is set and PHASE passes to SELFTEST. -/
  | loadmcComplete
  /-- PRESET_COMPLETE (R428): A partition reset ends within 128 shutters and BOOTCMDST records its status. -/
  | presetComplete
  /-- SYSTEM_RESET_WRITEBACK_COMPLETE (R430): The write-back of every dirty L2 and L3 line ends and the system reset proceeds to ARRAYS. -/
  | systemResetWritebackComplete
  /-- TIMING_OUTPUT_EDGE (R415): PPS_OUT rises at each wrap of TOD[63:0] and falls after PPSWIDTH, and SYNC_OUT toggles at its period boundaries. -/
  | timingOutputEdge (t : Fin 4096)
  /-- ENDPOINT_LINK_UP (R389): The service endpoint's PCI Express link completes training to L0 and EPSTAT.LINKUP becomes 1. -/
  | endpointLinkUp (rate : Fin 5) (width : Fin 3)
  /-- ENDPOINT_LINK_DOWN (R389): The service endpoint's PCI Express link leaves L0 and EPSTAT.LINKUP becomes 0. -/
  | endpointLinkDown
  /-- SE_PERST_RELEASE (R452): SE_PERST_N rises, ending the conventional reset and letting the endpoint link train. -/
  | sePerstRelease
  /-- DEBUG_UNLOCK (R433): The UNLOCK instruction captures a fresh challenge, and its Update-DR checks the response, unlocking the port or counting a failure toward Cut trigger 5. -/
  | debugUnlock (response : Option (BitVec 128))
deriving DecidableEq, Repr

end Sys2Proof
end

