-- ==== Sys2Proof/Decode.lean ====
section
/-! DEFINITION. The commands that a word spells. The opcode table gives none of its rows bits, so no word spells a command. -/

namespace Sys2Proof

/-- The command that the low `nbits` bits of a word spell by the opcode table: none, since the table gives no row bits. -/
def decodeTableWord (nbits w : Nat) : Option Instr :=
  match nbits, w with
  | _, _ => none

end Sys2Proof
end

