-- ==== Sys2Proof/Machine/Crypto.lean ====
section
/-! DEFINITION. The cryptographic functions the spec names by their standards: AES-256 (FIPS 197), GCM (SP 800-38D), key
unwrap KW (SP 800-38F), ChaCha20-Poly1305 (RFC 8439), and CRC-32C. Data are lists of bytes in memory order. -/

namespace Sys2Proof.Machine

abbrev Byte := BitVec 8

/-! ### Bytes and numbers -/

/-- k bytes of a number, the most significant first. -/
def bytesBE : Nat → Nat → List Byte
  | 0, _ => []
  | k + 1, x => bytesBE k (x / 256) ++ [BitVec.ofNat 8 x]

/-- The number of bytes read most significant first. -/
def ofBE (b : List Byte) : Nat := b.foldl (fun a x => a * 256 + x.toNat) 0

/-- k bytes of a number, the least significant first. -/
def bytesLE : Nat → Nat → List Byte
  | 0, _ => []
  | k + 1, x => BitVec.ofNat 8 x :: bytesLE k (x / 256)

/-- The number of bytes read least significant first. -/
def ofLE (b : List Byte) : Nat := b.foldr (fun x a => a * 256 + x.toNat) 0

/-- A list cut into pieces of n, the last possibly shorter; `f` bounds their number. -/
def pieces {α : Type} (n : Nat) : Nat → List α → List (List α)
  | 0, _ => []
  | f + 1, l => if l.isEmpty then [] else l.take n :: pieces n f (l.drop n)

def xorBytes : List Byte → List Byte → List Byte
  | x :: xs, y :: ys => (x ^^^ y) :: xorBytes xs ys
  | _, _ => []

/-! ### AES-256 -/

/-- The S-box, byte i of the number for input i. -/
def sboxTable : Nat := 0x16bb54b00f2d99416842e6bf0d89a18cdf2855cee9871e9b948ed9691198f8e19e1dc186b95735610ef6034866b53e708a8bbd4b1f74dde8c6b4a61c2e2578ba08ae7a65eaf4566ca94ed58d6d37c8e779e4959162acd3c25c2406490a3a32e0db0b5ede14b8ee4688902a22dc4f816073195d643d7ea7c41744975fec130ccdd2f3ff1021dab6bcf5389d928f40a351a89f3c507f02f94585334d43fbaaefd0cf584c4a39becb6a5bb1fc20ed00d153842fe329b3d63b52a05a6e1b1a2c830975b227ebe28012079a059618c323c7041531d871f1e5a534ccf73f362693fdb7c072a49cafa2d4adf04759fa7dc982ca76abd7fe2b670130c56f6bf27b777c63

/-- The inverse S-box. -/
def sboxInvTable : Nat := 0x7d0c2155631469e126d677ba7e042b17619953833cbbebc8b0f52aae4d3be0a0ef9cc9939f7ae52d0d4ab519a97f51605fec8027591012b131c7078833a8dd1ff45acd78fec0db9a2079d2c64b3e56fc1bbe18aa0e62b76f89c5291d711af1476edf751ce837f9e28535ade72274ac9673e6b4f0cecff297eadc674f4111913a6b8a130103bdafc1020f3fca8f1e2cd00645b3b80558e4f70ad3bc8c00abd890849d8da75746155edab9edfd5048706c92b6655dcc5ca4d41698688664f6f87225d18b6d49a25b76b224d92866a12e084ec3fa420b954cee3d23c2a632947b54cbe9dec444438e3487ff2f9b8239e37cfbd7f3819ea340bf38a53630d56a0952

def sbox (x : Byte) : Byte := BitVec.ofNat 8 (sboxTable >>> (8 * x.toNat))
def sboxInv (x : Byte) : Byte := BitVec.ofNat 8 (sboxInvTable >>> (8 * x.toNat))

/-- Multiplication by x in GF(2^8). -/
def xtime (a : Byte) : Byte := (a <<< 1) ^^^ (if a.msb then 0x1B else 0)

/-- Product in GF(2^8) with a small constant, bit by bit from k bits. -/
def gmul : Nat → Byte → Byte → Byte
  | 0, _, _ => 0
  | k + 1, a, b => (if b.getLsbD 0 then a else 0) ^^^ gmul k (xtime a) (b >>> 1)

/-- The next word of the key schedule from those so far, latest first; i is its number. -/
def nextKeyWord (i : Nat) (ws : List (List Byte)) : List Byte :=
  let t := ws.headD []
  let t := if i % 8 = 0 then
      let r := (t.drop 1 ++ t.take 1).map sbox
      xorBytes r [BitVec.ofNat 8 (2 ^ (i / 8 - 1)), 0, 0, 0]
    else if i % 8 = 4 then t.map sbox
    else t
  xorBytes (ws.getD 7 []) t

def expandKey : Nat → Nat → List (List Byte) → List (List Byte)
  | 0, _, ws => ws
  | k + 1, i, ws => expandKey k (i + 1) (nextKeyWord i ws :: ws)

/-- The 15 round keys of a 256-bit key. -/
def roundKeys (key : BitVec 256) : List (List Byte) :=
  let ws := (expandKey 52 8 (pieces 4 8 (bytesBE 32 key.toNat)).reverse).reverse
  (pieces 4 15 ws).map List.flatten

def shiftRows (d : Nat) (s : List Byte) : List Byte :=
  (List.range 16).map (fun i => s.getD (4 * ((i / 4 + d * (i % 4)) % 4) + i % 4) 0)

/-- One column multiplied by a circulant matrix row. -/
def mixColumn (m : List Byte) (c : List Byte) : List Byte :=
  (List.range 4).map (fun r =>
    ((List.range 4).map (fun k => gmul 4 (c.getD k 0) (m.getD ((k + 4 - r) % 4) 0))).foldl (· ^^^ ·) 0)

def mixColumns (m : List Byte) (s : List Byte) : List Byte := ((pieces 4 4 s).map (mixColumn m)).flatten

/-- AES-256 encryption of one block under the round keys. -/
def aesEncrypt (rk : List (List Byte)) (b : List Byte) : List Byte :=
  match rk with
  | [] => b
  | k0 :: ks =>
    let s := (ks.dropLast).foldl (fun s k => xorBytes (mixColumns [2, 3, 1, 1] (shiftRows 1 (s.map sbox))) k) (xorBytes b k0)
    xorBytes (shiftRows 1 (s.map sbox)) (ks.getLastD [])

/-- AES-256 decryption of one block. -/
def aesDecrypt (rk : List (List Byte)) (b : List Byte) : List Byte :=
  match rk.reverse with
  | [] => b
  | k0 :: ks =>
    let s := (ks.dropLast).foldl
      (fun s k => mixColumns [14, 11, 13, 9] (xorBytes ((shiftRows 3 s).map sboxInv) k)) (xorBytes b k0)
    xorBytes ((shiftRows 3 s).map sboxInv) (ks.getLastD [])

/-! ### GCM -/

/-- Product in the field of GHASH. -/
def ghashMul : Nat → BitVec 128 → BitVec 128 → BitVec 128 → BitVec 128
  | 0, _, _, z => z
  | k + 1, x, v, z =>
    ghashMul k (x <<< 1) ((v >>> 1) ^^^ (if v.getLsbD 0 then (0xE1 : BitVec 128) <<< 120 else 0))
      (if x.msb then z ^^^ v else z)

/-- GHASH of whole blocks, going on from a value. -/
def ghash (h : BitVec 128) (y : BitVec 128) (blocks : List (List Byte)) : BitVec 128 :=
  blocks.foldl (fun y b =>
    ghashMul 128 (y ^^^ BitVec.ofNat 128 (ofBE (b ++ List.replicate (16 - b.length) 0))) h 0) y

def blocks16 (b : List Byte) : List (List Byte) := pieces 16 (b.length / 16 + 1) b

/-- The hash key of GCM. -/
def gcmH (rk : List (List Byte)) : BitVec 128 := BitVec.ofNat 128 (ofBE (aesEncrypt rk (List.replicate 16 0)))

/-- The counter block for a 96-bit IV. -/
def ctrBlock (iv : List Byte) (n : Nat) : List Byte := iv ++ bytesBE 4 n

/-- Counter mode over data, the first block under counter n. -/
def gcmCtr (rk : List (List Byte)) (iv : List Byte) (n : Nat) (d : List Byte) : List Byte :=
  (((blocks16 d).zipIdx n).map (fun p => xorBytes p.1 (aesEncrypt rk (ctrBlock iv p.2)))).flatten

/-- The length block of GCM. -/
def lenBlock (a c : Nat) : List Byte := bytesBE 8 (8 * a) ++ bytesBE 8 (8 * c)

/-- The 128-bit tag of AES-256-GCM over AAD and ciphertext. -/
def gcmTag (key : BitVec 256) (iv aad ct : List Byte) : List Byte :=
  let rk := roundKeys key
  let y := ghash (gcmH rk) 0 (blocks16 aad ++ blocks16 ct ++ [lenBlock aad.length ct.length])
  xorBytes (bytesBE 16 y.toNat) (aesEncrypt rk (ctrBlock iv 1))

/-! ### Key unwrap -/

/-- One step of the unwrap: the register, and the semiblocks with number i replaced. -/
def kwStep (rk : List (List Byte)) (t : Nat) (i : Nat) (a : List Byte) (r : List (List Byte)) :
    List Byte × List (List Byte) :=
  let b := aesDecrypt rk (xorBytes a (bytesBE 8 t) ++ r.getD (i - 1) [])
  (b.take 8, r.set (i - 1) (b.drop 8))

/-- The steps 4j + i for j = 5 to 0 and i = 4 to 1, counted down. -/
def kwSteps (rk : List (List Byte)) : Nat → List Byte → List (List Byte) → List Byte × List (List Byte)
  | 0, a, r => (a, r)
  | t + 1, a, r =>
    let x := kwStep rk (t + 1) (t % 4 + 1) a r
    kwSteps rk t x.1 x.2

/-- KW unwrap of a 40-byte wrapped 256-bit key; none when its integrity check fails. -/
def keyUnwrap (kek : BitVec 256) (w : List Byte) : Option (BitVec 256) :=
  let x := kwSteps (roundKeys kek) 24 (w.take 8) (pieces 8 4 (w.drop 8))
  if x.1 = List.replicate 8 0xA6 then some (BitVec.ofNat 256 (ofBE x.2.flatten)) else none

/-! ### ChaCha20-Poly1305 -/

abbrev W32 := BitVec 32

def quarter (a b c d : W32) : W32 × W32 × W32 × W32 :=
  let a := a + b
  let d := (d ^^^ a).rotateLeft 16
  let c := c + d
  let b := (b ^^^ c).rotateLeft 12
  let a := a + b
  let d := (d ^^^ a).rotateLeft 8
  let c := c + d
  let b := (b ^^^ c).rotateLeft 7
  (a, b, c, d)

def quarterAt (i j k l : Nat) (s : List W32) : List W32 :=
  let q := quarter (s.getD i 0) (s.getD j 0) (s.getD k 0) (s.getD l 0)
  (((s.set i q.1).set j q.2.1).set k q.2.2.1).set l q.2.2.2

def doubleRound (s : List W32) : List W32 :=
  let s := quarterAt 3 7 11 15 (quarterAt 2 6 10 14 (quarterAt 1 5 9 13 (quarterAt 0 4 8 12 s)))
  quarterAt 3 4 9 14 (quarterAt 2 7 8 13 (quarterAt 1 6 11 12 (quarterAt 0 5 10 15 s)))

def rounds : Nat → List W32 → List W32
  | 0, s => s
  | k + 1, s => rounds k (doubleRound s)

/-- One 64-byte block of the key stream. -/
def chachaBlock (key : BitVec 256) (iv : List Byte) (n : Nat) : List Byte :=
  let words (b : List Byte) : List W32 := (pieces 4 (b.length / 4) b).map (fun x => BitVec.ofNat 32 (ofLE x))
  let s := [0x61707865, 0x3320646E, 0x79622D32, 0x6B206574] ++ words (bytesBE 32 key.toNat) ++ [BitVec.ofNat 32 n]
    ++ words iv
  ((List.zipWith (· + ·) (rounds 10 s) s).map (fun w => bytesLE 4 w.toNat)).flatten

def chachaXor (key : BitVec 256) (iv : List Byte) (n : Nat) (d : List Byte) : List Byte :=
  (((pieces 64 (d.length / 64 + 1) d).zipIdx n).map (fun p => xorBytes p.1 (chachaBlock key iv p.2))).flatten

/-- The clamped multiplier and the addend of Poly1305. -/
def polyKey (key : BitVec 256) (iv : List Byte) : Nat × Nat :=
  let b := chachaBlock key iv 0
  (ofLE (b.take 16) &&& 0x0FFFFFFC0FFFFFFC0FFFFFFC0FFFFFFF, ofLE ((b.drop 16).take 16))

/-- Poly1305 over 16-byte blocks, going on from an accumulator. -/
def polyBlocks (r : Nat) (acc : Nat) (blocks : List (List Byte)) : Nat :=
  blocks.foldl (fun a b => (a + ofLE b + 2 ^ (8 * b.length)) * r % (2 ^ 130 - 5)) acc

/-- Data padded with zeros to whole blocks. -/
def pad16 (b : List Byte) : List (List Byte) :=
  (blocks16 b).map (fun x => x ++ List.replicate (16 - x.length) 0)

/-! ### CRC-32C -/

def crcStep : Nat → W32 → W32
  | 0, c => c
  | k + 1, c => crcStep k ((c >>> 1) ^^^ (if c.getLsbD 0 then 0x82F63B78 else 0))

/-- CRC-32C of bytes in order. -/
def crc32c (d : List Byte) : W32 :=
  ~~~(d.foldl (fun c b => crcStep 8 (c ^^^ b.setWidth 32)) 0xFFFFFFFF)

/-- One byte of the CRC-64 of ECMA-182, most significant bit first. -/
def crc64Step : Nat → BitVec 64 → BitVec 64
  | 0, c => c
  | k + 1, c => crc64Step k (if c.msb then (c <<< 1) ^^^ 0x42F0E1EBA9EA3693 else c <<< 1)

/-- The CRC-64 of ECMA-182, preset to ones and complemented (R279). -/
def crc64 (d : List Byte) : BitVec 64 :=
  ~~~(d.foldl (fun c b => crc64Step 8 (c ^^^ ((b.setWidth 64 : BitVec 64) <<< (56 : Nat)))) 0xFFFFFFFFFFFFFFFF)

end Sys2Proof.Machine
end

