-- ==== Sys2Proof/Machine/BellowsCode.lean ====
section
/-! DEFINITION. The Bellows code (R349 to R356): blocks, headers, tokens, code tables, coding and decoding. -/

namespace Sys2Proof.Machine

/-! ### Tokens (R352) -/

inductive Token where
  | lit (b : Byte)
  | copy (len dist : Nat)
deriving DecidableEq, Repr

/-- The length, at most k, of what two byte strings have in common at their start. -/
def commonLen : Nat → List Byte → List Byte → Nat
  | k + 1, a :: as, b :: bs => if a = b then commonLen k as bs + 1 else 0
  | _, _, _ => 0

/-- The longest match for the rest of the input, the smallest distance first: `hist` are the suffixes of the input that
start 1, 2, 3, … bytes back. -/
def bestMatch (rest : List Byte) : List (List Byte) → Nat → Nat × Nat → Nat × Nat
  | [], _, best => best
  | h :: hs, d, best =>
    let l := commonLen 258 rest h
    bestMatch rest hs (d + 1) (if best.1 < l then (l, d) else best)

/-- The suffixes of a string that start at its first k bytes, latest first, before others. -/
def pushSuffixes : Nat → List Byte → List (List Byte) → List (List Byte)
  | k + 1, b :: bs, hist => pushSuffixes k bs ((b :: bs) :: hist)
  | _, _, hist => hist

/-- The parse of R352. -/
def parseTokens : Nat → List (List Byte) → List Byte → List Token
  | k + 1, hist, b :: bs =>
    let m := bestMatch (b :: bs) hist 1 (0, 0)
    if 3 ≤ m.1 then .copy m.1 m.2 :: parseTokens k (pushSuffixes m.1 (b :: bs) hist) ((b :: bs).drop m.1)
    else .lit b :: parseTokens k ((b :: bs) :: hist) bs
  | _, _, _ => []

def tokensOf (b : List Byte) : List Token := parseTokens b.length [] b

/-! ### Symbols (R353, R354) -/

/-- Length groups: first symbol, extra bits, first length, symbols in the group. -/
def lenGroups : List (Nat × Nat × Nat × Nat) :=
  [(256, 0, 3, 8), (264, 1, 11, 4), (268, 2, 19, 4), (272, 3, 35, 4), (276, 4, 67, 4), (280, 5, 131, 4)]

/-- The symbol, extra-bit count and extra bits of a length. -/
def lenSym (l : Nat) : Nat × Nat × Nat :=
  match lenGroups.find? (fun (_, e, b, k) => decide (b ≤ l) && decide (l < b + k * 2 ^ e)) with
  | some (s, e, b, _) => (s + (l - b) / 2 ^ e, e, (l - b) % 2 ^ e)
  | none => (0, 0, 0)

/-- The extra-bit count and the least length of a length symbol. -/
def symLen (s : Nat) : Nat × Nat :=
  match lenGroups.find? (fun (s0, _, _, k) => decide (s0 ≤ s) && decide (s < s0 + k)) with
  | some (s0, e, b, _) => (e, b + (s - s0) * 2 ^ e)
  | none => (0, 0)

/-- The code, extra-bit count and extra bits of a distance. -/
def distCode (d : Nat) : Nat × Nat × Nat :=
  if d ≤ 4 then (d - 1, 0, 0)
  else
    let e := Nat.log2 (d - 1) - 1
    (2 * (e + 1) + (d - 1) / 2 ^ e % 2, e, (d - 1) % 2 ^ e)

/-- The extra-bit count and the least distance of a distance code. -/
def codeDist (c : Nat) : Nat × Nat :=
  if c < 4 then (0, c + 1) else (c / 2 - 1, (2 + c % 2) * 2 ^ (c / 2 - 1) + 1)

/-! ### Code tables (R355) -/

/-- The code length of a literal/length symbol in a table. -/
def symBits (t s : Nat) : Nat :=
  match t with
  | 0 => if s < 0x90 then 8 else if s < 0x100 then 9 else 7
  | 1 => if s < 0x20 then 10 else if s < 0x80 then 7 else if s < 0x100 then 10 else if s < 276 then 8 else 9
  | 2 => if s = 0 then 2 else if s < 0x100 then 10 else if s < 260 then 5 else if s = 283 then 5 else if s = 282 then 10 else 6
  | _ => if s < 0xF0 then 8 else if s < 0x100 then 9 else if s < 260 then 9 else 10

/-- The code length of a distance code. -/
def distBits (c : Nat) : Nat := if c < 8 then 4 else 5

/-- A canonical code: the codes of shorter and of earlier symbols of the same length stand before it. -/
def canonical (len : Nat → Nat) (n s : Nat) : Nat :=
  ((List.range n).foldl (fun a t =>
    if len t < len s ∨ (len t = len s ∧ t < s) then a + 2 ^ (10 - len t) else a) 0) / 2 ^ (10 - len s)

/-- k bits of a number, the most significant first. -/
def bitsOut : Nat → Nat → List Bool
  | 0, _ => []
  | k + 1, x => x.testBit k :: bitsOut k x

/-- The codes of a table as bit strings, by symbol. -/
def codeBook (t : Nat) : List (List Bool) :=
  (List.range 284).map (fun s => bitsOut (symBits t s) (canonical (symBits t) 284 s))

def distBook : List (List Bool) := (List.range 24).map (fun c => bitsOut (distBits c) (canonical distBits 24 c))

/-- The number of code bits of a token in a table. -/
def tokenCost (t : Nat) : Token → Nat
  | .lit b => symBits t b.toNat
  | .copy l d => symBits t (lenSym l).1 + (lenSym l).2.1 + distBits (distCode d).1 + (distCode d).2.1

def codeCost (t : Nat) (ts : List Token) : Nat := ts.foldl (fun a x => a + tokenCost t x) 0

/-- The table with the fewest bits, the lowest-numbered on a tie, with its bits. -/
def bestTable (ts : List Token) : Nat × Nat :=
  [1, 2, 3].foldl (fun b t => if codeCost t ts < b.2 then (t, codeCost t ts) else b) (0, codeCost 0 ts)

/-- The bits of a token. -/
def tokenBits (book : List (List Bool)) : Token → List Bool
  | .lit b => book.getD b.toNat []
  | .copy l d =>
    let (s, e, x) := lenSym l
    let (c, f, y) := distCode d
    book.getD s [] ++ bitsOut e x ++ distBook.getD c [] ++ bitsOut f y

/-- Bits packed into bytes from bit 7 down, the last byte filled with zeros (R351). -/
def packBits : Nat → List Bool → List Byte
  | 0, _ => []
  | k + 1, bs =>
    let h := bs.take 8
    BitVec.ofNat 8 ((h ++ List.replicate (8 - h.length) false).foldl (fun a b => 2 * a + b2n b) 0) :: packBits k (bs.drop 8)

/-- The bits of bytes, bit 7 of each first. -/
def unpackBits (b : List Byte) : List Bool := (b.map (fun x => bitsOut 8 x.toNat)).flatten

/-! ### Blocks (R349 to R351) -/

/-- Bytes of the tag section that covers n input bytes. -/
def tagSecLen (kt : Bool) (n : Nat) : Nat := if kt then ((n + 7) / 8 + 1) / 2 else 0

/-- A tag section of n nibbles: the high nibble of each byte first. -/
def tagSection : Nat → List Tag → List Byte
  | k + 1, a :: b :: ts => (a ++ b) :: tagSection k ts
  | _ + 1, [a] => [a ++ (0 : Tag)]
  | _, _ => []

/-- The size of a class. -/
def classSize (c : Nat) : Nat := 1024 * (c + 1)

/-- A block's header (R350). -/
def blockHeader (cls : Nat) (kt : Bool) (table ilen nbits : Nat) (crc : W32) : List Byte :=
  bytesBE 2 0xBE70 ++ [BitVec.ofNat 8 (cls * 64 + (if cls = 3 then 32 else 0) + b2n kt * 16 + table * 4), 0]
    ++ bytesBE 2 ilen ++ bytesBE 2 nbits ++ bytesBE 4 crc.toNat ++ [0, 0, 0, 0]

/-- Bytes filled with zeros up to a size. -/
def fillTo (n : Nat) (b : List Byte) : List Byte := b ++ List.replicate (n - b.length) 0

/-- What one unit of CMPB produces: the input bytes covered, the class, and the block. -/
structure Coded where
  ilen  : Nat
  cls   : Nat
  bytes : List Byte
deriving DecidableEq, Repr

/-- The block for the next input bytes (R349), at most 4,096 of them, with the tags of their 8-byte groups. -/
def compressBlock (tgt : Nat) (kt : Bool) (inp : List Byte) (tags : List Tag) : Coded :=
  let n := inp.length
  let ts := tokensOf inp
  let (t, nbits) := bestTable ts
  let size := 16 + (nbits + 7) / 8 + tagSecLen kt n
  let c := ([0, 1, 2].find? (fun c => decide (tgt ≤ c) && decide (size ≤ classSize c))).getD 3
  let n' := if c = 3 then min n (if kt then 3840 else 4080) else n
  let raw := inp.take n'
  let sec := if kt then tagSection 257 (tags.take ((n' + 7) / 8)) else []
  let crc := crc32c (raw ++ sec)
  if c = 3 then ⟨n', 3, fillTo 4096 (blockHeader 3 kt 0 n' 0 crc ++ raw ++ sec)⟩
  else
    let book := codeBook t
    let code := packBits ((nbits + 7) / 8) ((ts.map (tokenBits book)).flatten)
    ⟨n, c, fillTo (classSize c) (blockHeader c kt t n nbits crc ++ code ++ sec)⟩

/-! ### Expanding (R356) -/

/-- A header's fields. -/
structure BlockHdr where
  cls   : Nat
  raw   : Bool
  kt    : Bool
  table : Nat
  ilen  : Nat
  nbits : Nat
  crc   : Nat
deriving DecidableEq, Repr

/-- Check 2 of R356 on 16 header bytes. -/
def readHeader (b : List Byte) : Option BlockHdr :=
  let f := (b.getD 2 0).toNat
  let h : BlockHdr :=
    { cls := f / 64, raw := f.testBit 5, kt := f.testBit 4, table := f / 4 % 4
      ilen := ofBE ((b.drop 4).take 2), nbits := ofBE ((b.drop 6).take 2), crc := ofBE ((b.drop 8).take 4) }
  let lim := if h.raw then (if h.kt then 3840 else 4080) else 4096
  if ofBE (b.take 2) = 0xBE70 && f % 4 == 0 && b.getD 3 0 == 0 && ofBE ((b.drop 12).take 4) == 0
      && h.raw == (h.cls == 3) && (!h.raw || h.table == 0 && h.nbits == 0) && decide (1 ≤ h.ilen) && decide (h.ilen ≤ lim)
      && (h.raw || decide (1 ≤ h.nbits) && decide (16 + (h.nbits + 7) / 8 + tagSecLen h.kt h.ilen ≤ classSize h.cls))
  then some h else none

/-- The symbol whose code starts a bit string, with the bits after it. -/
def takeSym : List (List Bool) → Nat → List Bool → Option (Nat × List Bool)
  | [], _, _ => none
  | c :: cs, s, bs => if c.isPrefixOf bs then some (s, bs.drop c.length) else takeSym cs (s + 1) bs

/-- A number of k bits from a bit string, with the bits after it. -/
def takeBits (k : Nat) (bs : List Bool) : Option (Nat × List Bool) :=
  if bs.length < k then none else some ((bs.take k).foldl (fun a b => 2 * a + b2n b) 0, bs.drop k)

/-- Copies bytes one at a time from d bytes back; the output is held latest byte first. -/
def copyBack (d : Nat) : Nat → List Byte → List Byte
  | 0, out => out
  | k + 1, out => copyBack d k (out.getD (d - 1) 0 :: out)

/-- Decodes tokens until `left` more bytes are produced (check 5 of R356). -/
def decodeTokens (book : List (List Bool)) : Nat → Nat → List Bool → List Byte → Option (List Byte)
  | 0, _, _, _ => none
  | _ + 1, 0, bs, out => if bs.isEmpty then some out.reverse else none
  | k + 1, left + 1, bs, out => do
    let (s, bs) ← takeSym book 0 bs
    if s < 256 then decodeTokens book k left bs (BitVec.ofNat 8 s :: out)
    else do
      let (e, l0) := symLen s
      let (x, bs) ← takeBits e bs
      let (c, bs) ← takeSym distBook 0 bs
      let (f, d0) := codeDist c
      let (y, bs) ← takeBits f bs
      let l := l0 + x
      let d := d0 + y
      if out.length < d ∨ left + 1 < l then none else decodeTokens book k (left + 1 - l) bs (copyBack d l out)

/-- The nibbles of a tag section. -/
def readTags (n : Nat) (b : List Byte) : List Tag :=
  ((b.map (fun (x : Byte) => [(x >>> 4).setWidth 4, x.setWidth 4])).flatten).take n

/-- Checks 5 to 7 of R356 on a whole block: its bytes and tag nibbles, or the reason it fails. -/
def expandBlock (h : BlockHdr) (b : List Byte) : Except Nat (List Byte × List Tag) :=
  let body := b.drop 16
  let clen := if h.raw then h.ilen else (h.nbits + 7) / 8
  let code := body.take clen
  let tl := tagSecLen h.kt h.ilen
  let sec := (body.drop clen).take tl
  let groups := (h.ilen + 7) / 8
  let tags := if h.kt then readTags groups sec else []
  let spare := (if h.raw then [] else (unpackBits code).drop h.nbits)
    ++ (if h.kt && groups % 2 == 1 then bitsOut 4 ((sec.getD (tl - 1) 0).toNat % 16) else [])
  match (if h.raw then some code else decodeTokens (codeBook h.table) (h.ilen + 1) h.ilen ((unpackBits code).take h.nbits) []) with
  | none => .error 3
  | some out =>
    if spare.any (fun x => x) || (body.drop (clen + tl)).any (fun x => x != 0) then .error 4
    else if (crc32c (out ++ sec)).toNat ≠ h.crc then .error 5
    else .ok (out, tags)

end Sys2Proof.Machine
end

