-- ==== Sys2Proof/Config.lean ====
section
/-! DEFINITION. What one module fixes at manufacture and the free values: constants without a body, so that every
statement holds whatever they are. -/

namespace Sys2Proof

/-- MODSER, fused (R26). -/
opaque Config.modser : Word

/-- STRAPS.DIEOK, fused (R420): the dies that are fitted and good. -/
opaque Config.dieOk : BitVec 7

/-- The provisioning key fused into the module (R367). -/
opaque Config.provisionKey : BitVec 256

/-- The microcode key fused into the module (R421). -/
opaque Config.microcodeKey : BitVec 256

/-- The debug key fused into the module (R433). -/
opaque Config.debugKey : BitVec 256

/-- Conditioned noise: the n-th value drawn (R372, R382, R433). -/
opaque Config.noise : Nat → BitVec 256

/-- Values the spec leaves open, the n-th drawn. -/
opaque Config.free : Nat → Word

/-- The check word of a Mute parameter block (R372): under a state key, over the block's words, a slot generation count
and a partition. -/
opaque Config.chk : BitVec 256 → List Word → Nat → Nat → Word

/-- Which line of a full set pseudo-LRU gives up, by the set's lines (R197). -/
opaque Config.victim : List Nat → Nat

/-- Which of the table-entry values that R57 allows a translation uses at a walk. -/
opaque Config.tbChoice : Nat → Nat

end Sys2Proof
end

