-- ==== Sys2Proof/Machine/Sparse.lean ====
section
/-! DEFINITION. Sparse data by key: a list of (key, value) pairs, keys strictly rising, no value equal to the
default that an unlisted key reads as. Memory, the registers of complex control space and every large table of the
machine are held in this one canonical form. -/

namespace Sys2Proof.Machine

/-- A finite map from numbers, with a default for unlisted keys that the reader supplies. -/
abbrev Sparse (α : Type) := List (Nat × α)

/-- The listed value at a key. -/
def spFind {α : Type} : Sparse α → Nat → Option α
  | [], _ => none
  | (k, v) :: m, a => if k = a then some v else spFind m a

/-- The value at a key, or the default. -/
def spGet {α : Type} (d : α) (m : Sparse α) (a : Nat) : α := (spFind m a).getD d

/-- The map without a key. -/
def spErase {α : Type} : Sparse α → Nat → Sparse α
  | [], _ => []
  | (k, v) :: m, a => if k = a then spErase m a else (k, v) :: spErase m a

/-- A pair put before the first higher key. -/
def spInsert {α : Type} : Sparse α → Nat → α → Sparse α
  | [], a, v => [(a, v)]
  | (k, w) :: m, a, v => if a < k then (a, v) :: (k, w) :: m else (k, w) :: spInsert m a v

/-- The map with a key set; setting the key's default removes it, so equal maps are equal lists. -/
def spSet {α : Type} [DecidableEq α] (d : α) (m : Sparse α) (a : Nat) (v : α) : Sparse α :=
  if v = d then spErase m a else spInsert (spErase m a) a v

/-- The map with an optional value: none removes the key. -/
def spPut {α : Type} (m : Sparse α) (a : Nat) : Option α → Sparse α
  | none => spErase m a
  | some v => spInsert (spErase m a) a v

/-- Keys strictly rising. -/
def spSorted {α : Type} : Sparse α → Bool
  | [] => true
  | [_] => true
  | (k, _) :: (k', v') :: m => decide (k < k') && spSorted ((k', v') :: m)

/-- The canonical form: keys strictly rising and no key listed with its default. -/
def spWf {α : Type} [DecidableEq α] (d : Nat → α) (m : Sparse α) : Bool :=
  spSorted m && m.all (fun p => decide (p.2 ≠ d p.1))

end Sys2Proof.Machine
end

