-- ==== Sys2Proof/Machine/RegTable.lean ====
section
/-! DEFINITION. The registers of complex control space (R8, R9, R23): one row per register of a register table of the
spec, with its address pattern, its access masks and its Reset value. The Reset values "formed", "trained" and "tested"
stand as before formation, training and testing (log entry 3). -/

namespace Sys2Proof.Machine

/-- The registers of complex control space, by mnemonic. -/
inductive RegName where
  | atpred
  | belcmd
  | belerr
  | bellog
  | belstat
  | bootaddr
  | bootcmd
  | bootcmdst
  | bootstat
  | capdir
  | cestat
  | chpctl
  | chperr
  | chpip
  | chpmac
  | chpstat
  | csctl
  | csstat
  | cucfg
  | cuip
  | cutcfg
  | cutcmd
  | cutstat
  | cuttime
  | diestat
  | direrr
  | dirloga
  | dirlogt
  | dirstat
  | disstrk
  | epattn
  | epattnset
  | eperr
  | epfwdone
  | epseq
  | epstat
  | epwin
  | epwst
  | gpbind
  | gpctl
  | gperr
  | gpiwend
  | gpiworg
  | gpowend
  | gpoworg
  | gpstat
  | iodstat
  | ioqcfg
  | jrn
  | kekcmd
  | keksel
  | kekst
  | kekw
  | l2cmd
  | l2cmda
  | l2cmdn
  | l2cmdst
  | l2ctl
  | l2err
  | l2lock
  | l3err
  | lkcmd
  | lkcmdst
  | lkkv
  | lksel
  | lkstat
  | lkw
  | lnkuse
  | mbarg
  | mbcmd
  | mbres
  | mbstat
  | mclog
  | mclogctl
  | mcstat
  | mcuea
  | memmap
  | memstat
  | modctl
  | modid
  | modser
  | mutcmd
  | muterr
  | mutkv
  | mutstat
  | omcmd
  | omctl
  | omkw
  | omsrc
  | omstat
  | path
  | pctl
  | pdevctl
  | pflast
  | pftot
  | pioqr
  | pkeyown
  | pregend
  | pregorg
  | pucmd
  | pucmdst
  | pucnt
  | pulock
  | pulockia
  | pupart
  | pustat
  | pzend
  | pzorg
  | scrubint
  | shcount
  | slotcmt
  | slottab
  | straps
  | tod
  | todctl
  | toderr
  | todset
  | todstat
  | todsteer
  | triadcfg
  | voterst
deriving DecidableEq, Repr

/-- One register row: its name, base address, index dimensions as (stride, count) from the largest stride down, and the
bits of each access type of R9; every other bit is RO or reserved. -/
structure RegRow where
  name  : RegName
  base  : Nat
  dims  : List (Nat × Nat)
  rw    : Word
  w1c   : Word
  wo    : Word
  rwl   : Word
  reset : Word
deriving DecidableEq, Repr

def regRows0 : List RegRow := [
  ⟨.modid, 0x0, [], 0x0, 0x0, 0x0, 0x0, 0xB1C75E2781004100⟩,
  ⟨.modser, 0x8, [], 0x0, 0x0, 0x0, 0x0, 0x0⟩,
  ⟨.pzorg, 0x20100, [(0x1000, 32), (0x10, 8)], 0x0, 0x0, 0x0, 0xC00FFFFFFFF00000, 0x0⟩,
  ⟨.pzend, 0x20108, [(0x1000, 32), (0x10, 8)], 0x0, 0x0, 0x0, 0xFFFFFFFF00000, 0x0⟩,
  ⟨.pulock, 0x100800E00, [(0x1000000, 6), (0x10000, 10)], 0x0, 0x8000000000000000, 0x0, 0x0, 0x0⟩,
  ⟨.pulockia, 0x100800E08, [(0x1000000, 6), (0x10000, 10)], 0x0, 0x0, 0x0, 0x0, 0x0⟩,
  ⟨.omctl, 0x20300, [(0x1000, 32)], 0x0, 0x0, 0x0, 0xFFFF000000000000, 0x0⟩,
  ⟨.omsrc, 0x20308, [(0x1000, 32)], 0xFFFFFFFFFFFF8, 0x0, 0x0, 0x0, 0x0⟩,
  ⟨.omkw, 0x20310, [(0x1000, 32), (0x8, 5)], 0x0, 0x0, 0xFFFFFFFFFFFFFFFF, 0x0, 0x0⟩,
  ⟨.omcmd, 0x20338, [(0x1000, 32)], 0x0, 0x0, 0xFF, 0x0, 0x0⟩,
  ⟨.omstat, 0x20340, [(0x1000, 32)], 0x0, 0x4000000000000000, 0x0, 0x0, 0x0⟩,
  ⟨.pustat, 0x100800000, [(0x1000000, 6), (0x10000, 10)], 0x0, 0x100000000000000, 0x0, 0x0, 0x0⟩,
  ⟨.triadcfg, 0x100800008, [(0x1000000, 6), (0x10000, 10)], 0x0, 0x0, 0x0, 0x0, 0x0⟩,
  ⟨.disstrk, 0x100800010, [(0x1000000, 6), (0x10000, 10), (0x8, 3)], 0x0, 0x0, 0x0, 0x0, 0xFC00000000000000⟩,
  ⟨.pucnt, 0x100800028, [(0x1000000, 6), (0x10000, 10)], 0xFFFFFFFFFFFFFFFF, 0x0, 0x0, 0x0, 0x0⟩,
  ⟨.voterst, 0x100800030, [(0x1000000, 6), (0x10000, 10)], 0x0, 0x0, 0x0, 0x0, 0x0⟩,
  ⟨.mclogctl, 0x100800038, [(0x1000000, 6), (0x10000, 10)], 0x0, 0x0, 0x0, 0x0, 0x100000000⟩,
  ⟨.pucmd, 0x100800040, [(0x1000000, 6), (0x10000, 10)], 0x0, 0x0, 0x3F01FF, 0x0, 0x0⟩,
  ⟨.pucmdst, 0x100800048, [(0x1000000, 6), (0x10000, 10)], 0x0, 0x0, 0x0, 0x0, 0x0⟩,
  ⟨.mclog, 0x100800400, [(0x1000000, 6), (0x10000, 10), (0x20, 32), (0x8, 4)], 0x0, 0x0, 0x0, 0x0, 0x0⟩,
  ⟨.l2ctl, 0x100801000, [(0x1000000, 6), (0x10000, 10)], 0x1, 0x2000000000000000, 0x0, 0x0, 0x1⟩,
  ⟨.l2lock, 0x100801008, [(0x1000000, 6), (0x10000, 10)], 0xFFFF, 0x0, 0x0, 0x0, 0x0⟩,
  ⟨.l2cmd, 0x100801010, [(0x1000000, 6), (0x10000, 10)], 0x0, 0x0, 0xFF, 0x0, 0x0⟩,
  ⟨.l2cmda, 0x100801018, [(0x1000000, 6), (0x10000, 10)], 0xFFFFFFFFFFFC0, 0x0, 0x0, 0x0, 0x0⟩]

def regRows1 : List RegRow := [
  ⟨.l2cmdn, 0x100801020, [(0x1000000, 6), (0x10000, 10)], 0x1FFFF, 0x0, 0x0, 0x0, 0x0⟩,
  ⟨.l2cmdst, 0x100801028, [(0x1000000, 6), (0x10000, 10)], 0x0, 0x0, 0x0, 0x0, 0x0⟩,
  ⟨.l2err, 0x100801030, [(0x1000000, 6), (0x10000, 10)], 0xFFFFFFFFFFFF0000, 0x0, 0x0, 0x0, 0x0⟩,
  ⟨.memmap, 0x100200000, [(0x1000000, 6)], 0x0, 0x0, 0x0, 0xBF3FFFFF000007FF, 0x0⟩,
  ⟨.memstat, 0x100200008, [(0x1000000, 6)], 0x0, 0x0, 0x0, 0x0, 0x0⟩,
  ⟨.scrubint, 0x100200010, [(0x1000000, 6)], 0xFFFFFFFF, 0x0, 0x0, 0x0, 0x15180⟩,
  ⟨.mcstat, 0x100200100, [(0x1000000, 6), (0x100, 2)], 0xFFFFFFFF, 0x0, 0x0, 0x0, 0x0⟩,
  ⟨.mcuea, 0x100200108, [(0x1000000, 6), (0x100, 2)], 0x0, 0x0, 0x0, 0x0, 0x0⟩,
  ⟨.pregorg, 0x20400, [(0x1000, 32), (0x10, 8)], 0x0, 0x0, 0x0, 0xC00FFFFFFFF00000, 0x0⟩,
  ⟨.pregend, 0x20408, [(0x1000, 32), (0x10, 8)], 0x0, 0x0, 0x0, 0xFFFFFFFF00000, 0x0⟩,
  ⟨.pdevctl, 0x20480, [(0x1000, 32)], 0x0, 0x0, 0x0, 0x1FFFF, 0x100⟩,
  ⟨.atpred, 0x100801040, [(0x1000000, 6), (0x10000, 10)], 0xFFFFFFFF00000003, 0x0, 0x0, 0x0, 0x0⟩,
  ⟨.dirstat, 0x100100000, [(0x1000000, 6)], 0x1FFF, 0x0, 0x0, 0x0, 0xFC00000⟩,
  ⟨.direrr, 0x100100008, [(0x1000000, 6)], 0xFFFFFFFFFFFFFFFF, 0x0, 0x0, 0x0, 0x0⟩,
  ⟨.l3err, 0x100100010, [(0x1000000, 6)], 0xFFFFFFFFFFFF0000, 0x0, 0x0, 0x0, 0x0⟩,
  ⟨.dirloga, 0x100100020, [(0x1000000, 6)], 0x0, 0x0, 0x0, 0x0, 0x0⟩,
  ⟨.dirlogt, 0x100100028, [(0x1000000, 6)], 0x0, 0x0, 0x0, 0x0, 0x0⟩,
  ⟨.shcount, 0x50000, [], 0x0, 0x0, 0x0, 0x0, 0x0⟩,
  ⟨.slottab, 0x100310000, [(0x4000, 16), (0x1000, 2), (0x8, 256)], 0xFFFFFFFFFFFFFFFF, 0x0, 0x0, 0x0, 0x0⟩,
  ⟨.slottab, 0x100312000, [(0x4000, 16), (0x1000, 2), (0x8, 256)], 0xFFFFFFFFFFFFFFFF, 0x0, 0x0, 0x0, 0x0⟩,
  ⟨.slottab, 0x100354000, [(0x4000, 5), (0x1000, 2), (0x8, 512)], 0xFFFFFFFFFFFFFFFF, 0x0, 0x0, 0x0, 0x0⟩,
  ⟨.slottab, 0x100368000, [(0x4000, 1), (0x1000, 2), (0x8, 512)], 0xFFFFFFFFFFFFFFFF, 0x0, 0x0, 0x0, 0x0⟩,
  ⟨.slottab, 0x100370000, [(0x4000, 1), (0x1000, 2), (0x8, 224)], 0xFFFFFFFFFFFFFFFF, 0x0, 0x0, 0x0, 0x0⟩,
  ⟨.slottab, 0x100372000, [(0x4000, 1), (0x1000, 2), (0x8, 224)], 0xFFFFFFFFFFFFFFFF, 0x0, 0x0, 0x0, 0x0⟩]

def regRows2 : List RegRow := [
  ⟨.slottab, 0x101310000, [(0x4000, 15), (0x1000, 2), (0x8, 256)], 0xFFFFFFFFFFFFFFFF, 0x0, 0x0, 0x0, 0x0⟩,
  ⟨.slottab, 0x101312000, [(0x4000, 15), (0x1000, 2), (0x8, 256)], 0xFFFFFFFFFFFFFFFF, 0x0, 0x0, 0x0, 0x0⟩,
  ⟨.slottab, 0x101350000, [(0x4000, 1), (0x1000, 2), (0x8, 512)], 0xFFFFFFFFFFFFFFFF, 0x0, 0x0, 0x0, 0x0⟩,
  ⟨.slottab, 0x101358000, [(0x4000, 4), (0x1000, 2), (0x8, 512)], 0xFFFFFFFFFFFFFFFF, 0x0, 0x0, 0x0, 0x0⟩,
  ⟨.slottab, 0x101368000, [(0x4000, 1), (0x1000, 2), (0x8, 512)], 0xFFFFFFFFFFFFFFFF, 0x0, 0x0, 0x0, 0x0⟩,
  ⟨.slottab, 0x102310000, [(0x4000, 16), (0x1000, 2), (0x8, 256)], 0xFFFFFFFFFFFFFFFF, 0x0, 0x0, 0x0, 0x0⟩,
  ⟨.slottab, 0x102312000, [(0x4000, 16), (0x1000, 2), (0x8, 256)], 0xFFFFFFFFFFFFFFFF, 0x0, 0x0, 0x0, 0x0⟩,
  ⟨.slottab, 0x102350000, [(0x4000, 2), (0x1000, 2), (0x8, 512)], 0xFFFFFFFFFFFFFFFF, 0x0, 0x0, 0x0, 0x0⟩,
  ⟨.slottab, 0x10235C000, [(0x4000, 3), (0x1000, 2), (0x8, 512)], 0xFFFFFFFFFFFFFFFF, 0x0, 0x0, 0x0, 0x0⟩,
  ⟨.slottab, 0x102368000, [(0x4000, 1), (0x1000, 2), (0x8, 512)], 0xFFFFFFFFFFFFFFFF, 0x0, 0x0, 0x0, 0x0⟩,
  ⟨.slottab, 0x102370000, [(0x4000, 1), (0x1000, 2), (0x8, 224)], 0xFFFFFFFFFFFFFFFF, 0x0, 0x0, 0x0, 0x0⟩,
  ⟨.slottab, 0x102372000, [(0x4000, 1), (0x1000, 2), (0x8, 224)], 0xFFFFFFFFFFFFFFFF, 0x0, 0x0, 0x0, 0x0⟩,
  ⟨.slottab, 0x103310000, [(0x4000, 16), (0x1000, 2), (0x8, 256)], 0xFFFFFFFFFFFFFFFF, 0x0, 0x0, 0x0, 0x0⟩,
  ⟨.slottab, 0x103312000, [(0x4000, 16), (0x1000, 2), (0x8, 256)], 0xFFFFFFFFFFFFFFFF, 0x0, 0x0, 0x0, 0x0⟩,
  ⟨.slottab, 0x103350000, [(0x4000, 3), (0x1000, 2), (0x8, 512)], 0xFFFFFFFFFFFFFFFF, 0x0, 0x0, 0x0, 0x0⟩,
  ⟨.slottab, 0x103360000, [(0x4000, 2), (0x1000, 2), (0x8, 512)], 0xFFFFFFFFFFFFFFFF, 0x0, 0x0, 0x0, 0x0⟩,
  ⟨.slottab, 0x103368000, [(0x4000, 1), (0x1000, 2), (0x8, 512)], 0xFFFFFFFFFFFFFFFF, 0x0, 0x0, 0x0, 0x0⟩,
  ⟨.slottab, 0x103370000, [(0x4000, 1), (0x1000, 2), (0x8, 224)], 0xFFFFFFFFFFFFFFFF, 0x0, 0x0, 0x0, 0x0⟩,
  ⟨.slottab, 0x103372000, [(0x4000, 1), (0x1000, 2), (0x8, 224)], 0xFFFFFFFFFFFFFFFF, 0x0, 0x0, 0x0, 0x0⟩,
  ⟨.slottab, 0x104310000, [(0x4000, 15), (0x1000, 2), (0x8, 256)], 0xFFFFFFFFFFFFFFFF, 0x0, 0x0, 0x0, 0x0⟩,
  ⟨.slottab, 0x104312000, [(0x4000, 15), (0x1000, 2), (0x8, 256)], 0xFFFFFFFFFFFFFFFF, 0x0, 0x0, 0x0, 0x0⟩,
  ⟨.slottab, 0x104350000, [(0x4000, 4), (0x1000, 2), (0x8, 512)], 0xFFFFFFFFFFFFFFFF, 0x0, 0x0, 0x0, 0x0⟩,
  ⟨.slottab, 0x104364000, [(0x4000, 1), (0x1000, 2), (0x8, 512)], 0xFFFFFFFFFFFFFFFF, 0x0, 0x0, 0x0, 0x0⟩,
  ⟨.slottab, 0x104368000, [(0x4000, 1), (0x1000, 2), (0x8, 512)], 0xFFFFFFFFFFFFFFFF, 0x0, 0x0, 0x0, 0x0⟩]

def regRows3 : List RegRow := [
  ⟨.slottab, 0x105310000, [(0x4000, 16), (0x1000, 2), (0x8, 256)], 0xFFFFFFFFFFFFFFFF, 0x0, 0x0, 0x0, 0x0⟩,
  ⟨.slottab, 0x105312000, [(0x4000, 16), (0x1000, 2), (0x8, 256)], 0xFFFFFFFFFFFFFFFF, 0x0, 0x0, 0x0, 0x0⟩,
  ⟨.slottab, 0x105350000, [(0x4000, 5), (0x1000, 2), (0x8, 512)], 0xFFFFFFFFFFFFFFFF, 0x0, 0x0, 0x0, 0x0⟩,
  ⟨.slottab, 0x105368000, [(0x4000, 1), (0x1000, 2), (0x8, 512)], 0xFFFFFFFFFFFFFFFF, 0x0, 0x0, 0x0, 0x0⟩,
  ⟨.slottab, 0x105370000, [(0x4000, 1), (0x1000, 2), (0x8, 224)], 0xFFFFFFFFFFFFFFFF, 0x0, 0x0, 0x0, 0x0⟩,
  ⟨.slottab, 0x105372000, [(0x4000, 1), (0x1000, 2), (0x8, 224)], 0xFFFFFFFFFFFFFFFF, 0x0, 0x0, 0x0, 0x0⟩,
  ⟨.slottab, 0x200310000, [(0x4000, 3), (0x1000, 2), (0x8, 256)], 0xFFFFFFFFFFFFFFFF, 0x0, 0x0, 0x0, 0x0⟩,
  ⟨.slottab, 0x200312000, [(0x4000, 3), (0x1000, 2), (0x8, 256)], 0xFFFFFFFFFFFFFFFF, 0x0, 0x0, 0x0, 0x0⟩,
  ⟨.slottab, 0x200350000, [(0x4000, 6), (0x1000, 2), (0x8, 512)], 0xFFFFFFFFFFFFFFFF, 0x0, 0x0, 0x0, 0x0⟩,
  ⟨.slotcmt, 0x100300100, [(0x10, 16)], 0x0, 0x2000000000000000, 0x1, 0x0, 0x0⟩,
  ⟨.slotcmt, 0x100300108, [(0x10, 16)], 0x0, 0x2000000000000000, 0x1, 0x0, 0x0⟩,
  ⟨.slotcmt, 0x100300210, [(0x10, 5)], 0x0, 0x2000000000000000, 0x1, 0x0, 0x0⟩,
  ⟨.slotcmt, 0x100300260, [(0x10, 1)], 0x0, 0x2000000000000000, 0x1, 0x0, 0x0⟩,
  ⟨.slotcmt, 0x100300280, [(0x10, 1)], 0x0, 0x2000000000000000, 0x1, 0x0, 0x0⟩,
  ⟨.slotcmt, 0x100300288, [(0x10, 1)], 0x0, 0x2000000000000000, 0x1, 0x0, 0x0⟩,
  ⟨.slotcmt, 0x101300100, [(0x10, 15)], 0x0, 0x2000000000000000, 0x1, 0x0, 0x0⟩,
  ⟨.slotcmt, 0x101300108, [(0x10, 15)], 0x0, 0x2000000000000000, 0x1, 0x0, 0x0⟩,
  ⟨.slotcmt, 0x101300200, [(0x10, 1)], 0x0, 0x2000000000000000, 0x1, 0x0, 0x0⟩,
  ⟨.slotcmt, 0x101300220, [(0x10, 4)], 0x0, 0x2000000000000000, 0x1, 0x0, 0x0⟩,
  ⟨.slotcmt, 0x101300260, [(0x10, 1)], 0x0, 0x2000000000000000, 0x1, 0x0, 0x0⟩,
  ⟨.slotcmt, 0x102300100, [(0x10, 16)], 0x0, 0x2000000000000000, 0x1, 0x0, 0x0⟩,
  ⟨.slotcmt, 0x102300108, [(0x10, 16)], 0x0, 0x2000000000000000, 0x1, 0x0, 0x0⟩,
  ⟨.slotcmt, 0x102300200, [(0x10, 2)], 0x0, 0x2000000000000000, 0x1, 0x0, 0x0⟩,
  ⟨.slotcmt, 0x102300230, [(0x10, 3)], 0x0, 0x2000000000000000, 0x1, 0x0, 0x0⟩]

def regRows4 : List RegRow := [
  ⟨.slotcmt, 0x102300260, [(0x10, 1)], 0x0, 0x2000000000000000, 0x1, 0x0, 0x0⟩,
  ⟨.slotcmt, 0x102300280, [(0x10, 1)], 0x0, 0x2000000000000000, 0x1, 0x0, 0x0⟩,
  ⟨.slotcmt, 0x102300288, [(0x10, 1)], 0x0, 0x2000000000000000, 0x1, 0x0, 0x0⟩,
  ⟨.slotcmt, 0x103300100, [(0x10, 16)], 0x0, 0x2000000000000000, 0x1, 0x0, 0x0⟩,
  ⟨.slotcmt, 0x103300108, [(0x10, 16)], 0x0, 0x2000000000000000, 0x1, 0x0, 0x0⟩,
  ⟨.slotcmt, 0x103300200, [(0x10, 3)], 0x0, 0x2000000000000000, 0x1, 0x0, 0x0⟩,
  ⟨.slotcmt, 0x103300240, [(0x10, 2)], 0x0, 0x2000000000000000, 0x1, 0x0, 0x0⟩,
  ⟨.slotcmt, 0x103300260, [(0x10, 1)], 0x0, 0x2000000000000000, 0x1, 0x0, 0x0⟩,
  ⟨.slotcmt, 0x103300280, [(0x10, 1)], 0x0, 0x2000000000000000, 0x1, 0x0, 0x0⟩,
  ⟨.slotcmt, 0x103300288, [(0x10, 1)], 0x0, 0x2000000000000000, 0x1, 0x0, 0x0⟩,
  ⟨.slotcmt, 0x104300100, [(0x10, 15)], 0x0, 0x2000000000000000, 0x1, 0x0, 0x0⟩,
  ⟨.slotcmt, 0x104300108, [(0x10, 15)], 0x0, 0x2000000000000000, 0x1, 0x0, 0x0⟩,
  ⟨.slotcmt, 0x104300200, [(0x10, 4)], 0x0, 0x2000000000000000, 0x1, 0x0, 0x0⟩,
  ⟨.slotcmt, 0x104300250, [(0x10, 1)], 0x0, 0x2000000000000000, 0x1, 0x0, 0x0⟩,
  ⟨.slotcmt, 0x104300260, [(0x10, 1)], 0x0, 0x2000000000000000, 0x1, 0x0, 0x0⟩,
  ⟨.slotcmt, 0x105300100, [(0x10, 16)], 0x0, 0x2000000000000000, 0x1, 0x0, 0x0⟩,
  ⟨.slotcmt, 0x105300108, [(0x10, 16)], 0x0, 0x2000000000000000, 0x1, 0x0, 0x0⟩,
  ⟨.slotcmt, 0x105300200, [(0x10, 5)], 0x0, 0x2000000000000000, 0x1, 0x0, 0x0⟩,
  ⟨.slotcmt, 0x105300260, [(0x10, 1)], 0x0, 0x2000000000000000, 0x1, 0x0, 0x0⟩,
  ⟨.slotcmt, 0x105300280, [(0x10, 1)], 0x0, 0x2000000000000000, 0x1, 0x0, 0x0⟩,
  ⟨.slotcmt, 0x105300288, [(0x10, 1)], 0x0, 0x2000000000000000, 0x1, 0x0, 0x0⟩,
  ⟨.slotcmt, 0x200300100, [(0x10, 3)], 0x0, 0x2000000000000000, 0x1, 0x0, 0x0⟩,
  ⟨.slotcmt, 0x200300108, [(0x10, 3)], 0x0, 0x2000000000000000, 0x1, 0x0, 0x0⟩,
  ⟨.slotcmt, 0x200300200, [(0x10, 6)], 0x0, 0x2000000000000000, 0x1, 0x0, 0x0⟩]

def regRows5 : List RegRow := [
  ⟨.lnkuse, 0x100300400, [(0x10, 16)], 0x0, 0x0, 0x0, 0x0, 0x0⟩,
  ⟨.lnkuse, 0x100300408, [(0x10, 16)], 0x0, 0x0, 0x0, 0x0, 0x0⟩,
  ⟨.lnkuse, 0x100300510, [(0x10, 5)], 0x0, 0x0, 0x0, 0x0, 0x0⟩,
  ⟨.lnkuse, 0x100300560, [(0x10, 1)], 0x0, 0x0, 0x0, 0x0, 0x0⟩,
  ⟨.lnkuse, 0x100300580, [(0x10, 1)], 0x0, 0x0, 0x0, 0x0, 0x0⟩,
  ⟨.lnkuse, 0x100300588, [(0x10, 1)], 0x0, 0x0, 0x0, 0x0, 0x0⟩,
  ⟨.lnkuse, 0x101300400, [(0x10, 15)], 0x0, 0x0, 0x0, 0x0, 0x0⟩,
  ⟨.lnkuse, 0x101300408, [(0x10, 15)], 0x0, 0x0, 0x0, 0x0, 0x0⟩,
  ⟨.lnkuse, 0x101300500, [(0x10, 1)], 0x0, 0x0, 0x0, 0x0, 0x0⟩,
  ⟨.lnkuse, 0x101300520, [(0x10, 4)], 0x0, 0x0, 0x0, 0x0, 0x0⟩,
  ⟨.lnkuse, 0x101300560, [(0x10, 1)], 0x0, 0x0, 0x0, 0x0, 0x0⟩,
  ⟨.lnkuse, 0x102300400, [(0x10, 16)], 0x0, 0x0, 0x0, 0x0, 0x0⟩,
  ⟨.lnkuse, 0x102300408, [(0x10, 16)], 0x0, 0x0, 0x0, 0x0, 0x0⟩,
  ⟨.lnkuse, 0x102300500, [(0x10, 2)], 0x0, 0x0, 0x0, 0x0, 0x0⟩,
  ⟨.lnkuse, 0x102300530, [(0x10, 3)], 0x0, 0x0, 0x0, 0x0, 0x0⟩,
  ⟨.lnkuse, 0x102300560, [(0x10, 1)], 0x0, 0x0, 0x0, 0x0, 0x0⟩,
  ⟨.lnkuse, 0x102300580, [(0x10, 1)], 0x0, 0x0, 0x0, 0x0, 0x0⟩,
  ⟨.lnkuse, 0x102300588, [(0x10, 1)], 0x0, 0x0, 0x0, 0x0, 0x0⟩,
  ⟨.lnkuse, 0x103300400, [(0x10, 16)], 0x0, 0x0, 0x0, 0x0, 0x0⟩,
  ⟨.lnkuse, 0x103300408, [(0x10, 16)], 0x0, 0x0, 0x0, 0x0, 0x0⟩,
  ⟨.lnkuse, 0x103300500, [(0x10, 3)], 0x0, 0x0, 0x0, 0x0, 0x0⟩,
  ⟨.lnkuse, 0x103300540, [(0x10, 2)], 0x0, 0x0, 0x0, 0x0, 0x0⟩,
  ⟨.lnkuse, 0x103300560, [(0x10, 1)], 0x0, 0x0, 0x0, 0x0, 0x0⟩,
  ⟨.lnkuse, 0x103300580, [(0x10, 1)], 0x0, 0x0, 0x0, 0x0, 0x0⟩]

def regRows6 : List RegRow := [
  ⟨.lnkuse, 0x103300588, [(0x10, 1)], 0x0, 0x0, 0x0, 0x0, 0x0⟩,
  ⟨.lnkuse, 0x104300400, [(0x10, 15)], 0x0, 0x0, 0x0, 0x0, 0x0⟩,
  ⟨.lnkuse, 0x104300408, [(0x10, 15)], 0x0, 0x0, 0x0, 0x0, 0x0⟩,
  ⟨.lnkuse, 0x104300500, [(0x10, 4)], 0x0, 0x0, 0x0, 0x0, 0x0⟩,
  ⟨.lnkuse, 0x104300550, [(0x10, 1)], 0x0, 0x0, 0x0, 0x0, 0x0⟩,
  ⟨.lnkuse, 0x104300560, [(0x10, 1)], 0x0, 0x0, 0x0, 0x0, 0x0⟩,
  ⟨.lnkuse, 0x105300400, [(0x10, 16)], 0x0, 0x0, 0x0, 0x0, 0x0⟩,
  ⟨.lnkuse, 0x105300408, [(0x10, 16)], 0x0, 0x0, 0x0, 0x0, 0x0⟩,
  ⟨.lnkuse, 0x105300500, [(0x10, 5)], 0x0, 0x0, 0x0, 0x0, 0x0⟩,
  ⟨.lnkuse, 0x105300560, [(0x10, 1)], 0x0, 0x0, 0x0, 0x0, 0x0⟩,
  ⟨.lnkuse, 0x105300580, [(0x10, 1)], 0x0, 0x0, 0x0, 0x0, 0x0⟩,
  ⟨.lnkuse, 0x105300588, [(0x10, 1)], 0x0, 0x0, 0x0, 0x0, 0x0⟩,
  ⟨.lnkuse, 0x200300400, [(0x10, 3)], 0x0, 0x0, 0x0, 0x0, 0x0⟩,
  ⟨.lnkuse, 0x200300408, [(0x10, 3)], 0x0, 0x0, 0x0, 0x0, 0x0⟩,
  ⟨.lnkuse, 0x200300500, [(0x10, 6)], 0x0, 0x0, 0x0, 0x0, 0x0⟩,
  ⟨.pctl, 0x20000, [(0x1000, 32)], 0x0, 0x0, 0x1, 0x0, 0x0⟩,
  ⟨.pflast, 0x20500, [(0x1000, 32)], 0x0, 0x0, 0x0, 0x0, 0x0⟩,
  ⟨.pftot, 0x20508, [(0x1000, 32), (0x8, 3)], 0xFFFFFFFFFFFFFFFF, 0x0, 0x0, 0x0, 0x0⟩,
  ⟨.gpctl, 0x100C00000, [], 0x8C00000000000000, 0x0, 0xFF, 0x0, 0x0⟩,
  ⟨.gpctl, 0x102C00000, [], 0x8C00000000000000, 0x0, 0xFF, 0x0, 0x0⟩,
  ⟨.gpctl, 0x103C00000, [], 0x8C00000000000000, 0x0, 0xFF, 0x0, 0x0⟩,
  ⟨.gpctl, 0x105C00000, [], 0x8C00000000000000, 0x0, 0xFF, 0x0, 0x0⟩,
  ⟨.gpstat, 0x100C00008, [], 0x0, 0x400000000000000, 0x0, 0x0, 0x0⟩,
  ⟨.gpstat, 0x102C00008, [], 0x0, 0x400000000000000, 0x0, 0x0, 0x0⟩]

def regRows7 : List RegRow := [
  ⟨.gpstat, 0x103C00008, [], 0x0, 0x400000000000000, 0x0, 0x0, 0x0⟩,
  ⟨.gpstat, 0x105C00008, [], 0x0, 0x400000000000000, 0x0, 0x0, 0x0⟩,
  ⟨.gpbind, 0x100C00010, [], 0x800000000000001F, 0x0, 0x0, 0x0, 0x0⟩,
  ⟨.gpbind, 0x102C00010, [], 0x800000000000001F, 0x0, 0x0, 0x0, 0x0⟩,
  ⟨.gpbind, 0x103C00010, [], 0x800000000000001F, 0x0, 0x0, 0x0, 0x0⟩,
  ⟨.gpbind, 0x105C00010, [], 0x800000000000001F, 0x0, 0x0, 0x0, 0x0⟩,
  ⟨.gpiworg, 0x100C00100, [(0x10, 8)], 0xF00FFFFFFFF00000, 0x0, 0x0, 0x0, 0x0⟩,
  ⟨.gpoworg, 0x100C00200, [(0x10, 8)], 0x800FFFFFFFF00000, 0x0, 0x0, 0x0, 0x0⟩,
  ⟨.gpiworg, 0x102C00100, [(0x10, 8)], 0xF00FFFFFFFF00000, 0x0, 0x0, 0x0, 0x0⟩,
  ⟨.gpoworg, 0x102C00200, [(0x10, 8)], 0x800FFFFFFFF00000, 0x0, 0x0, 0x0, 0x0⟩,
  ⟨.gpiworg, 0x103C00100, [(0x10, 8)], 0xF00FFFFFFFF00000, 0x0, 0x0, 0x0, 0x0⟩,
  ⟨.gpoworg, 0x103C00200, [(0x10, 8)], 0x800FFFFFFFF00000, 0x0, 0x0, 0x0, 0x0⟩,
  ⟨.gpiworg, 0x105C00100, [(0x10, 8)], 0xF00FFFFFFFF00000, 0x0, 0x0, 0x0, 0x0⟩,
  ⟨.gpoworg, 0x105C00200, [(0x10, 8)], 0x800FFFFFFFF00000, 0x0, 0x0, 0x0, 0x0⟩,
  ⟨.gpiwend, 0x100C00108, [(0x10, 8)], 0xFFFFFFFF00000, 0x0, 0x0, 0x0, 0x0⟩,
  ⟨.gpowend, 0x100C00208, [(0x10, 8)], 0xFFFFFFFF00000, 0x0, 0x0, 0x0, 0x0⟩,
  ⟨.gpiwend, 0x102C00108, [(0x10, 8)], 0xFFFFFFFF00000, 0x0, 0x0, 0x0, 0x0⟩,
  ⟨.gpowend, 0x102C00208, [(0x10, 8)], 0xFFFFFFFF00000, 0x0, 0x0, 0x0, 0x0⟩,
  ⟨.gpiwend, 0x103C00108, [(0x10, 8)], 0xFFFFFFFF00000, 0x0, 0x0, 0x0, 0x0⟩,
  ⟨.gpowend, 0x103C00208, [(0x10, 8)], 0xFFFFFFFF00000, 0x0, 0x0, 0x0, 0x0⟩,
  ⟨.gpiwend, 0x105C00108, [(0x10, 8)], 0xFFFFFFFF00000, 0x0, 0x0, 0x0, 0x0⟩,
  ⟨.gpowend, 0x105C00208, [(0x10, 8)], 0xFFFFFFFF00000, 0x0, 0x0, 0x0, 0x0⟩,
  ⟨.gperr, 0x100C00300, [], 0xFFFFFFFFFFFFFFFF, 0x0, 0x0, 0x0, 0x0⟩,
  ⟨.gperr, 0x102C00300, [], 0xFFFFFFFFFFFFFFFF, 0x0, 0x0, 0x0, 0x0⟩]

def regRows8 : List RegRow := [
  ⟨.gperr, 0x103C00300, [], 0xFFFFFFFFFFFFFFFF, 0x0, 0x0, 0x0, 0x0⟩,
  ⟨.gperr, 0x105C00300, [], 0xFFFFFFFFFFFFFFFF, 0x0, 0x0, 0x0, 0x0⟩,
  ⟨.csctl, 0x201000000, [], 0x0, 0x0, 0x0, 0x8000FFFF00000000, 0x40000000000⟩,
  ⟨.csstat, 0x201000008, [], 0xFFFFFFFF, 0x2000000000000000, 0x0, 0x0, 0x200000000000⟩,
  ⟨.jrn, 0x201000010, [(0x8, 2)], 0x0, 0x0, 0x0, 0xFFFFFFFF00000, 0x0⟩,
  ⟨.cestat, 0x201000100, [(0x8, 18)], 0x0, 0x0, 0x0, 0x0, 0xFF000000000000⟩,
  ⟨.ioqcfg, 0x201100000, [(0x8, 262144)], 0x0, 0x0, 0x0, 0x8FFFFFFF00000000, 0x0⟩,
  ⟨.path, 0x201300000, [(0x40, 4096), (0x8, 8)], 0x0, 0x0, 0x0, 0xA0F00FFF00000000, 0x0⟩,
  ⟨.pioqr, 0x20800, [(0x1000, 32), (0x8, 64)], 0x0, 0x0, 0x0, 0x8003FFFF0001FFFF, 0x0⟩,
  ⟨.chpctl, 0x202000000, [(0x1000, 16)], 0x0, 0x0, 0x0, 0x8FFFFFFF0000FF0F, 0x1C61900001403⟩,
  ⟨.chpmac, 0x202000008, [(0x1000, 16), (0x8, 2)], 0x0, 0x0, 0x0, 0xFFFFFFFFFFFF, 0x0⟩,
  ⟨.chpip, 0x202000018, [(0x1000, 16), (0x8, 2)], 0x0, 0x0, 0x0, 0xFFFFFFFFFFFFFFFF, 0x0⟩,
  ⟨.chpstat, 0x202000028, [(0x1000, 16)], 0x0, 0x0, 0x0, 0x0, 0x0⟩,
  ⟨.chperr, 0x202000030, [(0x1000, 16)], 0xFFFFFFFFFFFFFFFF, 0x0, 0x0, 0x0, 0x0⟩,
  ⟨.cuip, 0x202100000, [(0x20, 4096), (0x8, 2)], 0x0, 0x0, 0x0, 0xFFFFFFFFFFFFFFFF, 0x0⟩,
  ⟨.cucfg, 0x202100010, [(0x20, 4096)], 0x0, 0x0, 0x0, 0x800000000000FFFF, 0xC619⟩,
  ⟨.belstat, 0x100400000, [(0x1000000, 6), (0x10000, 2)], 0x0, 0x0, 0x0, 0x0, 0x3F000000000000⟩,
  ⟨.belcmd, 0x100400008, [(0x1000000, 6), (0x10000, 2)], 0x0, 0x0, 0xFF, 0x0, 0x0⟩,
  ⟨.belerr, 0x100400010, [(0x1000000, 6), (0x10000, 2)], 0xFFFFFFFFFFFF0000, 0x0, 0x0, 0x0, 0x0⟩,
  ⟨.bellog, 0x100400018, [(0x1000000, 6), (0x10000, 2), (0x8, 2)], 0x0, 0x0, 0x0, 0x0, 0x0⟩,
  ⟨.mutstat, 0x100404000, [(0x1000000, 6), (0x10000, 2)], 0x0, 0x1000000000000000, 0x0, 0x0, 0x3F000000000000⟩,
  ⟨.mutcmd, 0x100404008, [(0x1000000, 6), (0x10000, 2)], 0x0, 0x0, 0xFF, 0x0, 0x0⟩,
  ⟨.muterr, 0x100404010, [(0x1000000, 6), (0x10000, 2)], 0xFFFFFFFFFFFF0000, 0x0, 0x0, 0x0, 0x0⟩,
  ⟨.mutkv, 0x100404018, [(0x1000000, 6), (0x10000, 2)], 0x0, 0x0, 0x0, 0x0, 0x0⟩]

def regRows9 : List RegRow := [
  ⟨.pkeyown, 0x20600, [(0x1000, 32), (0x8, 12)], 0x0, 0x0, 0x0, 0xFFFFFFFFFFFFFFFF, 0x0⟩,
  ⟨.lkstat, 0x205000000, [], 0x0, 0x0, 0x0, 0x0, 0x0⟩,
  ⟨.lksel, 0x205000008, [], 0xFFF, 0x0, 0x0, 0x0, 0x0⟩,
  ⟨.lkw, 0x205000010, [(0x8, 5)], 0x0, 0x0, 0xFFFFFFFFFFFFFFFF, 0x0, 0x0⟩,
  ⟨.lkcmd, 0x205000038, [], 0x0, 0x0, 0xFF, 0x0, 0x0⟩,
  ⟨.lkcmdst, 0x205000040, [], 0x0, 0x0, 0x0, 0x0, 0x0⟩,
  ⟨.lkkv, 0x205001000, [(0x8, 64)], 0x0, 0x0, 0x0, 0x0, 0x0⟩,
  ⟨.cutcfg, 0x40000, [], 0x0, 0x0, 0x0, 0xFFF, 0x86B⟩,
  ⟨.cutstat, 0x40008, [], 0xFFFF, 0x70003F0000000000, 0x0, 0x0, 0x0⟩,
  ⟨.cuttime, 0x40010, [], 0x0, 0x0, 0x0, 0x0, 0x0⟩,
  ⟨.cutcmd, 0x40018, [], 0x0, 0x0, 0xFF, 0x0, 0x0⟩,
  ⟨.keksel, 0x40100, [], 0x1F, 0x0, 0x0, 0x0, 0x0⟩,
  ⟨.kekw, 0x40108, [(0x8, 5)], 0x0, 0x0, 0xFFFFFFFFFFFFFFFF, 0x0, 0x0⟩,
  ⟨.kekcmd, 0x40130, [], 0x0, 0x0, 0xFF, 0x0, 0x0⟩,
  ⟨.kekst, 0x40138, [], 0x0, 0x0, 0x0, 0x0, 0x0⟩,
  ⟨.epwin, 0x203001100, [(0x8, 8)], 0xC00FFFFFFFF00000, 0x0, 0x0, 0x0, 0x0⟩,
  ⟨.epwst, 0x203001010, [], 0x0, 0x0, 0x0, 0x0, 0x0⟩,
  ⟨.epfwdone, 0x203001028, [], 0x0, 0x0, 0xFFF000000000000, 0x0, 0x0⟩,
  ⟨.epseq, 0x203001030, [], 0x0, 0x0, 0x0, 0x0, 0x1⟩,
  ⟨.epattn, 0x203001018, [], 0x0, 0xF, 0x0, 0x0, 0x0⟩,
  ⟨.epattnset, 0x203001020, [], 0x0, 0x0, 0x1, 0x0, 0x0⟩,
  ⟨.epstat, 0x203001000, [], 0x0, 0x0, 0x0, 0x0, 0x0⟩,
  ⟨.eperr, 0x203001008, [], 0xFFFFFFFFFFFFFFFF, 0x0, 0x0, 0x0, 0x0⟩,
  ⟨.tod, 0x204000000, [(0x8, 2)], 0x0, 0x0, 0x0, 0x0, 0x0⟩]

def regRows10 : List RegRow := [
  ⟨.todctl, 0x204000010, [], 0xE00FFFFFFFFFFFFF, 0x0, 0x0, 0x0, 0x3E8000A0064⟩,
  ⟨.todset, 0x204000018, [], 0x0, 0x0, 0xFFFFFFFFFFFFFFFF, 0x0, 0x0⟩,
  ⟨.todsteer, 0x204000020, [], 0xFFFFFFFF, 0x0, 0x0, 0x0, 0x0⟩,
  ⟨.todstat, 0x204000028, [], 0xFFFFFFFFFFFF, 0x400000000000000, 0x0, 0x0, 0x0⟩,
  ⟨.toderr, 0x204000030, [], 0xFFFFFFFF00000000, 0x0, 0x0, 0x0, 0x0⟩,
  ⟨.straps, 0x1000, [], 0x0, 0x0, 0x0, 0x0, 0x0⟩,
  ⟨.bootstat, 0x1008, [], 0x0, 0x0, 0x0, 0x0, 0x1000000000000000⟩,
  ⟨.bootcmd, 0x1010, [], 0x0, 0x0, 0x3F1FFF, 0x0, 0x0⟩,
  ⟨.bootaddr, 0x1018, [(0x8, 2)], 0xFFFFFFFFFFFFFFFF, 0x0, 0x0, 0x0, 0x0⟩,
  ⟨.bootcmdst, 0x1028, [], 0x0, 0x4000000000000000, 0x0, 0x0, 0x0⟩,
  ⟨.modctl, 0x1030, [], 0x0, 0x0, 0x1, 0x0, 0x0⟩,
  ⟨.diestat, 0x100000000, [(0x1000000, 6)], 0x0, 0x0, 0x0, 0x0, 0x0⟩,
  ⟨.iodstat, 0x200000000, [], 0x0, 0x0, 0x0, 0x0, 0x0⟩,
  ⟨.pupart, 0x100800050, [(0x1000000, 6), (0x10000, 10)], 0x1F, 0x0, 0x0, 0x0, 0x0⟩,
  ⟨.capdir, 0x203000000, [(0x8, 10)], 0x0, 0x0, 0x0, 0x0, 0x0⟩,
  ⟨.mbcmd, 0x203004000, [(0x100, 16)], 0xFF00000000000000, 0x0, 0x0, 0x0, 0x0⟩,
  ⟨.mbarg, 0x203004008, [(0x100, 16), (0x8, 7)], 0xFFFFFFFFFFFFFFFF, 0x0, 0x0, 0x0, 0x0⟩,
  ⟨.mbstat, 0x203004040, [(0x100, 16)], 0x0, 0x0, 0x0, 0x0, 0x0⟩,
  ⟨.mbres, 0x203004048, [(0x100, 16), (0x8, 7)], 0xFFFFFFFFFFFFFFFF, 0x0, 0x0, 0x0, 0x0⟩]

/-- Every register row of the spec's register tables. -/
def regRows : List RegRow :=
  regRows0 ++ regRows1 ++ regRows2 ++ regRows3 ++ regRows4 ++ regRows5 ++ regRows6 ++ regRows7 ++ regRows8 ++ regRows9 ++ regRows10

/-- The indexes of an offset under index dimensions; none when the offset is not a register of the row. -/
def splitIndex : List (Nat × Nat) → Nat → Option (List Nat)
  | [], o => if o = 0 then some [] else none
  | (st, n) :: ds, o =>
    let i := o / st
    if i < n then (splitIndex ds (o % st)).map (i :: ·) else none

/-- The row and the indexes of an assigned address. -/
def regFind : List RegRow → Nat → Option (RegRow × List Nat)
  | [], _ => none
  | r :: rs, a =>
    match (if r.base ≤ a then splitIndex r.dims (a - r.base) else none) with
    | some ix => some (r, ix)
    | none => regFind rs a

/-- The register at a CCS address; none where R24 leaves the address unassigned. -/
def regAt (a : Nat) : Option (RegRow × List Nat) := regFind regRows a

/-- The capability directory of R393, word i at BAR0 offset 8i. -/
def capWord : Nat → Word
  | 0 => 0xD1C0070000000000
  | 1 => 0xB1C75E2781004100
  | 2 => Config.modser
  | 3 => 0x0100000700001000
  | 4 => 0x0200000800001100
  | 5 => 0x0300001000004000
  | 6 => 0x0404001000000000
  | 7 => 0x0504001100000800
  | 8 => 0x0604000100000C00
  | _ => 0x0702000800000000

/-- The Reset value of one register: its row's, with the values that depend on the register's place. -/
def regReset (r : RegRow) (ix : List Nat) : Word :=
  match r.name, ix with
  | .modser, _ => Config.modser
  | .straps, _ => Config.dieOk.setWidth 64 <<< 57
  | .pustat, [d, s] => r.reset ||| BitVec.ofNat 64 (10 * d + s)
  | .cestat, [n] => if n < 16 then r.reset else r.reset ||| (1 <<< 62)
  | .capdir, [i] => capWord i
  | _, _ => r.reset

/-- What an unlisted address of complex control space holds: the register's Reset value. -/
def regDefault (a : Nat) : Word :=
  match regAt a with
  | some (r, ix) => regReset r ix
  | none => 0

end Sys2Proof.Machine
end

