-- ==== Sys2Proof/Machine/State.lean ====
section
/-! DEFINITION. The state of the module as plain data: every register of complex control space, memory with its tags, the
60 processing units, and everything the other units hold; the reasons a step can stop; and the state right after power-up. -/

namespace Sys2Proof.Machine

/-- A bank register: the BASE word and the attribute word, tags included (R43). -/
structure Bank where
  base : TWord
  attr : TWord
deriving DecidableEq, Repr

/-- An empty bank register, as after reset (R43). -/
def Bank.empty : Bank := ⟨uninitWord, uninitWord⟩

/-- A program interruption or supervisor call, with everything its code word, failing address and old PSW need
(R136, R140). -/
structure Exc where
  cls   : Nat
  code  : Nat
  fail  : Word
  ia    : Word
  ilen  : Nat
  slot  : Nat
  unit  : Nat
  acc   : Nat
  param : Word
deriving DecidableEq, Repr

/-- A pending immediate machine check (R138, R141, R183). -/
structure McImm where
  code : Nat
  seq  : Nat
  pswv : Bool
  regv : Bool
deriving DecidableEq, Repr

/-- The bytes one word of a merging-buffer entry will write: the byte mask (bit k for the byte at word offset k), the
data, and the tag the word takes when a whole-word store wrote it (R201, R202). -/
structure WordWrite where
  mask : BitVec 8
  data : Word
  tag  : Option Tag
deriving DecidableEq, Repr

/-- How far the store of a merging-buffer entry has come (R222, R226). -/
inductive MbPhase where
  /-- Waiting in the buffer. -/
  | waiting
  /-- A device store that left the buffer with port acceptance and awaits agent acceptance; `ticks` shutters remain. -/
  | sent (ticks : Nat)
  /-- A lost record with its program code. -/
  | lost (code : Nat)
deriving DecidableEq, Repr

/-- A merging-buffer entry (R201): a memory line, or one device store of its own. `line` is the absolute address of the
line (of the first byte for a device store) and `vline` the virtual one. -/
structure MbEntry where
  device : Bool
  strict : Bool
  line   : Nat
  vline  : Nat
  len    : Nat
  words  : Sparse WordWrite
  phase  : MbPhase
  /-- Of a device store, PSW.PART when it was made, which selects the port (R290); 0 of a line. -/
  part   : Nat
deriving DecidableEq, Repr

/-- The kinds of request that leave a PU before an instruction can retire (R173). -/
inductive ReqKind where
  | farAtomic
  | nearAtomic
  | deviceRead
  | io
  | sigpu
  | mlock
  | mfree
  | engine
deriving DecidableEq, Repr

/-- A latched request and, once it is there, its response (R177). -/
structure LatchEnt where
  kind : ReqKind
  addr : Nat
  resp : Option (List TWord)
deriving DecidableEq, Repr

/-- A store of a resumable unit in the unit hold (R182). -/
structure HeldStore where
  abs  : Nat
  va   : Nat
  len  : Nat
  data : Word
  tag  : Option Tag
deriving DecidableEq, Repr

/-- A line an L2 holds: its way and its MOESI state (R197, R231). -/
inductive Moesi where
  | M
  | O
  | E
  | S
  | I
deriving DecidableEq, Repr

structure L2Line where
  line  : Nat
  way   : Nat
  state : Moesi
deriving DecidableEq, Repr

/-- The state of a directory entry (R232); a line with no entry is in state I. -/
inductive DirSt where
  | S
  | O
  | X
deriving DecidableEq, Repr

/-- A directory entry (R232): its owner for states O and X, the vector of nodes that may hold the line (the owner among
them), when it was last used, and whether the owner gave up its lines without this one, which is then a failed owner's (R297). -/
structure DirEnt where
  st    : DirSt
  owner : Nat
  vec   : Nat
  used  : Nat
  lost  : Bool := false
deriving DecidableEq, Repr

/-- A die tracker entry (R233): the node's state as the home granted it, and when it was last used. -/
structure TrkEnt where
  st   : Moesi
  used : Nat
deriving DecidableEq, Repr

/-- The requests of R234, and the transactions a home makes of its own: an eviction (R241) and a recovery (R251). -/
inductive HomeOp where
  | rds
  | rdx
  | upg
  | rdnc
  | wrnc
  | atom
  | evict
  | recover
deriving DecidableEq, Repr

/-- A request at a home. -/
structure HomeReq where
  op    : HomeOp
  who   : Requester
  line  : Nat
  wr    : List WordMask
  stash : Option Stash
  part  : Nat
  /-- A guest's own number for the request (TXN); 4,096 when the port absorbs the answer (R296). -/
  txn   : Nat
  /-- What the ECC of the line's directory entry and of its DRAM will find (R213, R251). -/
  found : Found
  /-- The fabric cycle in which it arrived at the home, and the port it came through (R239). -/
  cycle : Nat
  port  : Nat
deriving DecidableEq, Repr

inductive SnoopKind where
  | snps
  | snpx
  | snpn
  | snpi
  | snpr
deriving DecidableEq, Repr

/-- A snoop a transaction awaits: the ticks since it left the home, and the node's answer, HELD and DIRTY, once it has
acted. -/
structure Snoop where
  node  : Nat
  kind  : SnoopKind
  ticks : Nat
  ans   : Option (Bool × Bool)
  /-- The port's number for it at a guest's agent (R284). -/
  txn   : Nat
deriving DecidableEq, Repr

/-- An open transaction (R236): the snoops not yet acknowledged; the node that supplies the data; whether that node's ACK
carried DIRTY and HELD; the granted state; for ATOM, whether no other node held the line; `got` once the requester has received
DATA; `done` once the home has sent CMP. -/
structure Txn where
  req    : HomeReq
  snoops : List Snoop
  src    : Option Nat
  dirty  : Bool
  held   : Bool
  grant  : Moesi
  alone  : Bool
  got    : Bool
  done   : Bool
deriving DecidableEq, Repr

/-- A CMP on its way to its requester (R236): the request's kind, the granted state, whether DATA is still to come before it,
whether R37 refused bytes, and for ATOM the answer. -/
structure Cmp where
  op      : HomeOp
  who     : Requester
  line    : Nat
  txn     : Nat
  grant   : Moesi
  needs   : Bool
  ans     : List TWord
  alone   : Bool
  refused : Bool
  part    : Nat
deriving DecidableEq, Repr

/-- A request of a guest's agent from its admission until it is closed (R287): its record, its bytes, whether it has left the ingress
queue; whether CMP with AUX 0x02 has answered it and only its CMPACK is awaited; whether the link has gone down since (R296). -/
structure GReq where
  record : BitVec 128
  wr   : List WordMask
  gone : Bool
  answered : Bool
  dead : Bool
deriving DecidableEq, Repr

/-- A device access outstanding at an agent (R290): the port's number for it and the PU it serves. -/
structure GDev where
  txn   : Nat
  pu    : Nat
  write : Bool
  abs   : Nat
  len   : Nat
deriving DecidableEq, Repr

/-- A sequenced flit in the replay buffer (R281): its SEQ, payload and descriptors. -/
structure TxFlit where
  seq     : Nat
  payload : List (BitVec 8)
  descs   : List (BitVec 8)
deriving DecidableEq, Repr

/-- What a guest port holds besides its registers (R277 to R286): when its link entered its state; whether it has left DOWN
since reset; whether it is being quiesced; where RETRAIN returns to; credits; the ingress queue and the agent's open
requests; outstanding device accesses; the sequence numbers of both directions with the replay buffer, the messages that wait for
room in it, and how many bytes of an idle chunk the next flit begins with; a NAK and SHUT that the next flit carries; the chunk
stream it receives, and for each stream the records that await their data chunks. -/
structure GPort where
  since    : Nat
  trained  : Bool
  quiet    : Bool
  back     : Nat
  snpCrd   : Nat
  devCrd   : Nat
  opens    : List GReq
  devs     : List GDev
  nextTxn  : Nat
  rxSeq    : Nat
  nak      : Bool
  txSeq    : Nat
  replay   : List TxFlit
  txWait   : List (List Nat)
  txOff    : Nat
  nakDue   : Bool
  shutDue  : Bool
  replays  : Nat
  replayAt : Nat
  rxBytes  : List (BitVec 8)
  descs    : List Nat
  recsP    : List (BitVec 128)
  recsC    : List (BitVec 128)
deriving DecidableEq, Repr

/-- A flit in a link's sending queue: its kind, the partition it is charged to, whether it is a snoop record (R282), and what it
carries (R254). -/
structure Flit where
  kind    : FlitKind
  part    : Nat
  snoop   : Bool
  line    : List TWord
  returns : List (Fin 6)
  nacks   : List (Fin 4 × BitVec 8)
deriving DecidableEq, Repr

/-- What a link direction of the fabric holds besides its registers (R258, R264 to R267, R273): its sending queue, oldest first, and
the general-control flits that wait at their sources; make-good claims oldest first, the best-effort pointer, the next slot of the
shutter in progress and its counts, the last winner, and a commit that waits with its ticks. -/
structure FabLink where
  queue  : List Flit
  source : List Flit
  next   : Nat
  claims : List Nat
  ptr    : Nat
  ctl    : Nat
  guar   : Nat
  be     : Nat
  disp   : Nat
  won    : Option Flit
  commit : Option Nat
deriving DecidableEq, Repr

/-- An entry of the contention predictor (R244), most recently used first in its list. -/
structure PredEnt where
  line  : Nat
  count : Nat
deriving DecidableEq, Repr

/-- A near atomic of an L2 and the shutter ticks since it completed, for the predictor (R244). -/
structure NearMark where
  line : Nat
  ticks : Nat
deriving DecidableEq, Repr

/-- A resync that is due at the next boundary (R180, R193): after a masked dissent of the core in a role, with its CAUSE (R458)
and whether the resync retires the core (R185), or at debug exit. -/
inductive Resync where
  | dissent (role : Role) (cause : BitVec 4) (retire : Bool)
  | debugExit
deriving DecidableEq, Repr

/-- A retake that is due (R178 to R184). `cause` is the CAUSE of R458; `seq` the log entry whose recovery report the success of
the retake makes pending, 0 for none; `entry`: the bundle that failed was an interruption entry's (R182). -/
inductive Due where
  | none
  /-- The instruction, unit or entry must be retaken, `voter` after a voter disagreement and `again` when that recurred. -/
  | retake (cause : BitVec 4) (voter : Bool) (again : Bool) (seq : Nat) (entry : Bool)
  /-- The retake ran; the re-execution is awaited. -/
  | retaken (cause : BitVec 4) (voter : Bool) (seq : Nat) (entry : Bool)
deriving DecidableEq, Repr

/-- The operations an atomic performs on one word (R103, R243). -/
inductive AtomOp where
  | add
  | sub
  | neg
  | and
  | or
  | xor
  | not
  | cas
  | fadd
deriving DecidableEq, Repr

/-- What a program exception reports besides its code: failing address, SLOT, UNIT and ACC (R140). -/
structure Report where
  fail : Word
  slot : Nat
  unit : Nat
  acc  : Nat
deriving DecidableEq, Repr

/-- An atomic at the place that performs it (R245): address, operation, width, operands with tags, 0xEB honoured, and the POLICY
of the bank; what the exceptions of its checks report, of the memory word and of a refused pair of tags; and the exception of
its other operands, which comes after those of the memory word (R83, R243). -/
structure AtomReq where
  op     : AtomOp
  abs    : Nat
  narrow : Bool
  relax  : Bool
  policy : Nat
  a      : TWord
  b      : TWord
  word   : Report
  pair   : Report
  later  : Option (Nat × Report)
  /-- The home has performed it (R246). -/
  done   : Bool
deriving DecidableEq, Repr

/-- The device load a PU has outstanding (R229): where it reads, what its exception would report, the shutters left. -/
structure DevLoad where
  abs   : Nat
  va    : Nat
  len   : Nat
  ilen  : Nat
  slot  : Nat
  unit  : Nat
  ticks : Nat
  /-- The request has left for the agent (R290). -/
  sent  : Bool
deriving DecidableEq, Repr

/-- A stand-in sync (R186): the role it fills, the core, its phase (0 self-test, 1 copy, 2 insertion due). -/
structure StandIn where
  role  : Role
  core  : Nat
  phase : Nat
deriving DecidableEq, Repr

/-- A PUCMD command in progress (R191, R192). -/
inductive PuJob where
  | move (target : Nat)
  | test
deriving DecidableEq, Repr

/-- A unit of work waiting at a Bellows or Mute engine (R363, R374). -/
inductive UnitKind where
  | compress
  | expand
  | sealing
  | opening
deriving DecidableEq, Repr

/-- A unit of a resumable instruction waiting at an engine (R363, R374): whether units of the invocation went before it, and the
instruction's prefix bytes and operands. -/
structure Job where
  kind : UnitKind
  cont : Bool
  pfx  : List (BitVec 4)
  ops  : List Spec
deriving DecidableEq, Repr

/-- One pending I/O interruption (R320): the IOQ, 65,536 x set + number, and the stored status it stands for. -/
structure IoInt where
  ioq    : Nat
  status : Nat
deriving DecidableEq, Repr

/-- Everything of one PU that complex control space does not hold. -/
structure Pu where
  g        : Sparse TWord
  b        : Sparse Bank
  rsp      : Word
  psw      : BitVec 128
  ctl      : Sparse Word
  pfxArea  : Word
  fpc      : Word
  fpfia    : Word
  busy     : BitVec 6
  /-- Pending external call with its sender (R113). -/
  xcall    : Option Nat
  /-- Pending restart with its issuer word (R113, R133). -/
  restart  : Option Nat
  /-- Pending Cut events, oldest first: parameter words (R386, R387). -/
  cutEv    : List Word
  /-- A SIGPU stop is held (R113). -/
  stopHeld : Bool
  /-- Pending deferrable machine checks: the oldest unreported log sequence number of each subclass (R196). -/
  mcExt    : Option Nat
  mcDegr   : Option Nat
  mcWarn   : Option Nat
  mcRecv   : Option Nat
  /-- Pending immediate machine check (R138). -/
  mcImm    : Option McImm
  /-- The program interruption or supervisor call of the instruction just ended, still to be taken (R134 step 2). -/
  prog     : Option Exc
  /-- The clock comparator's condition is pending (R416). -/
  clkPend  : Bool
  /-- The status reserved for this PU's entry until its bundle is released (R320). -/
  ioResv   : Option IoInt
  /-- At a unit boundary of a resumable instruction: that instruction's length (R145). -/
  resume   : Option Nat
  latch    : List LatchEnt
  /-- How many latched requests the instruction in progress has passed (R181). -/
  latchPos : Nat
  unitHold : List HeldStore
  mb       : List MbEntry
  l2       : List L2Line
  /-- The roles whose cores have met bad parity in a stored microword, until the word is rewritten (R160). -/
  microBad : List Role
  /-- The lines in the L1I and L1D of the cores in step (R197, R198), and the lines that the instruction in progress has read,
  true for its fetch. -/
  l1i      : List Nat
  l1d      : List Nat
  touched  : List (Bool × Nat)
  /-- Reserved (set, way) marks (R206). -/
  l2resv   : List (Nat × Nat)
  pred     : List PredEnt
  near     : List NearMark
  /-- The running L2 command, PRELOAD or RANGEINV, with its first line and its length (R204, R206). -/
  l2cmd    : Option (Nat × Nat × Nat)
  devLoad  : Option DevLoad
  /-- The unit this PU has waiting at a Bellows or Mute engine. -/
  job      : Option Job
  /-- The far atomic a PU has outstanding (R245). -/
  atomReq  : Option AtomReq
  /-- How much of `tbHist` lies before the last purge (R57). -/
  tbMark   : Nat
  /-- Channel instructions issued in this shutter (R262). -/
  chanCnt  : Nat
  due      : Due
  /-- The resync that is due (R179, R180, R193). -/
  resync   : Option Resync
  /-- Shutter counts of the duplex mismatches in the window (R188). -/
  dupTimes : List Nat
  standIn  : Option StandIn
  /-- The PUCMD command in progress. -/
  puJob    : Option PuJob
  /-- Halted by the debug port (R193). -/
  halted   : Bool
  /-- A DBG STEP lets the halted lead run to the next boundary (R436). -/
  stepArm  : Bool
  /-- A DBG HALT awaits the next boundary. -/
  haltReq  : Bool
  /-- Stopped by the open microstore loader (R166). -/
  loaderStop : Bool
  /-- One above the last RDTOD value, 0 before the first (R114). -/
  lastTod  : Nat
deriving DecidableEq, Repr

/-- A PU's registers after reset (R42, R43, R46, R48, R119, R416); RSP and the busy bits: log entry 1. -/
def Pu.reset : Pu where
  g := []
  b := []
  rsp := 0
  psw := 0
  ctl := []
  pfxArea := 0
  fpc := 0
  fpfia := 0
  busy := 0
  xcall := none
  restart := none
  cutEv := []
  stopHeld := false
  mcExt := none
  mcDegr := none
  mcWarn := none
  mcRecv := none
  mcImm := none
  prog := none
  clkPend := false
  ioResv := none
  resume := none
  latch := []
  latchPos := 0
  unitHold := []
  mb := []
  l2 := []
  microBad := []
  l1i := []
  l1d := []
  touched := []
  l2resv := []
  pred := []
  near := []
  l2cmd := none
  devLoad := none
  job := none
  atomReq := none
  tbMark := 0
  chanCnt := 0
  due := .none
  resync := none
  dupTimes := []
  standIn := none
  puJob := none
  halted := false
  stepArm := false
  haltReq := false
  loaderStop := false
  lastTod := 0

/-- A write to a register that is not yet in force (R59, R211, R223, R289, R290): the register's address, what it held
before the write, and the shutter ticks left. Oldest write first. -/
structure PendWrite where
  addr  : Nat
  was   : Word
  ticks : Nat
deriving DecidableEq, Repr

/-- What a message that leaves the module is. -/
inductive SentKind where
  /-- A memory write to the support host: address, then words; an MSI-X message is one too (R399, R400). -/
  | hostWrite
  /-- A memory read to the support host: tag, address, length (R400). -/
  | hostRead
  /-- A completion to the support host: status, then words (R391). -/
  | hostCpl
  /-- A flit to a guest port's agent: port, then bytes 0 to 249 of the flit as one number, byte 0 the most significant (R278). -/
  | guest
  /-- A frame on a channel port: port, then the bytes of the Ethernet frame before its FCS (R331 to R334). -/
  | frame
  /-- A Neighbor Advertisement: port, the address advertised, CHPMAC, the address it goes to (R332). -/
  | neighbor
deriving DecidableEq, Repr

/-- A message the module has sent. -/
structure Sent where
  kind : SentKind
  args : List Nat
deriving DecidableEq, Repr

/-- An active open image (R162): binding entries by number, microwords by open address. -/
structure OpenImage where
  binds : Sparse Word
  words : Sparse Word
deriving DecidableEq, Repr

/-- An open microstore LOAD or UNLOAD in progress (R166): for a LOAD, the NWORDS that step 4 of R165 found, 0 while
its header has still to be read; `cut` when an erasure
abandoned it (R386). -/
structure Loader where
  part : Nat
  load : Bool
  words : Nat
  cut  : Bool
deriving DecidableEq, Repr

/-- A KEKCMD or LKCMD command in progress: its target and wrapped key; `cut` when a Cut response of level 2 or 3 fell
during it (R368, R383). -/
structure KeyJob where
  cmd  : Nat
  sel  : Nat
  wrap : List Word
  cut  : Bool
deriving DecidableEq, Repr

/-- A loaded key slot of a Mute engine (R369). -/
structure SlotKey where
  key : BitVec 256
  alg : Nat
deriving DecidableEq, Repr

/-- An entry of the link key table (R383): the key in force, the one before it while frames under it are accepted, the one
that waits for its tick with the ticks left, and the grace left in shutters. -/
structure LinkKey where
  cur   : Option (BitVec 256)
  prev  : Option (BitVec 256)
  next  : Option (BitVec 256 × Nat)
  grace : Nat
deriving DecidableEq, Repr

/-- A fetched CCE (R303): its index and its two words. -/
structure Cce where
  idx : Nat
  w0  : Word
  w1  : Word
deriving DecidableEq, Repr

/-- Why the channel itself ends a command (R304, R306, R307, R309): the error, the CCE with its residual, and the command
offset at which the data ends. -/
structure ChanStop where
  err   : Nat
  idx   : Nat
  resid : Nat
  off   : Nat
deriving DecidableEq, Repr

/-- A sequenced frame that no ACK covers yet (R341). -/
structure OutFrame where
  seq  : Nat
  type : Nat
  arg  : Nat
  last : Bool
  data : List (BitVec 8)
  tags : List (BitVec 4)
  /-- The ACK of its first transmission, which a repetition carries again (R334). -/
  ack  : Nat
deriving DecidableEq, Repr

/-- The CMDEND of a command (R345). -/
structure DevEnd where
  count : Nat
  devst : Nat
  dck   : Bool
  sense : List (BitVec 8)
deriving DecidableEq, Repr

/-- A halt or clear in progress (R346): transmissions so far, and the control unit's RESULT once it has answered. -/
structure Halting where
  clear  : Bool
  timed  : Bool
  sends  : Nat
  result : Option Nat
deriving DecidableEq, Repr

/-- The ending of a start, before its status is stored (R318). -/
structure Ending where
  kind   : Nat
  err    : Nat
  uncert : Bool
  timed  : Bool
  devst  : Nat
  idx    : Nat
  resid  : Nat
  sense  : List (BitVec 8)
deriving DecidableEq, Repr

/-- The exchange of an active start (R323, R341 to R347): engine; path of its group, with the last one used and the shutters
without one; shutters active; the CCEs fetched for the next command; the current command's CCEs, with how far its data has
come; both sequence spaces; and what is due. -/
structure Exch where
  engine   : Nat
  path     : Option Nat
  lastK    : Nat
  lost     : Nat
  ticks    : Nat
  idx      : Nat
  nxt      : List Cce
  nxtStop  : Option ChanStop
  nxtDone  : Bool
  /-- The current command has ended without error, or none has been sent. -/
  more     : Bool
  cur      : List Cce
  curStop  : Option ChanStop
  /-- The addresses read from the current command's indirect lists, by the CCE's index times 2^32 plus the entry's (R306). -/
  ents     : Sparse Nat
  off      : Nat
  /-- Accepted bytes of a read whose word is not complete. -/
  hold     : List (BitVec 8)
  stored   : Nat
  counted  : Nat
  ckpts    : Nat
  termed   : Bool
  txSeq    : Nat
  txAck    : Nat
  rxSeq    : Nat
  rxCnt    : Nat
  ackDue   : Bool
  txBase   : Nat
  rxBase   : Nat
  out      : List OutFrame
  expiries : Nat
  devEnd   : Option DevEnd
  /-- The device status of the last CMDEND, 0 before one (R318). -/
  devst    : Nat
  halt     : Option Halting
  ending   : Option Ending
  prog     : Nat
  /-- How much of `prog` the stored progress status reports (R318). -/
  told     : Nat
  progDue  : Option Nat
  failover : Bool
  /-- RESUME is sent again until a sequenced frame arrives (R347). -/
  resume   : Bool
  /-- The exchange is on a new path or engine and has not sent RESUME yet (R343). -/
  moved    : Bool
deriving DecidableEq, Repr

/-- A held start that has not ended (R298, R302, R324); `exch` once it is active. `pu` accepted it; none for IPLCHAN. -/
structure Start where
  ioq    : Nat
  xid    : Nat
  user   : Nat
  sbk    : Nat
  nosusp : Bool
  tmo    : Nat
  c0     : Word
  c1     : Word
  rest   : Word
  pu     : Option Nat
  /-- A partition reset discards what the start stores when it ends (R428). -/
  gone   : Bool
  exch   : Option Exch
deriving DecidableEq, Repr

/-- A stored status (R318): the start it belongs to, whether it is an ending, and its four words. -/
structure IoStatus where
  id     : Nat
  ioq    : Nat
  xid    : Nat
  ending : Bool
  words  : List Word
deriving DecidableEq, Repr

/-- A pair (R339, R340): operational; shutters since its last LOGIN, none before the first; the TIME of an ECHO that awaits its
answer; unanswered ECHOs in a row. -/
structure Pair where
  oper   : Bool
  login  : Option Nat
  echo   : Option Nat
  misses : Nat
deriving DecidableEq, Repr

/-- The exchange of an IOQ that ended last: its XID and where its sequence numbers stood (R341). -/
structure Ended where
  xid   : Nat
  rxSeq : Nat
deriving DecidableEq, Repr

/-- An ENDACK that is due (R345): IOQ, XID, channel port and control unit. -/
structure EndAck where
  ioq  : Nat
  xid  : Nat
  rxSeq : Nat
  port : Nat
  cu   : Nat
deriving DecidableEq, Repr

/-- A rising edge of PPS_IN that awaits its judgement (R409): TOD at the edge, and e in units of 31.25 ps. -/
structure Pulse where
  tod : Nat
  e   : Int
deriving DecidableEq, Repr

/-- What the time of day holds besides TOD and its registers (R406 to R415): the fraction of a unit, in millionths; a STEER,
a seconds setting, a step (with whether its tick has come) and servo values that wait for a tick; the pulse in judgement; the
edges of candidate pulses; the second of the last accepted pulse; the last second whose window is done; misses since entry
into HOLDOVER; accepted pulses of the run; the levels of PPS_OUT and SYNC_OUT; and TODLO by requester: 0 firmware, 1 support
host, 2 debug port. -/
structure Clock where
  rem     : Nat
  steer   : Option Nat
  set     : Option Nat
  step    : Option (Nat × Bool)
  servo   : Option (Nat × Nat)
  pulse   : Option Pulse
  cands   : List Nat
  accSec  : Option Nat
  closed  : Nat
  misses  : Nat
  run     : Nat
  ppsOut  : Bool
  syncOut : Bool
  lo      : Sparse Nat
deriving DecidableEq, Repr

def Clock.reset : Clock where
  rem := 0
  steer := none
  set := none
  step := none
  servo := none
  pulse := none
  cands := []
  accSec := none
  closed := 0
  misses := 0
  run := 0
  ppsOut := false
  syncOut := false
  lo := []

/-- A boot command that is running (R421): LOADMC with the image's VERSION and microwords, an IPL through a start, a partition reset with the
shutter it began in. -/
inductive BootJob where
  | loadmc (ver : Nat) (words : Sparse Word)
  | ipl (pu part ioq xid : Nat)
  | preset (part since : Nat)
  /-- A command that waits for lines of memory (R236). -/
  | held (cmd pu part : Nat)
deriving DecidableEq, Repr

/-- What the boot sequencer and the slow lands hold (R417 to R427, R449): PWRGOOD; RESET_N high; RESET_N has risen since
power-up; a system reset awaits its write-back; the running boot command; the PU that STARTFW started; the temperature
warning is armed no more. -/
structure Boot where
  pwrGood : Bool
  resetN  : Bool
  ran     : Bool
  wb      : Bool
  job     : Option BootJob
  fwPu    : Option Nat
  warned  : Bool
deriving DecidableEq, Repr

def Boot.reset : Boot where
  pwrGood := true
  resetN := false
  ran := false
  wb := false
  job := none
  fwPu := none
  warned := false

/-- A COPYIN or COPYOUT in progress (R400): slot, direction, host and module address, length, the tag to write, the bytes
asked for and the bytes copied; data that came ahead of its turn, by offset. -/
structure Copy where
  slot  : Nat
  out   : Bool
  host  : Nat
  addr  : Nat
  len   : Nat
  tag   : Tag
  asked : Nat
  done  : Nat
  held  : Sparse (List Word)
deriving DecidableEq, Repr

/-- A tag in use for a read of the host (R400 to R402): the slot it serves, none once that command has ended; where its next
data goes and how many bytes are to come; `gone` when a Function Level Reset abandoned it. -/
structure HostRead where
  tag  : Nat
  slot : Option Nat
  off  : Nat
  left : Nat
  gone : Bool
deriving DecidableEq, Repr

/-- An ABORT the sequencer has begun (R403 to R405), with what it will write into its slot. -/
structure AbortJob where
  slot   : Nat
  kind   : Nat
  target : Nat
  status : Nat
  res0   : Word
  res1   : Word
deriving DecidableEq, Repr

/-- A request of the support host that the endpoint has received: `whole` for 8 aligned bytes with all byte enables set; a window
access holds the mapping in force at its arrival (R395), and the word number in its aperture. -/
inductive HostTlp where
  | config (r : HostConfig)
  | bar0 (write : Bool) (off : Nat) (whole : Bool) (v : Word)
  | window (map : Word) (o : Nat) (write : Bool) (words : List HostWord)
  | ring (m : Nat) (whole : Bool)
  | refused (posted : Bool)
deriving DecidableEq, Repr

/-- What the service endpoint holds besides its registers (R389 to R405): configuration space by doubleword; the MSI-X table by
word, and its pending bits; SE_PERST_N low; requests that wait to be performed, in arrival order; the slots rung whose command has not
begun; copies; tags; ABORTs, and how many messages the abort sequencer has sent in the shutter in progress (R262). -/
structure Endpoint where
  cfg    : Sparse Word
  table  : Sparse Word
  pba    : Nat
  perst  : Bool
  tlps   : List HostTlp
  rung   : List Nat
  copies : List Copy
  reads  : List HostRead
  aborts : List AbortJob
  abortCnt : Nat
deriving DecidableEq, Repr

def Endpoint.reset : Endpoint where
  cfg := []
  table := []
  pba := 0
  perst := false
  tlps := []
  rung := []
  copies := []
  reads := []
  aborts := []
  abortCnt := 0

/-- A debug access to memory that is still running (R437): a write, the absolute address, the word. -/
structure DebugAccess where
  wr   : Bool
  addr : Nat
  word : TWord
deriving DecidableEq, Repr

/-- The debug access port (R431 to R439): instruction register, the data register as last captured, boundary-scan register,
the lands driven from it; the challenge; DBG's fields; DBGACC's; VFSEL. -/
structure Debug where
  ir       : BitVec 8
  dr       : Nat
  bsr      : List Bool
  extest   : Bool
  chal     : Option Word
  status   : Nat
  unlocked : Bool
  fails    : Nat
  pu       : Nat
  accWord  : TWord
  accStat  : Nat
  accRun   : Option DebugAccess
  vfsel    : Nat
deriving DecidableEq, Repr

def Debug.reset : Debug where
  ir := 0xFF
  dr := 0
  bsr := []
  extest := false
  chal := none
  status := 0
  unlocked := false
  fails := 0
  pu := 0
  accWord := uninitWord
  accStat := 0
  accRun := none
  vfsel := 0

/-- The state of the module. -/
structure State where
  /-- Memory by word number (absolute address / 8); an unlisted word is data 0 tagged UNINIT (R419). -/
  mem     : Sparse TWord
  /-- Complex control space by address; an unlisted register holds its Reset value. -/
  regs    : Sparse Word
  /-- Register writes that wait for their shutter tick. -/
  pend    : List PendWrite
  pus     : Sparse Pu
  /-- The time of day, TOD[127:0] (R406). -/
  tod     : Nat
  /-- The older values of memory words that may have been table entries, oldest first (R57). -/
  tbHist  : List (Nat × Word)
  /-- Pending service signals, oldest first: mailbox sequence numbers (R398). -/
  serv    : List Word
  /-- Pending I/O interruptions in the order their statuses were stored (R320, R321). -/
  ioInts  : List IoInt
  /-- Free stand-in cores other than PC30 to PC33, as 64 x die + core (R192); those four are in TRIADCFG.SIFREE. -/
  freeCores : List Nat
  /-- Good home cores of slots that formation left OFFLINE, as 64 x die + core (R424). -/
  idleCores : List Nat
  /-- What the module has sent, oldest first: the model's own record of its outputs (log entry 4). -/
  sent    : List Sent
  ep      : Endpoint
  clock   : Clock
  boot    : Boot
  dbg     : Debug
  /-- Key-encryption keys and customer image keys by partition (R367, R165). -/
  keks    : Sparse (BitVec 256)
  imageKeys : Sparse (BitVec 256)
  images  : Sparse OpenImage
  loader  : Option Loader
  kekJob  : Option KeyJob
  lkJob   : Option KeyJob
  /-- Key slots by 64 x engine + slot; generation counts are `genBase` plus the slot's own (R369). -/
  slotKeys : Sparse SlotKey
  slotGen : Sparse Nat
  genBase : Nat
  /-- The state key is noise value `stateKey` (R372); `noiseCnt` noise values have been drawn. -/
  stateKey : Nat
  noiseCnt : Nat
  /-- Link keys by control unit, and CTR by 4096 x port + control unit (R383). -/
  linkKeys : Sparse LinkKey
  linkCtr : Sparse Nat
  /-- Reseeds withheld in a row by die, the I/O die 6 (R382). -/
  withheld : Sparse Nat
  /-- Engine-check times in the window: Bellows engines 0 to 11, Mute engines 12 to 23 (R362, R381). -/
  engTimes : Sparse (List Nat)
  /-- The slot each Bellows engine served last (R363). -/
  belLast : Sparse Nat
  /-- The directories by line number (R232), and the count of their uses. -/
  dir     : Sparse DirEnt
  dirClock : Nat
  /-- What DRAM holds of a word where it is not what `mem` holds, the newest value: a cache has not written the line back, or DRAM
  lost it while good copies stand in caches (R214, R216, R237). -/
  dram    : Sparse TWord
  /-- The L3 data ways and the die trackers by 2^46 x die + line number (R233). -/
  l3      : Sparse Moesi
  trk     : Sparse TrkEnt
  /-- Open transactions, the requests that wait at the homes by age, and the CMPs on their way (R236, R240). -/
  txns    : List Txn
  homeQ   : List HomeReq
  /-- Requests that wait at their own nodes for a home credit, oldest first (R242, R269). -/
  atNode  : List HomeReq
  cmps    : List Cmp
  gports  : Sparse GPort
  /-- Link directions of the fabric by 64 x node + 2 x L + r. -/
  fab     : Sparse FabLink
  /-- SERVED and REFUSED of the shutter in progress by partition (R271). -/
  served  : Sparse Nat
  refused : Sparse Nat
  /-- Held starts that have not ended, in order of acceptance; the commit ring by IOQ and XID (R298, R324). -/
  starts  : List Start
  ring    : List (Nat × Nat)
  /-- Stored statuses, oldest first, and the next one's number (R318). -/
  stats   : List IoStatus
  statSeq : Nat
  /-- Suspended IOQs; sense records; the next XID; USER and start block of the newest start accepted (R298 to R317). -/
  susp    : List Nat
  sense   : Sparse (List Word)
  xidNext : Sparse Nat
  newest  : Sparse (Nat × Nat)
  /-- EPOCH of LOGIN (R339); pairs by 4096 x port + control unit; exchanges that ended last by IOQ; ENDACKs due. -/
  epoch   : Word
  pairs   : Sparse Pair
  ended   : Sparse Ended
  endacks : List EndAck
  /-- Failover reports that wait for a PU in STATE RUN: partition and engine (R326). -/
  failRep : List (Nat × Nat)
  /-- The Bilnotra microwords by store address, as LOADMC supplied them (R146). -/
  micro   : Sparse Word
  /-- The model's own counter of free values drawn (log entry 2). -/
  fresh   : Nat
  /-- The model's own queue of waiting commands. -/
  pending : List Instr
deriving DecidableEq, Repr

def State.reset : State where
  mem := []
  regs := []
  pend := []
  pus := []
  tod := 0
  tbHist := []
  serv := []
  ioInts := []
  freeCores := []
  idleCores := []
  sent := []
  ep := Endpoint.reset
  clock := Clock.reset
  boot := Boot.reset
  dbg := Debug.reset
  keks := []
  imageKeys := []
  images := []
  loader := none
  kekJob := none
  lkJob := none
  slotKeys := []
  slotGen := []
  genBase := 0
  stateKey := 0
  noiseCnt := 1
  linkKeys := []
  linkCtr := []
  withheld := []
  engTimes := []
  belLast := []
  dir := []
  dirClock := 0
  dram := []
  l3 := []
  trk := []
  txns := []
  homeQ := []
  atNode := []
  cmps := []
  gports := []
  fab := []
  served := []
  refused := []
  starts := []
  ring := []
  stats := []
  statSeq := 0
  susp := []
  sense := []
  xidNext := []
  newest := []
  epoch := 0
  pairs := []
  ended := []
  endacks := []
  failRep := []
  micro := []
  fresh := 0
  pending := []

/-- Why a step stops although the command is legal. No meaning of this model raises one of them on a path for which the
spec gives an effect. -/
inductive Fault where
  /-- Raised by no command of this model; kept so that the type is not empty. Safe. -/
  | unreachable
deriving DecidableEq, Repr

/-- Why a command has no meaning. -/
inductive Refusal where
  /-- Raised by a dispatch arm whose command has no meaning yet. Safe. -/
  | notModelled (mnemonic : String)
deriving DecidableEq, Repr

end Sys2Proof.Machine
end

