-- ==== Sys2Proof/Machine/Ops.lean ====
section
/-! DEFINITION. The named operations over the state: registers of complex control space, memory, the path from a bank
offset to an absolute address (R54 to R60), the merging buffer (R201), the machine-check log (R196). -/

namespace Sys2Proof.Machine

/-! ### Registers of complex control space -/

/-- A register's 64 bits. -/
def ccsGet (s : State) (a : Nat) : Word := spGet (regDefault a) s.regs a

/-- The state with a register set by the hardware. -/
def ccsPut (s : State) (a : Nat) (v : Word) : State :=
  { s with regs := spSet (regDefault a) s.regs a v }

/-- The field NAME[hi:lo] of a register. -/
def ccsFld (s : State) (a hi lo : Nat) : Nat := bits (ccsGet s a).toNat hi lo

/-- A word with its field [hi:lo] set. -/
def wordSet (w : Word) (hi lo v : Nat) : Word := BitVec.ofNat 64 (setBits w.toNat hi lo v)

/-- The state with the field NAME[hi:lo] of a register set by the hardware. -/
def ccsSet (s : State) (a hi lo v : Nat) : State := ccsPut s a (wordSet (ccsGet s a) hi lo v)

/-- A saturating counter field increased by n. -/
def ccsAdd (s : State) (a hi lo n : Nat) : State :=
  ccsSet s a hi lo (min (ccsFld s a hi lo + n) (2 ^ (hi + 1 - lo) - 1))

/-- A register as it is in force while a write to it waits for its tick (R59, R211, R223, R289, R290). -/
def inForce (s : State) (a : Nat) : Word :=
  match s.pend.find? (fun p => p.addr == a) with
  | some p => p.was
  | none => ccsGet s a

/-- The field NAME[hi:lo] of a register as it is in force. -/
def forceFld (s : State) (a hi lo : Nat) : Nat := bits (inForce s a).toNat hi lo

/-- A register write that comes into force at a later tick of its own; until then what was written before it stands or comes into
force (R59, R211, R223, R289, R290). -/
def delayWrite (s : State) (a : Nat) (v : Word) (ticks : Nat) : State :=
  { ccsPut s a v with pend := s.pend ++ [{ addr := a, was := ccsGet s a, ticks := ticks }] }

/-- A write that replaces the pending value of its register, and the count starts again (R395). -/
def replaceWrite (s : State) (a : Nat) (v : Word) (ticks : Nat) : State :=
  { ccsPut s a v with
    pend := s.pend.filter (fun p => p.addr != a) ++ [{ addr := a, was := inForce s a, ticks := ticks }] }

/-- The CCS address of an offset in a PU's slot block (R23). -/
def puReg (pu off : Nat) : Nat := 0x0100800000 + (pu / 10) * 0x01000000 + (pu % 10) * 0x10000 + off

/-- The CCS address of an offset in a partition's block (R23). -/
def partReg (p off : Nat) : Nat := 0x20000 + p * 0x1000 + off

/-- The CCS address of an offset in a compute die's block (R23). -/
def dieReg (d off : Nat) : Nat := 0x0100000000 + d * 0x01000000 + off

/-- The CCS address of an offset in a guest port's block; GP0 to GP3 lie on CD0, CD2, CD3 and CD5 (R23). -/
def gpReg (k off : Nat) : Nat :=
  dieReg (match k with | 0 => 0 | 1 => 2 | 2 => 3 | _ => 5) (0xC00000 + off)

/-- A value the spec leaves open. -/
def drawFree (s : State) : Word × State := (Config.free s.fresh, { s with fresh := s.fresh + 1 })

/-- A value of conditioned noise (R382). -/
def drawNoise (s : State) : BitVec 256 × State := (Config.noise s.noiseCnt, { s with noiseCnt := s.noiseCnt + 1 })

/-- A message leaves the module. -/
def send (s : State) (k : SentKind) (args : List Nat) : State := { s with sent := s.sent ++ [⟨k, args⟩] }

/-- The module is sealed (MODCTL), and a partition is (PCTL); partition 0 follows the module. -/
def modSealed (s : State) : Bool := ccsFld s 0x1030 63 63 == 1
def partSealed (s : State) (p : Nat) : Bool :=
  if p = 0 then modSealed s else ccsFld s (partReg p 0) 63 63 == 1

/-! ### The endpoint's messages (R389, R390, R399) -/

/-- Configuration space by doubleword before any write: the header of R390 and the capabilities of R389, laid out as
log entry 5 says. -/
def cfgDefault (i : Nat) : Word :=
  match i with
  | 0x00 => 0x8100B1C7
  | 0x01 => 0x00100000
  | 0x02 => 0xFF000041
  | 0x04 => 0x4
  | 0x06 => 0x4
  | 0x08 => 0x4
  | 0x0B => 0x8100B1C7
  | 0x0D => 0x40
  | 0x10 => 0x00035001
  | 0x14 => 0x00106011
  | 0x15 => 0x804
  | 0x16 => 0xC04
  | 0x11 => 0x8
  | 0x18 => 0x00020010
  | 0x19 => 0x10008002
  | 0x1A => 0x2810
  | 0x1B => 0x45
  | 0x1C => 0x0
  | 0x21 => 0x00030013
  | 0x23 => 0x3E
  | 0x24 => 0x5
  | 0x40 => 0x14020001
  | 0x43 => 0x00462030
  | 0x45 => 0x2000
  | 0x50 => 0x00010003
  | 0x51 => Config.modser &&& 0xFFFFFFFF
  | 0x52 => Config.modser >>> 32
  | _ => 0

def cfgGet (s : State) (i : Nat) : Word := spGet (cfgDefault i) s.ep.cfg i

def cfgPut (s : State) (i : Nat) (v : Word) : State :=
  { s with ep := { s.ep with cfg := spSet (cfgDefault i) s.ep.cfg i v } }

/-- Bus Master Enable. -/
def busMaster (s : State) : Bool := bit (cfgGet s 1).toNat 2

/-- A word of the MSI-X table: a vector's entry is address, then data and control, masked after reset. -/
def msixDefault (i : Nat) : Word := if i % 2 = 1 then 0x100000000 else 0

def msixWord (s : State) (i : Nat) : Word := spGet (msixDefault i) s.ep.table i

/-- Sends an MSI-X message when MSI-X is enabled, neither the function nor the vector is masked, and the function may
master the bus; otherwise sets the pending bit (R401). -/
def msixSend (s : State) (v : Nat) : State :=
  let c := (cfgGet s 0x14).toNat
  let w := (msixWord s (2 * v + 1)).toNat
  if !bit c 31 then s
  else if bit c 30 || bit w 32 || !busMaster s then { s with ep := { s.ep with pba := s.ep.pba ||| 2 ^ v } }
  else send { s with ep := { s.ep with pba := setBits s.ep.pba v v 0 } } .hostWrite [(msixWord s (2 * v)).toNat, w % 2 ^ 32]

/-- A bit of EPATTN set: vector 16 when it passes from 0 to 1 (R399). -/
def attend (s : State) (k : Nat) : State :=
  if ccsFld s 0x0203001018 k k = 1 then s else msixSend (ccsSet s 0x0203001018 k k 1) 16

/-! ### Processing units -/

def State.pu (s : State) (n : Nat) : Pu := spGet Pu.reset s.pus n

def State.setPu (s : State) (n : Nat) (p : Pu) : State := { s with pus := spSet Pu.reset s.pus n p }

def State.modPu (s : State) (n : Nat) (f : Pu → Pu) : State := s.setPu n (f (s.pu n))

/-- A general register (R42). -/
def Pu.reg (p : Pu) (n : Nat) : TWord := spGet uninitWord p.g n

def Pu.setReg (p : Pu) (n : Nat) (w : TWord) : Pu := { p with g := spSet uninitWord p.g n w }

/-- A bank register (R43). -/
def Pu.bank (p : Pu) (n : Nat) : Bank := spGet Bank.empty p.b n

def Pu.setBank (p : Pu) (n : Nat) (b : Bank) : Pu := { p with b := spSet Bank.empty p.b n b }

/-- The reset value of a control register: 0, and all ones for CLKCMP (R48, R416). -/
def ctlDefault (n : Nat) : Word := if n = 12 then 0xFFFFFFFFFFFFFFFF else 0

/-- A control register (R48). -/
def Pu.ctlReg (p : Pu) (n : Nat) : Word := spGet (ctlDefault n) p.ctl n

/-- The bits of a control register that are not reserved (R48 and the layouts it names). -/
def ctlMask : Nat → Word
  | 0 => 0xF
  | 2 => 0xF
  | 4 => 0xF
  | 8 => 0xFFFFFFFFFFFFFFFF
  | 12 => 0xFFFFFFFFFFFFFFFF
  | 14 => 0x000FFFFFFFFFFFFF
  | 16 => 0x800FFFFFFFFFC000
  | 17 => 0x800FFFFFFFFFC000
  | 18 => 0x800FFFFFFFFFC000
  | _ => 0

/-- A write of a control register: reserved fields stay 0 (R10). -/
def Pu.setCtl (p : Pu) (n : Nat) (v : Word) : Pu :=
  { p with ctl := spSet (ctlDefault n) p.ctl n (v &&& ctlMask n) }

/-- The field NAME[hi:lo] of a PSW. -/
def pswFld (w : BitVec 128) (hi lo : Nat) : Nat := bits w.toNat hi lo

def pswSet (w : BitVec 128) (hi lo v : Nat) : BitVec 128 := BitVec.ofNat 128 (setBits w.toNat hi lo v)

def pswPL (w : BitVec 128) : Nat := pswFld w 124 123
def pswPart (w : BitVec 128) : Nat := pswFld w 122 118
def pswT (w : BitVec 128) : Bool := pswFld w 117 117 == 1
def pswTRS (w : BitVec 128) : Nat := pswFld w 116 115
def pswW (w : BitVec 128) : Bool := pswFld w 114 114 == 1
def pswMCM (w : BitVec 128) : Bool := pswFld w 113 113 == 1
def pswIOM (w : BitVec 128) : Bool := pswFld w 112 112 == 1
def pswEXM (w : BitVec 128) : Bool := pswFld w 111 111 == 1
def pswTRP (w : BitVec 128) : Bool := pswFld w 110 110 == 1
def pswCC (w : BitVec 128) : Nat := pswFld w 109 108
def pswIOV (w : BitVec 128) : Bool := pswFld w 107 107 == 1
def pswDOV (w : BitVec 128) : Bool := pswFld w 106 106 == 1
def pswIA (w : BitVec 128) : Nat := pswFld w 63 0

/-- A PSW that keeps R46 for a PU assigned to partition `part`: reserved bits 0, TRS not 0b11, PL 0 exactly when PART is
0, PART 0 or the PU's. -/
def pswValid (w : BitVec 128) (part : Nat) : Bool :=
  pswFld w 127 125 == 0 && pswFld w 105 64 == 0 && pswTRS w != 3
    && ((pswPL w == 0) == (pswPart w == 0)) && (pswPart w == 0 || pswPart w == part)

/-- STATE of a PU (PUSTAT): 0 SPARE, 1 RUN, 2 STOPPED, 3 CHECKSTOP, 4 OFFLINE, 5 TEST. -/
def puState (s : State) (n : Nat) : Nat := ccsFld s (puReg n 0) 63 60

def setPuState (s : State) (n v : Nat) : State := ccsSet s (puReg n 0) 63 60 v

/-- MODE of a PU (PUSTAT): 0 triad, 1 duplex, 2 single. -/
def puMode (s : State) (n : Nat) : Nat := ccsFld s (puReg n 0) 59 58

/-- The partition a PU is assigned to (PUPART, R426). -/
def puPart (s : State) (n : Nat) : Nat := ccsFld s (puReg n 0x50) 4 0

def puLocked (s : State) (n : Nat) : Bool := ccsFld s (puReg n 0xE00) 63 63 == 1

/-- The role whose core is masked until its resync (R179). -/
def Pu.masked (p : Pu) : Option Role :=
  match p.resync with
  | some (.dissent r _ _) => some r
  | _ => none

/-- The PUs assigned to a partition, ascending. -/
def pusOf (s : State) (p : Nat) : List Nat := (List.range 60).filter (fun n => puPart s n == p)

/-! ### Memory -/

/-- A word of memory: data and tag together (R28). -/
def memGet (s : State) (w : Nat) : TWord := spGet uninitWord s.mem w

/-- The canonical form of memory: word numbers strictly rising, and no word listed that holds what an unlisted one reads as. -/
def Memory.wf (m : Sparse TWord) : Bool := spWf (fun _ => uninitWord) m

/-- The byte at an absolute address: byte 0 of a word is its most significant one (00_scope, Notation). -/
def memByte (s : State) (a : Nat) : BitVec 8 := (memGet s (a / 8)).data.extractLsb' (8 * (7 - a % 8)) 8

/-- A word written without the translation buffers noticing: used for the REF and CHG bits (R57). -/
def memPutRaw (s : State) (w : Nat) (v : TWord) : State := { s with mem := spSet uninitWord s.mem w v }

/-- The old value of a word is kept when it could have been a valid table entry: tagged INT with V = 1 (R57). -/
def histAdd (h : List (Nat × Word)) (w : Nat) (old new : TWord) : List (Nat × Word) :=
  if old.tag = tagInt ∧ old.data.msb = true ∧ old ≠ new then h ++ [(w, old.data)] else h

/-- A word of memory written, data and tag together (R28). -/
def memPut (s : State) (w : Nat) (v : TWord) : State :=
  { s with mem := spSet uninitWord s.mem w v, tbHist := histAdd s.tbHist w (memGet s w) v }

/-- The bits that a byte mask covers: bit k of the mask for the byte at word offset k, the most significant first. -/
def maskBits (m : BitVec 8) : Word :=
  (List.range 8).foldl (fun a k => if m.getLsbD k then a ||| ((0xFF : Word) <<< (8 * (7 - k))) else a) 0

/-- The tag a word keeps after a narrow store; none where R37 refuses the store. -/
def narrowTag (t : Tag) : Option Tag :=
  if t = tagUninit then some tagBytes
  else if t = tagInt ∨ t = tagBfp ∨ t = tagDec ∨ t = tagBytes ∨ t = tagPtr then some t
  else none

/-- A word with some bytes replaced. -/
def mergeBytes (old new : Word) (m : BitVec 8) : Word :=
  (old &&& ~~~(maskBits m)) ||| (new &&& maskBits m)

/-- A word after a waiting write; none where R37 refuses it (R202). -/
def applyWrite? (old : TWord) (w : WordWrite) : Option TWord :=
  match w.tag with
  | some t => some ⟨mergeBytes old.data w.data w.mask, t⟩
  | none => (narrowTag old.tag).map (fun t => ⟨mergeBytes old.data w.data w.mask, t⟩)

/-- A word as the storing PU sees it with its write still waiting. -/
def applyWrite (old : TWord) (w : WordWrite) : TWord := (applyWrite? old w).getD old

/-- The word with the writes that wait for it in merging-buffer entries, oldest first (R200). -/
def viewThrough (w : Nat) : List MbEntry → TWord → TWord
  | [], v => v
  | e :: es, v =>
    if e.device then viewThrough w es v
    else if e.phase = MbPhase.waiting ∧ w / 8 * 64 = e.line then
      match spFind e.words (w % 8) with
      | some x => viewThrough w es (applyWrite v x)
      | none => viewThrough w es v
    else viewThrough w es v

/-- The bytes of a store as a write of its word: `len` low bytes of the data placed at the address's byte offset. -/
def wordWrite (a len : Nat) (data : Word) (tag : Option Tag) : WordWrite :=
  let o := a % 8
  { mask := BitVec.ofNat 8 ((2 ^ len - 1) * 2 ^ o), data := data <<< (8 * (8 - o - len)), tag := tag }

/-- The word with the stores of the unit hold (R182), oldest first. -/
def viewHold (w : Nat) : List HeldStore → TWord → TWord
  | [], v => v
  | h :: hs, v =>
    if h.abs / 8 = w then viewHold w hs (applyWrite v (wordWrite h.abs h.len h.data h.tag))
    else viewHold w hs v

/-! ### Where lines are (R197, R230 to R233) -/

/-- The directory entry of a line, by line number (R232). -/
def dirFind (s : State) (line : Nat) : Option DirEnt := spFind s.dir line

/-- DIRSTAT.FAILED of every home (R250). -/
def nodeFailed (s : State) (node : Nat) : Bool := ccsFld s (dieReg 0 0x100000) (38 + node) (38 + node) == 1

/-- The node that owns a line, in O or X. -/
def ownerOf (s : State) (line : Nat) : Option Nat := (dirFind s line).bind (fun e => if e.st = .S then none else some e.owner)

/-- The entry's owner has failed, or counts as failed for it: its data is lost (R249, R250, R297). -/
def DirEnt.dead (s : State) (e : DirEnt) : Bool := e.st != .S && (e.lost || nodeFailed s e.owner)

def ownerLost (s : State) (line : Nat) : Bool := (dirFind s line).any (DirEnt.dead s)

/-- The PUs of a die, ascending. -/
def diePus (d : Nat) : List Nat := (List.range 10).map (fun k => 10 * d + k)

def Pu.l2Line (p : Pu) (line : Nat) : Option L2Line := p.l2.find? (fun l => l.line == line)

/-- The key of a die's line in `l3` and `trk`. -/
def dieKey (d line : Nat) : Nat := d * 2 ^ 46 + line

def l3Get (s : State) (d line : Nat) : Option Moesi := spFind s.l3 (dieKey d line)

/-- The states the caches of a die hold a line in. -/
def dieStates (s : State) (d line : Nat) : List Moesi :=
  (diePus d).filterMap (fun n => ((s.pu n).l2Line line).map (·.state)) ++ (l3Get s d line).toList

def dieHolds (s : State) (d line : Nat) : Bool := !(dieStates s d line).isEmpty

/-- A word as a request that reaches the line's home finds it (R237, R250): the owner's, POISON where the owner has failed, else
memory's. -/
def homeWord (s : State) (w : Nat) : TWord :=
  if ownerLost s (w / 8) then poisonWord
  else if (ownerOf s (w / 8)).isSome then memGet s w
  else (spFind s.dram w).getD (memGet s w)

/-- A word of memory space as a PU's die finds it: in its own caches (R233), else at the home. -/
def dieWord (s : State) (d w : Nat) : TWord := if dieHolds s d (w / 8) then memGet s w else homeWord s w

/-- A word of memory space as a PU sees it: its own waiting stores in front of memory (R200, R182). -/
def puView (s : State) (n w : Nat) : TWord :=
  viewHold w (s.pu n).unitHold (viewThrough w (s.pu n).mb (dieWord s (n / 10) w))

/-! ### Address space (R58 to R60, R210 to R212, R290) -/

def inWindow (a : Nat) : Bool := a / 2 ^ 40 == 0xFFF

def inDevice (a : Nat) : Bool := a / 2 ^ 51 == 1 && !inWindow a

/-- MEMMAP of a die as it is in force: V, GROUP, BASE and DIESIZE. -/
def mapOf (s : State) (d : Nat) : Nat × Nat × Nat × Nat :=
  let w := (inForce s (dieReg d 0x200000)).toNat
  (bits w 63 63, bits w 61 56, bits w 53 32, bits w 10 0)

/-- Number of member dies of a GROUP. -/
def groupSize (g : Nat) : Nat := ((List.range 6).filter (fun k => g.testBit k)).length

/-- The address lies in the active range of a die (R211, R212). -/
def inRange (s : State) (d a : Nat) : Bool :=
  let (_, g, b, z) := mapOf s d
  ccsFld s (dieReg d 0x200008) 63 63 == 1
    && decide (b * 2 ^ 30 ≤ a) && decide (a < (b + groupSize g * z) * 2 ^ 30)

/-- Installed memory at an absolute address (R54 step 9). -/
def installed (s : State) (a : Nat) : Bool :=
  decide (a < 2 ^ 51) && (List.range 6).any (fun d => inRange s d a)

/-- The home die of an installed address (R212). -/
def homeOf (s : State) (a : Nat) : Option Nat :=
  match (List.range 6).find? (fun d => inRange s d a) with
  | none => none
  | some d =>
    let (_, g, b, _) := mapOf s d
    let ms := (List.range 6).filter (fun k => g.testBit k)
    ms[((a - b * 2 ^ 30) / 4096) % ms.length]?

/-- A zone of partition p holds the address (R59): its registers as they are in force. -/
def zoneHas (s : State) (p z a : Nat) : Bool :=
  let o := inForce s (partReg p (0x100 + 16 * z))
  let e := inForce s (partReg p (0x108 + 16 * z))
  bits o.toNat 63 63 == 1 && decide (bits o.toNat 51 20 ≤ a / 2 ^ 20) && decide (a / 2 ^ 20 ≤ bits e.toNat 51 20)

/-- The zone check of a PU running in partition p (R59, R60). -/
def zoneOk (s : State) (p a : Nat) : Bool :=
  p == 0 || (!inWindow a && (List.range 8).any (fun z => zoneHas s p z a))

/-- A write-protected zone of p holds the address (R59); never for partition 0. -/
def zoneWp (s : State) (p a : Nat) : Bool :=
  p != 0 && (List.range 8).any (fun z =>
    zoneHas s p z a && forceFld s (partReg p (0x100 + 16 * z)) 62 62 == 1)

/-- The partition a guest port is bound to (R289); none while unbound. -/
def gpBound (s : State) (k : Nat) : Option Nat :=
  if ccsFld s (gpReg k 0x10) 63 63 = 1 then some (ccsFld s (gpReg k 0x10) 4 0) else none

/-- A window pair of a guest port holds the address: `base` 0x100 inbound, 0x200 outbound (R289, R290). -/
def gpWinHas (s : State) (k base w a : Nat) : Bool :=
  let o := inForce s (gpReg k (base + 16 * w))
  let e := inForce s (gpReg k (base + 8 + 16 * w))
  bits o.toNat 63 63 == 1 && decide (bits o.toNat 51 20 ≤ a / 2 ^ 20) && decide (a / 2 ^ 20 ≤ bits e.toNat 51 20)

/-- The port that serves a device-space address for partition p (R290). -/
def outPort (s : State) (p a : Nat) : Option Nat :=
  (List.range 4).find? (fun k =>
    gpBound s k == some p && (List.range 8).any (fun w => gpWinHas s k 0x200 w a))

/-- The prefix swap (R58). -/
def pfxSwap (s : State) (n r : Nat) : Nat :=
  let p := bits (s.pu n).pfxArea.toNat 51 13 * 8192
  if r < 0x2000 then p + r
  else if p ≤ r ∧ r < p + 0x2000 then r - p
  else r

/-- Device region class of a device-space address for partition p: STRICT or EARLY (R223, R225). -/
def devStrict (s : State) (p a : Nat) : Bool :=
  if inWindow a then true
  else if forceFld s (partReg p 0x480) 16 16 = 1 then false
  else
    let hits := (List.range 8).filter (fun r =>
      forceFld s (partReg p (0x400 + 16 * r)) 63 63 == 1
        && decide (forceFld s (partReg p (0x400 + 16 * r)) 51 20 ≤ a / 2 ^ 20)
        && decide (a / 2 ^ 20 ≤ forceFld s (partReg p (0x408 + 16 * r)) 51 20))
    hits.isEmpty || hits.any (fun r => forceFld s (partReg p (0x400 + 16 * r)) 62 62 == 0)

/-- The device timeout of a partition in shutters (PDEVCTL.DSTO): values 0 to 15 act as 16. -/
def devTimeout (s : State) (p : Nat) : Nat := max 16 (forceFld s (partReg p 0x480) 15 0)

/-! ### Time and the machine-check log (R196) -/

/-- TOD[95:32]. -/
def todMid (s : State) : Word := BitVec.ofNat 64 (bits s.tod 95 32)

/-- SHCOUNT.COUNT. -/
def shCount (s : State) : Nat := ccsFld s 0x50000 63 11

/-- The number a role has in the log and in DISSTRK (R196). -/
def roleNum : Role → Nat
  | .lead => 0
  | .trail2 => 1
  | .trail4 => 2

/-- The core that holds a role (TRIADCFG). -/
def roleCore (s : State) (n : Nat) : Role → Nat
  | .lead => ccsFld s (puReg n 8) 61 56
  | .trail2 => ccsFld s (puReg n 8) 53 48
  | .trail4 => ccsFld s (puReg n 8) 45 40

/-- The top bit of a role's byte in TRIADCFG. -/
def roleTop (r : Role) : Nat := 63 - 8 * roleNum r

/-- A role is filled (TRIADCFG). -/
def roleFilled (s : State) (n : Nat) (r : Role) : Bool := ccsFld s (puReg n 8) (roleTop r) (roleTop r) == 1

/-- A core whose bundle the voters look at: its role filled, not masked, and the lead alone when lock-step is broken. -/
def votes (s : State) (n : Nat) (r : Role) : Bool :=
  roleFilled s n r && decide ((s.pu n).masked ≠ some r) && (puMode s n != 2 || r == .lead)

/-- The three cores of a triad vote: no core is masked. -/
def fullTriad (s : State) (n : Nat) : Bool := puMode s n == 0 && (s.pu n).masked.isNone

/-- Both voters are in service. -/
def votersBoth (s : State) (n : Nat) : Bool := ccsFld s (puReg n 0x30) 63 62 == 0

/-- The voters do not release a bundle with this outcome: it leads to a retake (R178, R179, R188). With lock-step broken the lead's
bundle passes unvoted, and only its own mark, 2 or 4 of R196, holds it back (R193). -/
def votedDown (s : State) (n : Nat) (v : Vote) : Bool :=
  match v with
  | .agree => false
  | .agreeOnly => false
  | .voterDisagree => puMode s n != 2 && votersBoth s n
  | .noMajority _ => puMode s n != 2
  | .dissent r cause _ => votes s n r && !fullTriad s n && (puMode s n != 2 || cause == 2 || cause == 4)

/-- The sequence number after q (R196): 0 is never used. -/
def seqNext (q : Nat) : Nat := if q = 0xFFFFFFFF then 1 else q + 1

/-- Writes one entry of a PU's machine-check log; the entry's number is NEXTSEQ before it. -/
def logEvent (s : State) (n event cause role core : Nat) (ia detail : Word) : State :=
  let q := ccsFld s (puReg n 0x38) 63 32
  let e := puReg n (0x400 + 32 * (q % 32))
  let s := if ccsFld s e 63 32 ≠ 0 then ccsAdd s (puReg n 0x38) 31 16 1 else s
  let w0 := q * 2 ^ 32 + event * 2 ^ 24 + cause * 2 ^ 20 + role * 2 ^ 12 + core
  let s := ccsPut s e (BitVec.ofNat 64 w0)
  let s := ccsPut s (e + 8) (todMid s)
  let s := ccsPut s (e + 16) ia
  let s := ccsPut s (e + 24) detail
  ccsSet s (puReg n 0x38) 63 32 (seqNext q)

/-- The sequence number the next log entry of a PU gets. -/
def nextSeq (s : State) (n : Nat) : Nat := ccsFld s (puReg n 0x38) 63 32

/-- The deferrable machine-check subclasses (R133). -/
inductive McSub where
  | recv
  | degr
  | extd
  | warn
deriving DecidableEq, Repr

/-- Makes a deferrable machine check pending; while one of the subclass is pending the new entry joins it (R196). -/
def mcPend (s : State) (n : Nat) (k : McSub) (seq : Nat) : State :=
  s.modPu n (fun p =>
    match k with
    | .recv => { p with mcRecv := some (p.mcRecv.getD seq) }
    | .degr => { p with mcDegr := some (p.mcDegr.getD seq) }
    | .extd => { p with mcExt := some (p.mcExt.getD seq) }
    | .warn => { p with mcWarn := some (p.mcWarn.getD seq) })

/-- Logs an event and makes its deferrable subclass pending. -/
def logPend (s : State) (n event cause role core : Nat) (ia detail : Word) (k : McSub) : State :=
  mcPend (logEvent s n event cause role core ia detail) n k (nextSeq s n)

/-- An event from outside the triad (EVENT 0x10 to 0x18): CAUSE 9, ROLE 3, CORE 0. -/
def logOutside (s : State) (n event : Nat) (detail : Word) (k : McSub) : State :=
  logPend s n event 9 3 0 (BitVec.ofNat 64 (pswIA (s.pu n).psw)) detail k

/-! ### The merging buffer (R201) -/

/-- A store on its way into the merging buffer. -/
structure Store where
  abs  : Nat
  va   : Nat
  len  : Nat
  data : Word
  tag  : Option Tag
  device : Bool
  strict : Bool
  part   : Nat
deriving DecidableEq, Repr

/-- Merges a write of a word into one already waiting for it. -/
def mergeWrite (old new : WordWrite) : WordWrite :=
  { mask := old.mask ||| new.mask
    data := mergeBytes old.data new.data new.mask
    tag := match new.tag with
      | some t => some t
      | none => old.tag.map (fun t => (narrowTag t).getD t) }

/-- A store placed in the buffer: merged into the youngest entry when both line addresses match and it is still
waiting, otherwise in a new entry; none when all 16 entries are taken. -/
def mbPush (b : List MbEntry) (st : Store) : Option (List MbEntry) :=
  let w := st.abs / 8 % 8
  let new := wordWrite st.abs st.len st.data st.tag
  let fresh : MbEntry :=
    if st.device then
      { device := true, strict := st.strict, line := st.abs, vline := st.va, len := st.len,
        words := [(w, new)], phase := .waiting, part := st.part }
    else
      { device := false, strict := false, line := st.abs / 64 * 64, vline := st.va / 64 * 64, len := 64,
        words := [(w, new)], phase := .waiting, part := 0 }
  let grow := if b.length < 16 then some (b ++ [fresh]) else none
  match b.getLast? with
  | none => grow
  | some y =>
    if !st.device && !y.device && decide (y.phase = .waiting) && y.line == fresh.line && y.vline == fresh.vline then
      let merged := match spFind y.words w with
        | some o => mergeWrite o new
        | none => new
      some (b.dropLast ++ [{ y with words := spPut y.words w (some merged) }])
    else grow

def mbPushAll : List MbEntry → List Store → Option (List MbEntry)
  | b, [] => some b
  | b, st :: sts => (mbPush b st).bind (fun b' => mbPushAll b' sts)

/-- A lost record's code. -/
def MbPhase.lostCode : MbPhase → Option Nat
  | .lost c => some c
  | _ => none

/-- The earliest lost record with its code and virtual address (R227). -/
def firstLost (b : List MbEntry) : Option (Nat × Nat) :=
  b.findSome? (fun e => e.phase.lostCode.map (fun c => (c, e.vline)))

/-- The buffer without its earliest lost record. -/
def dropLost : List MbEntry → List MbEntry
  | [] => []
  | e :: es => if e.phase.lostCode.isSome then es else e :: dropLost es

/-- Every entry is held by a lost record. -/
def allLost (b : List MbEntry) : Bool := b.all (fun e => e.phase.lostCode.isSome)

/-- A STRICT device store is not yet performed: no later access is performed before it (R224). -/
def strictPending (b : List MbEntry) : Bool :=
  b.any (fun e => e.device && e.strict && e.phase.lostCode.isNone)

/-- A device store is still in the buffer: a device load waits behind it (R224). -/
def devicePending (b : List MbEntry) : Bool :=
  b.any (fun e => e.device && decide (e.phase = .waiting))

/-- Stores that are neither performed nor lost, those of the unit hold among them. -/
def storesPending (p : Pu) : Bool := !p.unitHold.isEmpty || p.mb.any (fun e => e.phase.lostCode.isNone)

/-- Stores not yet performed for SYNCS, where port acceptance performs a device store (R220). -/
def storesWaiting (p : Pu) : Bool := !p.unitHold.isEmpty || p.mb.any (fun e => decide (e.phase = .waiting))

/-- A store of the unit hold as it enters the merging buffer (R182). -/
def HeldStore.store (h : HeldStore) : Store :=
  { abs := h.abs, va := h.va, len := h.len, data := h.data, tag := h.tag, device := false, strict := false, part := 0 }

/-- Moves stores of the unit hold into the merging buffer, in order, while it has room. -/
def drainHold : List MbEntry → List HeldStore → List MbEntry × List HeldStore
  | b, [] => (b, [])
  | b, h :: hs =>
    match mbPush b h.store with
    | some b' => drainHold b' hs
    | none => (b, h :: hs)

def Pu.drain (p : Pu) : Pu :=
  { p with mb := (drainHold p.mb p.unitHold).1, unitHold := (drainHold p.mb p.unitHold).2 }

/-- Stores placed in the buffer behind the unit hold; none when there is no room yet. -/
def Pu.push (p : Pu) (sts : List Store) : Option (List MbEntry) :=
  if sts.isEmpty then some p.mb else if p.unitHold.isEmpty then mbPushAll p.mb sts else none

/-! ### Instructions: outcomes of their checks -/

/-- How an instruction stops short: with a program exception, because something it waits for has not come yet, or because the
voters do not release the bundle of a request (R175). -/
inductive Stop where
  | exc (e : Exc)
  | wait
  | unvoted
deriving DecidableEq, Repr

/-- The checks and effects of one instruction. A stop keeps the state reached, which up to the last check differs from
the first only in REF and CHG bits and requests already sent (R57). -/
abbrev M := EStateM Stop State

/-- What is known of an instruction once it is decoded. -/
structure Ctx where
  pu     : Nat
  ia     : Nat
  len    : Nat
  relax  : Bool
  narrow : Bool
  atomic : Bool
  bank   : Option Nat
  /-- The vote on the command's first bundle. -/
  vote   : Vote
deriving DecidableEq, Repr

/-- A program exception of an instruction, its old PSW addressing the instruction (R140). -/
def Ctx.exc (c : Ctx) (code fail slot unit acc : Nat) : Exc :=
  { cls := 1, code := code, fail := BitVec.ofNat 64 fail, ia := BitVec.ofNat 64 c.ia, ilen := c.len,
    slot := slot, unit := unit, acc := acc, param := 0 }

def Ctx.raise {α : Type} (c : Ctx) (code fail slot unit acc : Nat) : M α := throw (.exc (c.exc code fail slot unit acc))

/-- An exception of the instruction as a whole: the failing address is the instruction's, ACC 6 (R140). -/
def Ctx.fail {α : Type} (c : Ctx) (code : Nat) (slot : Nat := 0) (unit : Nat := 0) : M α := c.raise code c.ia slot unit 6

def waitFor {α : Type} : M α := throw .wait

/-- Raises unless the condition holds. -/
def guardM (b : Bool) (k : M Unit) : M Unit := if b then pure () else k

/-- A guest's caching agent owns the line alone, and may hold it newer than the module knows. -/
def guestOwns (s : State) (line : Nat) : Bool :=
  match dirFind s line with
  | some e => e.st == .X && decide (6 ≤ e.owner) && !e.dead s
  | none => false

/-- Who holds the credit of a request: a die, the I/O die, or a guest port (R242). -/
def creditHolder : Requester → Nat
  | .pu n => n.val / 10
  | .guest k => 7 + k.val
  | .other => 6

/-- The requests a home holds, waiting or open. -/
def homeLoad (s : State) (h : Nat) : List HomeReq :=
  (s.homeQ ++ (s.txns.map (·.req)).filter (fun r => r.op != .evict && r.op != .recover)).filter
    (fun r => homeOf s (64 * r.line) == some h)

/-- The holder has a credit for the home (R242). -/
def creditLeft (s : State) (h holder : Nat) : Bool :=
  decide (((homeLoad s h).filter (fun r => creditHolder r.who == holder)).length < if holder ≤ 6 then 512 else 128)

/-- The miss registers of a PU's L2 in use, one for each line it waits for (R203). -/
def missRegs (s : State) (n : Nat) : Nat :=
  ((s.atNode ++ s.homeQ ++ (s.txns.filter (fun t => !t.done)).map (·.req)).filter
    (fun r => match r.who with | .pu m => m.val == n | _ => false)).length
  + (s.cmps.filter (fun c => match c.who with | .pu m => m.val == n | _ => false)).length

/-- A PU's L2 can send a request for a line: one of its 48 miss registers and a credit of its die for the home are free
(R203, R242). -/
def canAsk (s : State) (n line : Nat) : Bool :=
  decide (missRegs s n < 48) && (match homeOf s (64 * line) with | some h => creditLeft s h (n / 10) | none => true)

/-- A PU may read a line at once: its die holds it, or its request can be sent and no guest's agent is the owner, which the home
would snoop first (R233, R236). -/
def mayRead (s : State) (n line : Nat) : Bool :=
  dieHolds s (n / 10) line
    || (canAsk s n line && (ownerLost s line || !(ownerOf s line).any (fun o => decide (6 ≤ o))))

/-- The instruction in progress reads a line: its L2 and L1I (`fetch`) or L1D will hold it (R197, R198). -/
def touch (n : Nat) (fetch : Bool) (line : Nat) : M Unit :=
  modify (fun s => s.modPu n (fun p => { p with touched := p.touched ++ [(fetch, line)] }))

/-- The line of an access is read, or waited for. -/
def needLine (n a : Nat) : M Unit := do
  let s ← get
  guardM (mayRead s n (a / 64)) waitFor
  touch n false (a / 64)

/-! ### From bank offset to absolute address -/

/-- The kind of an access being checked (ACC of R136). -/
inductive Kind where
  | fetch
  | load
  | store
  | rmw
  | rload
  | rstore
deriving DecidableEq, Repr

def Kind.acc : Kind → Nat
  | .fetch => 0
  | .load => 1
  | .store => 2
  | .rmw => 3
  | .rload => 5
  | .rstore => 5

def Kind.stores : Kind → Bool
  | .store => true
  | .rmw => true
  | .rstore => true
  | _ => false

def Kind.returnStack : Kind → Bool
  | .rload => true
  | .rstore => true
  | _ => false

/-- The value a walk uses for a table entry: memory as the PU sees it, or any value the word held since the PU's last
purge; which one is free (R57). -/
def tbPick (s : State) (n a : Nat) (now : TWord) : TWord × State :=
  let old := ((s.tbHist.drop (s.pu n).tbMark).filter (fun e => e.1 == a / 8)).map (fun e => e.2)
  if old.isEmpty then (now, s)
  else
    let i := Config.tbChoice s.fresh % (old.length + 1)
    (match old[i]? with | some d => intWord d | none => now, { s with fresh := s.fresh + 1 })

/-- Reads one table entry at a real address: its absolute address and its data, or the exception of R56. -/
def tableRead (c : Ctx) (slot unit : Nat) (k : Kind) (va real : Nat) : M (Nat × Nat) := do
  let s ← get
  let a := pfxSwap s c.pu real
  guardM (zoneOk s (pswPart (s.pu c.pu).psw) a) (c.raise 0x0030 a slot unit 4)
  guardM (installed s a) (c.raise 0x0031 a slot unit 4)
  if strictPending (s.pu c.pu).mb then waitFor
  needLine c.pu a
  let s ← get
  let (w, s') := tbPick s c.pu a (puView s c.pu (a / 8))
  set s'
  guardM (decide (w.tag ≠ tagPoison)) (c.raise 0x0012 a slot unit 4)
  guardM (decide (w.tag = tagInt)) (c.raise 0x0029 va slot unit k.acc)
  guardM (bit w.data.toNat 63) (c.raise 0x0028 va slot unit k.acc)
  pure (a, w.data.toNat)

/-- The leaf of a walk: entry address, entry, frame base, page size, and the OR of NX, RO and SUP along it. -/
structure Leaf where
  entry : Nat
  frame : Nat
  size  : Nat
  nx    : Bool
  ro    : Bool
  sup   : Bool
  ptype : Nat
deriving DecidableEq, Repr

/-- The checks of a non-leaf entry (R56): reserved fields 0 and ORIGIN aligned to 2^al. -/
def tableOk (e al : Nat) : Bool := bits e 59 52 == 0 && bits e 10 9 == 0 && bits e 51 0 / 2 ^ 11 * 2 ^ 11 % 2 ^ al == 0

/-- The checks of a leaf entry (R56); `large` for a 1 MiB page. -/
def leafOk (e al : Nat) (large : Bool) : Bool :=
  bits e 56 52 == 0 && (large || bits e 59 59 == 0) && bits e 58 58 == 0
    && bits e 51 0 / 2 ^ 11 * 2 ^ 11 % 2 ^ al == 0

def entryOrigin (e : Nat) : Nat := bits e 51 11 * 2 ^ 11

/-- The four-level walk (R55, R56). -/
def walk (c : Ctx) (slot unit : Nat) (k : Kind) (root va : Nat) : M Leaf := do
  let s ← get
  let r := ((s.pu c.pu).ctlReg (16 + root)).toNat
  let bad : M Unit := c.raise 0x0029 va slot unit k.acc
  guardM (bit r 63) (c.raise 0x0028 va slot unit k.acc)
  let (_, e1) ← tableRead c slot unit k va (bits r 51 14 * 2 ^ 14 + 8 * bits va 51 41)
  guardM (tableOk e1 14) bad
  let (_, e2) ← tableRead c slot unit k va (entryOrigin e1 + 8 * bits va 40 30)
  guardM (tableOk e2 13) bad
  let (a3, e3) ← tableRead c slot unit k va (entryOrigin e2 + 8 * bits va 29 20)
  if bit e3 59 then
    guardM (leafOk e3 20 true) bad
    pure { entry := a3, frame := entryOrigin e3, size := 2 ^ 20, nx := bit e1 62 || bit e2 62 || bit e3 62,
           ro := bit e1 61 || bit e2 61 || bit e3 61, sup := bit e1 60 || bit e2 60 || bit e3 60,
           ptype := bits e3 58 57 }
  else
    guardM (tableOk e3 11) bad
    let (a4, e4) ← tableRead c slot unit k va (entryOrigin e3 + 8 * bits va 19 12)
    guardM (leafOk e4 12 false) bad
    pure { entry := a4, frame := entryOrigin e4, size := 2 ^ 12,
           nx := bit e1 62 || bit e2 62 || bit e3 62 || bit e4 62,
           ro := bit e1 61 || bit e2 61 || bit e3 61 || bit e4 61,
           sup := bit e1 60 || bit e2 60 || bit e3 60 || bit e4 60, ptype := bits e4 58 57 }

/-- The real address lies in the RSREAL range (R52). -/
def inRsReal (p : Pu) (r : Nat) : Bool :=
  let w := (p.ctlReg 14).toNat
  decide (bits w 51 12 ≤ r / 4096) && decide (r / 4096 < bits w 51 12 + bits w 11 0)

/-- REF, and CHG for a store, set on a leaf entry by an atomic OR (R57). -/
def setRefChg (s : State) (entry : Nat) (chg : Bool) : State :=
  let w := memGet s (entry / 8)
  memPutRaw s (entry / 8) { w with data := w.data ||| (if chg then 0x600 else 0x400) }

/-- The address space an access may reach besides memory (R60, R222). -/
inductive Reach where
  | memory
  | device
  | window
deriving DecidableEq, Repr

/-- Steps 6 to 9 of R54 for the bytes at a virtual address: the absolute address, and the leaf entry passed. -/
def translate (c : Ctx) (slot unit : Nat) (k : Kind) (root va len : Nat) (reach : Reach) : M (Nat × Option Nat) := do
  let s ← get
  let p := s.pu c.pu
  let psw := p.psw
  let leaf ← (if pswT psw then do
      let l ← walk c slot unit k root va
      guardM (!(k == .fetch && l.nx)) (c.raise 0x002A va slot unit k.acc)
      guardM (!(k.stores && l.ro)) (c.raise 0x002B va slot unit k.acc)
      guardM (!(pswPL psw == 3 && l.sup)) (c.raise 0x002C va slot unit k.acc)
      guardM (k.returnStack == (l.ptype == 1)) (c.raise 0x002D va slot unit k.acc)
      pure (some l)
    else do
      guardM (k.returnStack == inRsReal p va) (c.raise 0x002D va slot unit k.acc)
      pure none)
  let s ← get
  let real := match leaf with | some l => l.frame + va % l.size | none => va % 2 ^ 52
  let a := pfxSwap s c.pu real
  let part := pswPart psw
  guardM (zoneOk s part a) (c.raise 0x0030 va slot unit k.acc)
  guardM (!(k.stores && zoneWp s part a)) (c.raise 0x002B va slot unit k.acc)
  guardM (if inWindow a then reach == .window && len == 8 && a % 8 == 0 && (regAt (a % 2 ^ 40)).isSome
          else if inDevice a then reach != .memory && (outPort s part a).isSome
          else installed s a) (c.raise 0x0031 va slot unit k.acc)
  pure (a, leaf.map (fun l => l.entry))

/-- REF, and CHG for a store, once an access has passed steps 1 to 9 (R57). -/
def markLeaf (k : Kind) : Option Nat → M Unit
  | some e => modify (fun s => setRefChg s e k.stores)
  | none => pure ()

/-- Steps 6 to 9 of R54 for the bytes at a virtual address, with REF and CHG: the absolute address. -/
def xlate (c : Ctx) (slot unit : Nat) (k : Kind) (root va len : Nat) (reach : Reach) : M Nat := do
  let (a, e) ← translate c slot unit k root va len reach
  markLeaf k e
  pure a

/-- The root of operands that no bank names: the one PSW.TRS selects (R47). -/
def pswRoot (s : State) (n : Nat) : Nat := pswTRS (s.pu n).psw

/-- The attribute word's fields (R43). -/
def attrLimit (w : Word) : Nat := bits w.toNat 63 32
def attrRoot (w : Word) : Nat := bits w.toNat 9 8
def attrMinPL (w : Word) : Nat := bits w.toNat 7 6
def attrPolicy (w : Word) : Nat := bits w.toNat 5 4

/-- A valid attribute word (R43): reserved fields 0, ROOT and POLICY not 0b11. -/
def attrValid (w : Word) : Bool :=
  bits w.toNat 31 10 == 0 && bits w.toNat 3 3 == 0 && attrRoot w != 3 && attrPolicy w != 3

/-- The rights an access needs of its bank (R54 step 3). -/
inductive Right where
  | r
  | w
  | rw
  | x
deriving DecidableEq, Repr

def Right.held (k : Right) (a : Word) : Bool :=
  match k with
  | .r => bit a.toNat 2
  | .w => bit a.toNat 1
  | .rw => bit a.toNat 2 && bit a.toNat 1
  | .x => bit a.toNat 0

/-- Steps 1 to 5 of R54 for `len` bytes at an exact offset of a bank: the virtual address and the root. Step 5 holds for every byte: a
misaligned operand that begins below 2^52 and ends beyond it raises 0x0024 (log entry 135). -/
def bankAddr (c : Ctx) (slot bank off len acc : Nat) (need : Right) : M (Nat × Nat) := do
  let s ← get
  let p := s.pu c.pu
  let b := p.bank bank
  let at' := b.attr.data
  let bad (code : Nat) (f : Nat) : M Unit := c.raise code f slot bank acc
  guardM (decide (b.base.tag = tagDesc) && decide (b.attr.tag = tagDesc) && attrValid at') (bad 0x0020 off)
  guardM (decide (pswPL p.psw ≤ attrMinPL at')) (bad 0x0021 off)
  guardM (need.held at' && (need != .x || attrRoot at' == 0 || attrRoot at' == pswTRS p.psw)) (bad 0x0022 off)
  guardM (decide (off + len ≤ attrLimit at' + 1)) (bad 0x0023 (max off (attrLimit at' + 1)))
  let va := b.base.data.toNat + off
  guardM (decide (va + len ≤ 2 ^ 52)) (bad 0x0024 (max va (2 ^ 52)))
  pure (va, if attrRoot at' = 0 then pswTRS p.psw else attrRoot at')

/-- The POLICY of a bank (R44). -/
def bankPolicy (s : State) (n bank : Nat) : Nat := attrPolicy ((s.pu n).bank bank).attr.data

/-- A word of this tag may be loaded through a bank of this POLICY. -/
def policyLoad (pol : Nat) (t : Tag) : Bool :=
  pol != 2 || [tagUninit, tagInt, tagBfp, tagDec, tagBytes].contains t

/-- A word of this tag may be stored through a bank of this POLICY. -/
def policyStore (pol : Nat) (t : Tag) : Bool :=
  policyLoad pol t && !(pol == 1 && [tagPtr, tagDesc, tagCode].contains t)

end Sys2Proof.Machine
end

