-- ==== Sys2Proof/Machine/Lines.lean ====
section
/-! DEFINITION. The lines that caches hold (R197 to R208, R230 to R242): L1s, L2s, L3s, die trackers, directories. `mem` holds the
newest value of every word and `dram` what DRAM still holds where that differs, so what is kept here is where lines are and under
which permission. -/

namespace Sys2Proof.Machine

/-! ### DRAM -/

/-- A word written by a cache that owns its line: DRAM keeps what it held until the line is written back (R231, R237). -/
def cachePut (s : State) (w : Nat) (v : TWord) : State :=
  let t := memPut s w v
  if (spFind s.dram w).isNone && decide (memGet s w ≠ v) then { t with dram := spPut t.dram w (some (memGet s w)) } else t

/-- The line is written to memory. -/
def memWritten (s : State) (line : Nat) : State := { s with dram := s.dram.filter (fun e => e.1 / 8 != line) }

/-- The last good copy of a line is gone unwritten: what DRAM holds of it stands (R214). -/
def memFalls (s : State) (line : Nat) : State :=
  memWritten ((s.dram.filter (fun e => e.1 / 8 == line)).foldl (fun s e => memPut s e.1 e.2) s) line

/-- A line becomes POISON in every word (R214, R249). -/
def poisonLine (s : State) (line : Nat) : State :=
  memWritten ((List.range 8).foldl (fun s i => memPut s (8 * line + i) poisonWord) s) line

/-! ### Directories -/

/-- A directory entry written, as the most recently used; none frees it. -/
def setDir (s : State) (line : Nat) (e : Option DirEnt) : State :=
  { s with dir := spPut s.dir line (e.map (fun e => { e with used := s.dirClock })), dirClock := s.dirClock + 1 }

/-- The nodes of an entry's vector that have not failed: a failed node holds nothing (R250). -/
def vecNodes (s : State) (e : DirEnt) : List Nat := (List.range 10).filter (fun k => bit e.vec k && !nodeFailed s k)

/-- A guest's caching agent may hold the line. -/
def guestHolds (s : State) (line : Nat) : Bool :=
  match dirFind s line with
  | some e => (vecNodes s e).any (fun k => decide (6 ≤ k))
  | none => false

/-- The line has an open transaction (R236). -/
def lineOpen (s : State) (line : Nat) : Bool := s.txns.any (fun t => t.req.line == line)

/-- A set's index: A[23:6] XOR A[41:24]. -/
def dirSet (line : Nat) : Nat := bits line 17 0 ^^^ bits line 35 18

/-- The home of a line, and a set of its directory, hold another line too. -/
def sameSet (s : State) (a b : Nat) : Bool := dirSet a == dirSet b && homeOf s (64 * a) == homeOf s (64 * b)

/-- The entries of a line's directory set. -/
def setEntries (s : State) (line : Nat) : List (Nat × DirEnt) := s.dir.filter (fun e => sameSet s e.1 line)

/-- The least recently used of some entries. -/
def leastUsed : List (Nat × DirEnt) → Option Nat
  | [] => none
  | e :: es => some (es.foldl (fun (b : Nat × DirEnt) x => if x.2.used < b.2.used then x else b) e).1

/-- The ways of a set in use: its entries, and the open transactions of lines that have none (R232, R240). -/
def waysUsed (s : State) (line : Nat) : Nat :=
  (setEntries s line).length
    + (s.txns.filter (fun t => (dirFind s t.req.line).isNone && sameSet s t.req.line line)).length

/-- What keeps a request from being taken up. -/
inductive Room where
  | take
  | evict (victim : Nat)
  | wait
deriving DecidableEq, Repr

/-- A request with no entry of its own needs a way (R240, R241). -/
def roomFor (s : State) (line : Nat) : Room :=
  if (dirFind s line).isSome || decide (waysUsed s line < 16) then .take
  else if s.txns.any (fun t => t.req.op == .evict && sameSet s t.req.line line) then .wait
  else match leastUsed ((setEntries s line).filter (fun e => !lineOpen s e.1)) with
    | some v => .evict v
    | none => .wait

/-- An older request waits at the home for the line or its set (R240). -/
def homeWaits (s : State) (line : Nat) : Bool := s.homeQ.any (fun o => o.line == line || sameSet s o.line line)

/-! ### L2 and L1 -/

/-- L2LOCK.WAYS. -/
def lockedWays (s : State) (n : Nat) : Nat := ccsFld s (puReg n 0x1008) 31 16

def l2Set (line : Nat) : Nat := line % 4096

/-- STATE of L2CTL is enabled. -/
def l2On (s : State) (n : Nat) : Bool := ccsFld s (puReg n 0x1000) 63 62 == 0

/-- The L1s of the cores hold a line no more (R198). -/
def Pu.l1Drop (p : Pu) (line : Nat) : Pu :=
  { p with l1i := p.l1i.filter (· != line), l1d := p.l1d.filter (· != line) }

/-- The L1s hold no lines (R180, R207). -/
def Pu.l1Clear (p : Pu) : Pu := { p with l1i := [], l1d := [] }

/-- A line brought into an L1 of 128 sets of 8 ways (R197); which line of a full set gives way is left open. -/
def l1Add (l1 : List Nat) (line : Nat) : List Nat :=
  if l1.contains line then l1
  else
    let set := l1.filter (fun x => x % 128 == line % 128)
    let victim := if set.length < 8 then none else set[Config.victim set % set.length]?
    line :: (match victim with | some v => l1.filter (· != v) | none => l1)

/-- One contention event of a line (R244): its counter rises, or an entry is allocated in place of the least recently
used. -/
def predUp (p : Pu) (line : Nat) : Pu :=
  match p.pred.find? (fun e => e.line == line) with
  | some e => { p with pred := { e with count := min 3 (e.count + 1) } :: p.pred.filter (fun x => x.line != line) }
  | none => { p with pred := ({ line := line, count := 1 } :: p.pred).take 32 }

/-- A PU's mark of a near atomic on a line goes, as a contention event or as none. -/
def Pu.snooped (p : Pu) (line : Nat) (counts : Bool) : Pu :=
  let q := { p with near := p.near.filter (fun x => x.line != line) }
  if counts then predUp q line else q

/-- A snoop takes a line away (R244): within 4,096 core cycles, the length of a shutter, after a near atomic it is a contention
event. That is so before the first tick after the atomic; between the first and the second it is left open which. -/
def snoopTakes (s : State) (n line : Nat) : State :=
  match (s.pu n).near.find? (fun m => m.line == line) with
  | none => s
  | some m =>
    if m.ticks = 0 then s.modPu n (fun p => p.snooped line true)
    else
      let (w, s) := drawFree s
      s.modPu n (fun p => p.snooped line (bit w.toNat 0))

/-- A line leaves an L2, and with it the L1s (R198); a locked way stays locked and is marked reserved (R206). -/
def Pu.l2Drop (p : Pu) (line way : Nat) (locked : Bool) : Pu :=
  { (p.l1Drop line) with l2 := p.l2.filter (fun x => x.line != line)
                         l2resv := if locked then p.l2resv ++ [(l2Set line, way)] else p.l2resv }

/-- An L2 invalidates a line; one that a snoop takes away counts for the predictor. -/
def l2Inval (s : State) (n line : Nat) (snoop : Bool) : State :=
  match (s.pu n).l2Line line with
  | none => s
  | some l =>
    let s := s.modPu n (fun p => p.l2Drop line l.way (bit (lockedWays s n) l.way))
    if snoop then snoopTakes s n line else s

def l2SetState (s : State) (n line : Nat) (st : Moesi) : State :=
  s.modPu n (fun p => { p with l2 := p.l2.map (fun l => if l.line = line then { l with state := st } else l) })

/-! ### Dies -/

/-- The set of a line in the L3 and the die tracker (R197): A[21:6] XOR A[37:22]. -/
def l3Set (line : Nat) : Nat := bits line 15 0 ^^^ bits line 31 16

/-- A key of `l3` or `trk` lies in the set of a line on a die. -/
def inL3Set (d line : Nat) (key : Nat) : Bool := key / 2 ^ 46 == d && l3Set (key % 2 ^ 46) == l3Set line

def l3Put (s : State) (d line : Nat) (m : Option Moesi) : State := { s with l3 := spPut s.l3 (dieKey d line) m }

def trkPut (s : State) (d line : Nat) (m : Option Moesi) : State :=
  { s with trk := spPut s.trk (dieKey d line) (m.map (fun m => { st := m, used := s.dirClock })), dirClock := s.dirClock + 1 }

/-- A use of a line by its die: the tracker's entry is the most recently used. -/
def trkUse (s : State) (d line : Nat) : State :=
  match spFind s.trk (dieKey d line) with
  | some e => trkPut s d line (some e.st)
  | none => s

/-- Some cache of the die holds the line newer than memory (R231). -/
def dieDirty (s : State) (d line : Nat) : Bool := (dieStates s d line).any (fun m => m == .M || m == .O)

/-- A die invalidates a line in every L2 and in the L3, because a snoop takes it or on its own account. -/
def dieInval (s : State) (d line : Nat) (snoop : Bool) : State :=
  let s := (diePus d).foldl (fun s n => l2Inval s n line snoop) s
  trkPut (l3Put s d line none) d line none

/-- What a copy becomes that is shared: M passes to O, E to S. -/
def Moesi.shared : Moesi → Moesi
  | .M => .O
  | .E => .S
  | m => m

def l2Lower (s : State) (n line : Nat) : State :=
  match (s.pu n).l2Line line with
  | some l => l2SetState s n line l.state.shared
  | none => s

/-- A die keeps a shared copy. -/
def dieShare (s : State) (d line : Nat) : State :=
  let s := (diePus d).foldl (fun s n => l2Lower s n line) s
  let s := l3Put s d line ((l3Get s d line).map Moesi.shared)
  if dieHolds s d line then trkPut s d line (some (if dieDirty s d line then .O else .S)) else s

/-- A directory entry is freed: memory is what there is of the line. -/
def dirFree (s : State) (line : Nat) : State := setDir (memFalls s line) line none

/-- A node is gone from a line's entry (R237): a WB frees X, and O when no other node is left, and its data is in memory; an EVC
frees X. A node that held S drops the line silently. -/
def nodeGone (s : State) (node line : Nat) (dirty : Bool) : State :=
  match dirFind s line with
  | none => s
  | some e =>
    if e.owner ≠ node ∨ e.st = .S then s
    else
      let s := if dirty then memWritten s line else s
      let v := setBits e.vec node node 0
      if e.st = .X ∨ v = 0 then dirFree s line else setDir s line (some { e with st := .S, owner := 0, vec := v })

/-- After a cache of a die dropped a line, its copy dirty or not: the last one reports the departure (R233). -/
def dieLeft (s : State) (d line : Nat) (dirty : Bool) : State :=
  if dieHolds s d line then s else nodeGone (trkPut s d line none) d line dirty

/-- A die gives up a line in every cache and reports its departure (R233). -/
def dieDrop (s : State) (d line : Nat) : State := nodeGone (dieInval s d line false) d line (dieDirty s d line)

/-- The L3 gives up a line's data: an L2 that still holds the line becomes the owner of a dirty one (log entry 125). -/
def l3Evict (s : State) (d line : Nat) : State :=
  let dirty := (l3Get s d line).any (fun m => m == .M || m == .O)
  let s := l3Put s d line none
  match (diePus d).find? (fun n => ((s.pu n).l2Line line).isSome) with
  | some n => if dirty then l2SetState s n line .O else s
  | none => dieLeft s d line dirty

/-- A line placed in an L3 data way (R197): of a full set of 24 ways one line gives way, which one is left open. -/
def l3Add (s : State) (d line : Nat) (st : Moesi) : State :=
  let set := (s.l3.filter (fun e => inL3Set d line e.1)).map (fun e => e.1 % 2 ^ 46)
  let s := if (l3Get s d line).isSome || decide (set.length < 24) then s
    else match set[Config.victim set % set.length]? with
      | some v => l3Evict s d v
      | none => s
  l3Put s d line (some st)

/-- An L2 gives up a line: a dirty one goes to the L3 while other caches of the die hold it. -/
def l2Evict (s : State) (n line : Nat) : State :=
  let d := n / 10
  match (s.pu n).l2Line line with
  | none => s
  | some l =>
    let dirty := l.state == .M || l.state == .O
    let t := l2Inval s n line false
    if dieHolds t d line && dirty then l3Add t d line .O else dieLeft t d line dirty

/-- A PU waits for a line: the line's transfers are in progress there. -/
def expects (s : State) (n line : Nat) : Bool :=
  let mine (r : HomeReq) : Bool := r.line == line && (match r.who with | .pu m => m.val == n | _ => false)
  s.atNode.any mine || s.homeQ.any mine || s.txns.any (fun t => mine t.req)
    || s.cmps.any (fun c => c.line == line && (match c.who with | .pu m => m.val == n | _ => false))

/-- What a full tracker set gives up for a line (R233): nothing where the line has an entry or a way is free, else the least recently
used entry that no PU of the die waits for; none where there is no such entry. -/
def trkVictim (s : State) (d line : Nat) : Option (Option Nat) :=
  let set := s.trk.filter (fun e => inL3Set d line e.1)
  if (spFind s.trk (dieKey d line)).isSome || decide (set.length < 36) then some none
  else
    match set.filter (fun e => !(diePus d).any (fun n => expects s n (e.1 % 2 ^ 46))) with
    | [] => none
    | e :: es => some (some ((es.foldl (fun (b : Nat × TrkEnt) x => if x.2.used < b.2.used then x else b) e).1 % 2 ^ 46))

/-- Room in the die tracker for a line. -/
def trkRoom (s : State) (d line : Nat) : State :=
  match trkVictim s d line with
  | some (some v) => dieDrop s d v
  | _ => s

/-- The way a fill of an L2 takes (R206): the lowest reserved way of its set, else a free way, else the least recently used
way that is neither locked nor reserved and whose line has no transfer in progress. The line there gives way. -/
def fillWay (s : State) (n line : Nat) : Option (Nat × Option Nat) :=
  let p := s.pu n
  let set := l2Set line
  let resv := (List.range 16).filter (fun w => p.l2resv.contains (set, w))
  let used := p.l2.filter (fun l => l2Set l.line == set)
  let open' := (List.range 16).filter (fun w => !bit (lockedWays s n) w)
  match resv with
  | w :: _ => some (w, none)
  | [] =>
    match open'.find? (fun w => !used.any (fun l => l.way == w)) with
    | some w => some (w, none)
    | none => ((used.filter (fun l => open'.contains l.way && !expects s n l.line)).getLast?).map (fun l => (l.way, some l.line))

/-- A line placed in a way of an L2, most recently used. -/
def l2Place (s : State) (n line way : Nat) (st : Moesi) : State :=
  s.modPu n (fun p => { p with l2 := { line := line, way := way, state := st } :: p.l2
                               l2resv := p.l2resv.filter (· != (l2Set line, way)) })

/-- Brings a line into an L2 with a state; a line it holds already becomes the most recently used. -/
def l2Fill (s : State) (n line : Nat) (st : Moesi) : State :=
  match (s.pu n).l2Line line with
  | some l => s.modPu n (fun p => { p with l2 := { l with state := st } :: p.l2.filter (fun x => x.line != line) })
  | none =>
    match fillWay s n line with
    | none => s
    | some (w, victim) =>
      let s := match victim with | some v => l2Evict s n v | none => s
      l2Place s n line w st

/-! ### Permissions taken and given in one act -/

/-- A request that memory is to serve reaches the home (R237, R250): a failed owner's line is POISON, and the entry names no failed
node any more; of a shared line, what DRAM holds is what is delivered, and stands for every copy (log entry 126). -/
def reached (s : State) (line : Nat) : State :=
  match dirFind s line with
  | none => s
  | some e =>
    let lost := e.dead s
    let s := if lost then poisonLine s line else if e.st = .S then memFalls s line else s
    let v := (vecNodes s e).foldl (fun v k => v + 2 ^ k) 0
    if v = 0 then setDir s line none
    else if lost then setDir s line (some { e with st := .S, owner := 0, vec := v, lost := false })
    else if v = e.vec then s else setDir s line (some { e with vec := v })

/-- A request can be taken up in one act: a way is free for it, or the entry that must give way is held by no guest. -/
def roomNow (s : State) (line : Nat) : Bool :=
  match roomFor s line with
  | .take => true
  | .evict v => !guestHolds s v
  | .wait => false

/-- The eviction of an entry that only dies hold (R241), in one act. -/
def dirEvict (s : State) (v : Nat) : State :=
  let s := reached s v
  let dirty := (List.range 6).any (fun d => dieDirty s d v)
  let s := (List.range 6).foldl (fun s d => if dieHolds s d v then dieInval s d v true else s) s
  dirFree (if dirty then memWritten s v else s) v

/-- A way of the directory for a line, in one act. -/
def dirRoom (s : State) (line : Nat) : State :=
  match roomFor s line with
  | .evict v => dirEvict s v
  | _ => s

/-- An agent's request can be served in one act: a credit of its holder is free, no guest holds a copy, and at the home no transaction
is open, no older request waits and room can be made. -/
def ownAs (s : State) (holder line : Nat) : Bool :=
  (match homeOf s (64 * line) with | some h => creditLeft s h holder | none => true)
    && !guestHolds s line && !lineOpen s line && !homeWaits s line && roomNow s line

/-- An agent of the I/O die may write the line in one act. -/
def canOwn (s : State) (line : Nat) : Bool := ownAs s 6 line

/-- A PU's L2 has the right to write the line, or may take it in one act (R231, R237). -/
def mayOwn (s : State) (n line : Nat) : Bool :=
  (l2On s n && (match (s.pu n).l2Line line with | some l => l.state == .M || l.state == .E | none => false))
    || (decide (missRegs s n < 48) && !nodeFailed s (n / 10) && ownAs s (n / 10) line && (trkVictim s (n / 10) line).isSome)

/-- To own a line a PU's L2 sends RDX, and the home an SNPX to the line's owner, of the same die or another (R233, R237). An L2 that
holds the line sends UPG, or nothing. -/
def needsSnpx (s : State) (n line : Nat) : Bool :=
  ((s.pu n).l2Line line).isNone && (match dirFind s line with | some e => e.st != .S | none => false)

/-- Every copy of a line outside a PU's L2 is invalidated and the L2 holds it in M (R237, RDX and UPG). -/
def ownLine (s : State) (n line : Nat) : State :=
  let d := n / 10
  let s := if ((s.pu n).l2Line line).isSome then s else reached s line
  let s := (List.range 6).foldl (fun s k => if k = d then s else if dieHolds s k line then dieInval s k line true else s) s
  let s := (diePus d).foldl (fun s m => if m = n then s else l2Inval s m line true) (l3Put s d line none)
  let s := trkRoom (dirRoom s line) d line
  let s := setDir s line (some { st := .X, owner := d, vec := 2 ^ d, used := 0 })
  l2Fill (trkPut s d line (some .M)) n line .M

/-- A PU's L2 has the line in M, taken if need be. -/
def takeOwn (s : State) (n line : Nat) : State :=
  match (s.pu n).l2Line line with
  | some l => if l.state = .M ∨ l.state = .E then trkUse (l2Fill s n line .M) (n / 10) line else ownLine s n line
  | none => ownLine s n line

/-- Every copy of a line is invalidated and dirty data is in memory, as for a non-caching write (R237). -/
def dropCopies (s : State) (line : Nat) : State :=
  let s := reached (dirRoom s line) line
  let s := (List.range 6).foldl (fun s k => if dieHolds s k line then dieInval s k line true else s) s
  memWritten (if (dirFind s line).isSome then setDir s line none else s) line

/-- A non-caching write of one word by an agent of the module (R216, R237). -/
def agentWrite (s : State) (w : Nat) (v : TWord) : State := memPut (dropCopies s (w / 8)) w v

/-- A die comes to share a line that it does not hold (R237): E where no node held it, otherwise S. -/
def sharePerm (s : State) (d line : Nat) : State × Moesi :=
  let s := trkRoom (dirRoom (reached s line) line) d line
  match dirFind s line with
  | none =>
    let s := setDir s line (some { st := .X, owner := d, vec := 2 ^ d, used := 0 })
    (trkPut s d line (some .E), .E)
  | some e =>
    let s := if e.st = .S ∨ 6 ≤ e.owner then s else dieShare s e.owner line
    let o := e.st != .S && (decide (6 ≤ e.owner) || dieDirty s e.owner line)
    let e := { e with st := if o then .O else .S, owner := if o then e.owner else 0, vec := setBits e.vec d d 1 }
    (trkPut (setDir s line (some e)) d line (some .S), .S)

/-- Shared permission for a PU's L2 (R233): from its die where the die holds the line, otherwise from the home. -/
def shareLine (s : State) (d line : Nat) : State × Moesi :=
  if dieHolds s d line then (dieShare s d line, .S) else sharePerm s d line

/-- A line can be brought into a PU's L2 for reading in one act: its die holds it, or the home can grant it without a guest. -/
def mayShare (s : State) (n line : Nat) : Bool :=
  (fillWay s n line).isSome
    && (dieHolds s (n / 10) line
        || (mayRead s n line && !lineOpen s line && !homeWaits s line && roomNow s line && (trkVictim s (n / 10) line).isSome))

/-- A line is shared and placed in a PU's L2. -/
def l2Share (s : State) (n line : Nat) : State :=
  let t := shareLine s (n / 10) line
  l2Fill t.1 n line t.2

/-- A PU's L2 holds a line it reads, most recently used; where it cannot take the line now it was read past the caches (log entry
134). -/
def l2Read (s : State) (n line : Nat) : State :=
  match (s.pu n).l2Line line with
  | some l => l2Fill s n line l.state
  | none => if mayShare s n line then l2Share s n line else s

/-- A line comes into an L1: of instructions, or of data. -/
def Pu.l1Take (p : Pu) (fetch : Bool) (line : Nat) : Pu :=
  if fetch then { p with l1i := l1Add p.l1i line } else { p with l1d := l1Add p.l1d line }

/-- A line a PU has read comes into its L2, and into an L1 of its cores (R197, R198, R233); nothing where its die has failed (R250). -/
def fillLine (n : Nat) (s : State) (x : Bool × Nat) : State :=
  if !l2On s n || nodeFailed s (n / 10) then s
  else
    let s := trkUse (l2Read s n x.2) (n / 10) x.2
    if ((s.pu n).l2Line x.2).isNone then s else s.modPu n (fun p => p.l1Take x.1 x.2)

/-- The lines that the instruction in progress has read come into the PU's caches. -/
def settle (s : State) (n : Nat) : State :=
  ((s.pu n).touched).foldl (fillLine n) (s.modPu n (fun p => { p with touched := [] }))

end Sys2Proof.Machine
end

