-- ==== Sys2Proof/Machine/Live.lean ====
section
/-! DEFINITION. Registers of complex control space whose fields follow other state (R299, R300, R326, R339): the I/O queues,
the channel engines, paths and ports; and what a read of a register returns (R9). -/

namespace Sys2Proof.Machine

/-! ### I/O queues -/

/-- The IOQ-range registers (R299) that are listed or waiting for their tick. -/
def pioqrAddrs (s : State) : List Nat :=
  (s.regs.map (·.1) ++ s.pend.map (·.addr)).filter (fun a =>
    match regAt a with
    | some (r, _) => r.name == .pioqr
    | none => false)

/-- A range register's value covers an IOQ (R299). -/
def rangeCovers (w q : Nat) : Bool :=
  bit w 63 && bits w 49 48 == q / 65536 && decide (bits w 47 32 ≤ q % 65536) && decide (q % 65536 < bits w 47 32 + bits w 16 0)

/-- The partition an IOQ is assigned to (R299): that of a valid range, as it is in force, otherwise 0. -/
def ioqPart (s : State) (q : Nat) : Nat :=
  match (pioqrAddrs s).find? (fun a => rangeCovers (inForce s a).toNat q) with
  | some a => (a - 0x20000) / 0x1000
  | none => 0

def ioqReg (q : Nat) : Nat := 0x0201100000 + 8 * q

/-- CSSTAT.STATE: 0 disabled, 1 enabled, 2 no engine operational. -/
def csState (s : State) : Nat := ccsFld s 0x0201000008 63 62

def ioqV (s : State) (q : Nat) : Bool := forceFld s (ioqReg q) 63 63 == 1

def ioqGroup (s : State) (q : Nat) : Nat := forceFld s (ioqReg q) 59 48

/-- Starts held (R298): those that have not ended, and the endings not yet taken. -/
def nStarts (s : State) (q : Nat) : Nat :=
  (s.starts.filter (fun x => x.ioq == q)).length + (s.stats.filter (fun x => x.ioq == q && x.ending)).length

def nStats (s : State) (q : Nat) : Nat := (s.stats.filter (fun x => x.ioq == q)).length

/-- The active start of an IOQ with its exchange. -/
def activeOf (s : State) (q : Nat) : Option (Start × Exch) :=
  s.starts.findSome? (fun x => if x.ioq = q then x.exch.map (fun e => (x, e)) else none)

/-- IOQCFG.STATE (R300). -/
def ioqState (s : State) (q : Nat) : Nat :=
  if csState s = 0 ∨ ioqV s q = false then 0
  else match activeOf s q with
    | some (_, e) =>
      match e.halt with
      | some h => if h.clear then 6 else 5
      | none => 2
    | none => if s.susp.contains q then 4 else if s.starts.any (fun x => x.ioq == q) then 3 else 1

/-! ### Engines, paths and pairs -/

/-- The exchanges an engine holds. -/
def engineLoad (s : State) (e : Nat) : Nat :=
  (s.starts.filter (fun x => match x.exch with | some y => y.engine == e | none => false)).length

def pathReg (g k : Nat) : Nat := 0x0201300000 + 64 * g + 8 * k

def pathV (s : State) (g k : Nat) : Bool := forceFld s (pathReg g k) 63 63 == 1

/-- The pair a path entry names (R339), as 4096 x port + control unit. -/
def pathPair (s : State) (g k : Nat) : Nat :=
  4096 * forceFld s (pathReg g k) 55 52 + forceFld s (pathReg g k) 43 32

def noPair : Pair := { oper := false, login := none, echo := none, misses := 0 }

def State.pair (s : State) (key : Nat) : Pair := spGet noPair s.pairs key

def State.setPair (s : State) (key : Nat) (p : Pair) : State := { s with pairs := spSet noPair s.pairs key p }

def pathOper (s : State) (g k : Nat) : Bool := (s.pair (pathPair s g k)).oper

/-! ### The service endpoint -/

/-- The register block of a mailbox slot (R396). -/
def mbReg (m off : Nat) : Nat := 0x0203004000 + 0x100 * m + off

def slotBusy (s : State) (m : Nat) : Bool := ccsFld s (mbReg m 0x40) 63 62 == 1

/-- The power state of PMCSR is D3hot. -/
def inD3 (s : State) : Bool := bits (cfgGet s 0x11).toNat 1 0 == 3

/-- The number whose bit k is f k. -/
def maskOf (n : Nat) (f : Nat → Bool) : Nat := (List.range n).foldl (fun a k => a + b2n (f k) * 2 ^ k) 0

/-! ### Reading registers -/

/-- A register with the fields that follow other state. -/
def liveWord (s : State) (a : Nat) (r : RegRow) (ix : List Nat) : Word :=
  let w := ccsGet s a
  match r.name, ix with
  | .pctl, [0] => wordSet w 63 63 (b2n (modSealed s))
  | .ioqcfg, [q] => wordSet (wordSet (wordSet w 31 28 (ioqState s q)) 20 16 (nStarts s q)) 13 8 (nStats s q)
  | .cestat, [n] => wordSet w 44 32 (min (engineLoad s n) 0x1FFF)
  | .path, [g, k] => wordSet w 62 62 (b2n (pathOper s g k))
  | .chpstat, [p] => wordSet w 47 32 ((s.pairs.filter (fun x => x.1 / 4096 == p && x.2.oper)).length)
  | .tod, [0] => BitVec.ofNat 64 (s.tod / 2 ^ 64)
  | .epwst, _ => BitVec.ofNat 64 (maskOf 8 (fun w => s.pend.any (fun p => p.addr == 0x0203001100 + 8 * w)))
  | .epstat, _ =>
    let w := wordSet (wordSet w 56 56 (b2n (busMaster s))) 55 55 (b2n (inD3 s))
    wordSet (wordSet w 41 32 (s.ep.reads.filter (fun r => !r.gone)).length) 31 16 (maskOf 16 (slotBusy s))
  | _, _ => w

/-- A register as a read returns it: its WO fields read 0 (R9, R60). -/
def ccsRead (s : State) (a : Nat) : Word :=
  match regAt a with
  | some (r, ix) => liveWord s a r ix &&& ~~~r.wo
  | none => 0

/-- A read by a requester, 0 firmware, 1 the support host, 2 the debug port: TODLO is the low half of its latest TODHI. -/
def ccsReadBy (s : State) (who a : Nat) : Word × State :=
  if a = 0x0204000000 then
    (ccsRead s a, { s with clock := { s.clock with lo := spSet 0 s.clock.lo who (s.tod % 2 ^ 64) } })
  else if a = 0x0204000008 then (BitVec.ofNat 64 (spGet 0 s.clock.lo who), s)
  else (ccsRead s a, s)

end Sys2Proof.Machine
end

