-- ==== Sys2Proof/Machine/Operands.lean ====
section
/-! DEFINITION. Decoding checks (R61 to R80), the prelude of R83, and every operand form (R73 to R77): its checks in
the order of R54, its value and its store. -/

namespace Sys2Proof.Machine

/-- The class of a specifier slot (R74); `P` is an R pair (R82). -/
inductive Cls where
  | R
  | P
  | M
  | S
  | D
  | A
deriving DecidableEq, Repr

/-- How the instruction uses the slot (R77). -/
inductive Use where
  | rd
  | wr
  | rw
  | addr
deriving DecidableEq, Repr

/-- One entry of the catalogue (R82): opcode length, slots, the prefixes accepted besides 0xEB (O, A, 32), the least
privileged level, and whether its timing class is T4. -/
structure OpInfo where
  opLen : Nat
  slots : List (Cls × Use)
  o     : Bool
  a     : Bool
  n     : Bool
  pl    : Nat
  t4    : Bool
deriving DecidableEq, Repr

/-! ### Encoding checks -/

/-- Bytes of a specifier after its mode byte (R73). -/
def specTail : Spec → Nat
  | .reg _ => 0
  | .mem long _ idx _ => (if long then 4 else 2) + (if idx.isSome then 1 else 0)
  | .imm arg _ => if arg.toNat < 4 then 2 ^ arg.toNat else 0
  | .stack _ => 0
  | .reserved _ _ => 0

/-- A reserved MODE or ARG (R73). -/
def specBad : Spec → Bool
  | .imm arg _ => decide (3 < arg.toNat)
  | .stack arg => decide (1 < arg.toNat)
  | .reserved _ _ => true
  | _ => false

/-- The mode is allowed in a slot of the class (R74). -/
def Cls.allows : Cls → Spec → Bool
  | .R, .reg _ => true
  | .P, .reg _ => true
  | .M, .mem _ _ _ _ => true
  | .M, .stack _ => true
  | .S, _ => true
  | .D, .reg _ => true
  | .D, .mem _ _ _ _ => true
  | .D, .stack _ => true
  | .A, .mem _ _ _ _ => true
  | _, _ => false

def specIsMem : Spec → Bool
  | .mem _ _ _ _ => true
  | _ => false

def specIsStack : Spec → Bool
  | .stack _ => true
  | _ => false

/-- The specifier is a register through which the instruction writes G15 (R77): a D slot, and as the model's choice also a class R slot
that is written (log entry 136). -/
def specWritesG15 (cls : Cls) (use : Use) : Spec → Bool
  | .reg n =>
    match cls with
    | .D => n == 15
    | .P => use != .rd && (n == 14 || n == 15)
    | _ => use != .rd && n == 15
  | _ => false

/-- Bytes of an instruction (R62). -/
def instrLen (h : Hdr) (opLen : Nat) (sp : List Spec) : Nat :=
  h.pfx.length + opLen + (sp.map (fun x => 1 + specTail x)).foldl (· + ·) 0

/-- The context of an exception found while decoding: ILEN 0 (R140). -/
def encCtx (s : State) (n : Nat) : Ctx :=
  { pu := n, ia := pswIA (s.pu n).psw, len := 0, relax := false, narrow := false, atomic := false, bank := none, vote := .agree }

/-- Fetches the byte at an offset of the instruction (R78). -/
def fetchByte (c : Ctx) (off : Nat) : M Unit := do
  let s ← get
  let va := (c.ia + off) % 2 ^ 64
  guardM (decide (va < 2 ^ 52)) (c.raise 0x0024 va 0 0 0)
  let a ← xlate c 0 0 .fetch (pswRoot s c.pu) va 1 .memory
  touch c.pu true (a / 64)

/-- An encoding exception at a byte: ACC 6, ILEN 0 (R79, R140). -/
def encFail (c : Ctx) (code off : Nat) : M Unit := c.raise code ((c.ia + off) % 2 ^ 64) 0 0 6

def fetchBytes (c : Ctx) : Nat → Nat → M Unit
  | _, 0 => pure ()
  | off, k + 1 => do
    fetchByte c off
    fetchBytes c (off + 1) k

/-- The kind of a prefix byte: 0 bank override, 1 atomic, 2 tag relax, 3 operand size; none for a reserved one (R63). -/
def pfxKind (b : BitVec 4) : Option Nat :=
  if b.toNat < 8 then some 0
  else if b = 0xA then some 1
  else if b = 0xB then some 2
  else if b = 0xC then some 3
  else none

/-- The prefix bytes in order (R64). -/
def checkPfx (c : Ctx) : Nat → List Nat → List (BitVec 4) → M Unit
  | _, _, [] => pure ()
  | off, seen, b :: bs => do
    fetchByte c off
    guardM (decide (off < 3)) (encFail c 0x0004 off)
    match pfxKind b with
    | none => encFail c 0x0001 off
    | some k =>
      guardM (!seen.contains k) (encFail c 0x0004 off)
      checkPfx c (off + 1) (k :: seen) bs

def hasPfx (h : Hdr) (k : Nat) : Bool := h.pfx.any (fun b => pfxKind b == some k)

/-- The bank a bank override names (R63). -/
def pfxBank (h : Hdr) : Option Nat := (h.pfx.find? (fun b => pfxKind b == some 0)).map (·.toNat)

/-- The specifiers from a byte offset on (R73 to R79); `stk` and `g15`: a stack specifier, or a register specifier that
writes G15, stands before. -/
def checkSpecs (c : Ctx) (atomic narrow : Bool) : Nat → Bool → Bool → List (Cls × Use) → List Spec → M Unit
  | off, stk, g15, (cls, use) :: sl, sp :: sps => do
    guardM (decide (off ≤ 14)) (encFail c 0x0005 off)
    fetchByte c off
    guardM (!specBad sp) (encFail c 0x0001 off)
    guardM (cls.allows sp) (encFail c 0x0003 off)
    guardM (!(atomic && cls == .D && !specIsMem sp)) (encFail c 0x0003 off)
    guardM (!(narrow && (match sp with | .imm arg _ => arg == 3 | _ => false))) (encFail c 0x0003 off)
    guardM (!(specIsStack sp && g15)) (encFail c 0x0003 off)
    guardM (!(specWritesG15 cls use sp && stk)) (encFail c 0x0003 off)
    guardM (decide (off + specTail sp ≤ 14)) (encFail c 0x0005 off)
    match sp with
    | .mem _ _ (some ix) _ => do
      fetchByte c (off + 1)
      guardM (decide (ix.resv = 0)) (encFail c 0x0001 (off + 1))
      fetchBytes c (off + 2) (specTail sp - 1)
    | _ => fetchBytes c (off + 1) (specTail sp)
    checkSpecs c atomic narrow (off + 1 + specTail sp) (stk || specIsStack sp) (g15 || specWritesG15 cls use sp) sl sps
  | _, _, _, _, _ => pure ()

/-- Decodes an instruction whose opcode is assigned: every encoding check in byte order, then its context. -/
def decodeM (h : Hdr) (i : OpInfo) (sp : List Spec) : M Ctx := do
  let s ← get
  let n := h.pu.val
  let c := encCtx s n
  checkPfx c 0 [] h.pfx
  let off := h.pfx.length
  fetchBytes c off i.opLen
  guardM (!(hasPfx h 0 && !i.o) && !(hasPfx h 1 && !i.a) && !(hasPfx h 3 && !i.n)) (encFail c 0x0004 (off + i.opLen - 1))
  checkSpecs c (hasPfx h 1) (hasPfx h 3) (off + i.opLen) false false i.slots sp
  pure { c with len := instrLen h i.opLen sp, relax := hasPfx h 2, narrow := hasPfx h 3, atomic := hasPfx h 1,
                bank := pfxBank h, vote := h.vote }

/-- Step 4 of R83: an R pair slot names an even register. -/
def checkPairs (c : Ctx) : Nat → List (Cls × Use) → List Spec → M Unit
  | k, (cls, _) :: sl, sp :: sps => do
    guardM (!(cls == .P && (match sp with | .reg n => n.toNat % 2 == 1 | _ => false))) (c.fail 0x0006 k)
    checkPairs c (k + 1) sl sps
  | _, _, _ => pure ()

/-- Steps 1 to 4 of R83: decoding, privilege, tag relax, pairs. -/
def prelude (h : Hdr) (i : OpInfo) (sp : List Spec) : M Ctx := do
  let c ← decodeM h i sp
  let s ← get
  let psw := (s.pu c.pu).psw
  guardM (decide (pswPL psw ≤ i.pl)) (c.fail 0x0002)
  guardM (!(c.relax && !pswTRP psw)) (c.fail 0x0016)
  checkPairs c 1 i.slots sp
  pure c

/-! ### Tags -/

/-- The tags that whole-word copies accept (R87). -/
def tagsWhole : List Tag := [tagUninit, tagInt, tagBfp, tagDec, tagBytes, tagPtr, tagDesc, tagCustom]

def tagsRelax : List Tag := [tagInt, tagBytes, tagBfp, tagDec, tagPtr, tagUninit]

/-- The exception a tag raises under an accepted set (R29, R30, R34, R38); none when it is accepted. -/
def tagFault (relax : Bool) (ok : List Tag) (t : Tag) : Option Nat :=
  if ok.contains t then none
  else if t = tagSealed then some 0x0011
  else if t = tagPoison then some 0x0012
  else if relax && tagsRelax.contains t && ok.any (fun x => tagsRelax.contains x) then none
  else some 0x0010

/-! ### Locations -/

/-- A memory operand that passed steps 1 to 9 of R54. -/
structure MLoc where
  slot : Nat
  bank : Nat
  va   : Nat
  abs  : Nat
  len  : Nat
  acc  : Nat
deriving DecidableEq, Repr

/-- Where an operand lies. -/
inductive Loc where
  | reg (n : Nat)
  | imm (w : Word)
  | mem (m : MLoc)
deriving DecidableEq, Repr

/-- The value of an immediate (R76). -/
def immValue (arg : BitVec 4) (v : Word) : Word :=
  match arg.toNat with
  | 0 => (v.truncate 8).signExtend 64
  | 1 => (v.truncate 16).signExtend 64
  | 2 => (v.truncate 32).signExtend 64
  | _ => v

/-- The movement of G15 in an instruction (R77): pops and pushes. -/
def countPops : List (Cls × Use) → List Spec → Nat
  | (_, use) :: sl, sp :: sps => (if sp = .stack 0 ∧ use = .rd then 1 else 0) + countPops sl sps
  | _, _ => 0

def countPushes : List (Cls × Use) → List Spec → Nat
  | (_, use) :: sl, sp :: sps => (if sp = .stack 0 ∧ use = .wr then 1 else 0) + countPushes sl sps
  | _, _ => 0

/-- A specifier with its place: slot number, class and use, pops before it, all pops and all pushes. -/
structure Place where
  slot   : Nat
  use    : Use
  before : Nat
  pops   : Nat
  pushes : Nat
deriving DecidableEq, Repr

/-- The place of slot k (1 to 3) of an instruction. -/
def place (i : OpInfo) (sp : List Spec) (k : Nat) : Place :=
  { slot := k
    use := ((i.slots[k - 1]?).map (·.2)).getD .rd
    before := countPops (i.slots.take (k - 1)) (sp.take (k - 1))
    pops := countPops i.slots sp
    pushes := countPushes i.slots sp }

/-- The exact offset of a bank specifier (R75). -/
def specOffset (c : Ctx) (slot : Nat) (long : Bool) (idx : Option Idx) (disp : BitVec 32) : M Nat := do
  let d := if long then disp.toNat else disp.toNat % 2 ^ 16
  match idx with
  | none => pure d
  | some ix =>
    let s ← get
    let g := (s.pu c.pu).reg ix.reg.toNat
    guardM (decide (g.tag = tagInt)) (c.fail 0x0010 slot ix.reg.toNat)
    pure (d + g.data.toNat * 2 ^ ix.scale.toNat)

/-- The bank and offset of a memory or stack specifier (R51, R66, R77). Stack ARG 0x0 in a class M slot that is read and written names
the word at G15, and G15 does not move (log entry 137). -/
def specAddr (c : Ctx) (pl : Place) : Spec → M (Nat × Nat)
  | .mem long bank idx disp => do
    let o ← specOffset c pl.slot long idx disp
    pure (bank.toNat, o)
  | .stack arg => do
    let s ← get
    let g := (s.pu c.pu).reg 15
    guardM (decide (g.tag = tagInt)) (c.fail 0x0010 pl.slot 15)
    let o := if arg = 1 ∨ pl.use = .rw then g.data.toNat
      else if pl.use = .wr then (g.data.toNat + 8 * pl.pops + 2 ^ 64 - 8 * pl.pushes) % 2 ^ 64
      else (g.data.toNat + 8 * pl.before) % 2 ^ 64
    pure (c.bank.getD 7, o)
  | _ => pure (0, 0)

def Use.kind : Use → Kind
  | .rd => .load
  | .wr => .store
  | .rw => .rmw
  | .addr => .load

def Use.right : Use → Right
  | .rd => .r
  | .wr => .w
  | .rw => .rw
  | .addr => .r

/-- Steps 1 to 9 of R54 for an operand of 1, 2, 4 or 8 bytes, with the alignment of R36 after step 5. -/
def memLoc (c : Ctx) (slot bank off len : Nat) (k : Kind) (need : Right) (reach : Reach := .window) : M MLoc := do
  let (va, root) ← bankAddr c slot bank off len k.acc need
  guardM (va % len == 0) (c.raise 0x0006 c.ia slot bank k.acc)
  let a ← xlate c slot bank k root va len reach
  pure { slot := slot, bank := bank, va := va, abs := a, len := len, acc := k.acc }

/-- The words of a longer operand, each through steps 6 to 9 (R54), with the leaf entries passed. -/
def wordLocs (c : Ctx) (slot bank : Nat) (k : Kind) (root va : Nat) : Nat → M (List (MLoc × Option Nat))
  | 0 => pure []
  | n + 1 => do
    let (a, e) ← translate c slot bank k root va 8 .memory
    let r ← wordLocs c slot bank k root (va + 8) n
    pure (({ slot := slot, bank := bank, va := va, abs := a, len := 8, acc := k.acc }, e) :: r)

/-- REF and CHG in every leaf entry an operand passed. -/
def markLeaves (k : Kind) : List (Option Nat) → M Unit
  | [] => pure ()
  | x :: xs => do
    markLeaf k x
    markLeaves k xs

/-- The page that only the last bytes of a misaligned operand of `n` words reach into, through steps 6 to 9 (R54): its leaf entry. An
operand whose alignment is checked at step 7 alone passes them there too (R83). -/
def lastPage (c : Ctx) (slot bank : Nat) (k : Kind) (root va n : Nat) : M (List (Option Nat)) := do
  let e := va + 8 * n - 1
  if (e - 7) / 4096 = e / 4096 then pure []
  else do
    let (_, l) ← translate c slot bank k root (e / 4096 * 4096) 1 .memory
    pure [l]

/-- A memory operand longer than 8 bytes: `n` words aligned on `al` bytes. -/
def longLoc (c : Ctx) (slot bank off n al : Nat) (k : Kind) (need : Right) : M (List MLoc) := do
  let (va, root) ← bankAddr c slot bank off (8 * n) k.acc need
  guardM (va % al == 0) (c.raise 0x0006 c.ia slot bank k.acc)
  let r ← wordLocs c slot bank k root va n
  let e ← lastPage c slot bank k root va n
  markLeaves k (r.map (·.2) ++ e)
  pure (r.map (·.1))

/-- The operand length of an instruction (R68, R75). -/
def Ctx.width (c : Ctx) : Nat := if c.narrow then 4 else 8

/-- The location of an operand after steps 1 to 9 of R54. -/
def locate (c : Ctx) (pl : Place) (len : Nat) (sp : Spec) : M Loc :=
  match sp with
  | .reg n => pure (.reg n.toNat)
  | .imm arg v => pure (.imm (immValue arg v))
  | _ => do
    let (b, o) ← specAddr c pl sp
    let m ← memLoc c pl.slot b o len pl.use.kind pl.use.right
    pure (.mem m)

/-! ### Reading and writing -/

/-- A request of the instruction in progress (R175, R177, R181): a latched response is delivered again, a request still
unanswered is waited for, and a new one is sent once, when the voters release it. -/
def latched (c : Ctx) (kind : ReqKind) (addr : Nat) (act : M (List TWord)) : M (List TWord) := do
  let s ← get
  let p := s.pu c.pu
  match p.latch[p.latchPos]? with
  | some e =>
    match e.resp with
    | some r =>
      modify (fun s => s.modPu c.pu (fun p => { p with latchPos := p.latchPos + 1 }))
      pure r
    | none => waitFor
  | none =>
    if votedDown s c.pu c.vote then throw .unvoted
    let r ← act
    modify (fun s => s.modPu c.pu (fun p =>
      { p with latch := p.latch ++ [{ kind := kind, addr := addr, resp := some r }], latchPos := p.latchPos + 1 }))
    if c.vote = .agreeOnly then waitFor
    pure r

/-- A device load (R222, R229): sent once, then waited for. -/
def deviceRead (c : Ctx) (m : MLoc) : M TWord := do
  let r ← latched c .deviceRead m.abs (do
    let s ← get
    if devicePending (s.pu c.pu).mb then waitFor
    let t := devTimeout s (pswPart (s.pu c.pu).psw)
    modify (fun s => s.modPu c.pu (fun p =>
      { p with
        latch := p.latch ++ [{ kind := .deviceRead, addr := m.abs, resp := none }]
        devLoad := some { abs := m.abs, va := m.va, len := m.len, ilen := c.len, slot := m.slot, unit := m.bank,
                          ticks := t, sent := false } }))
    waitFor)
  pure (r.headD uninitWord)

/-- The word a memory operand lies in: memory as the PU sees it, a device's answer, or a control register tagged INT. -/
def readWord (c : Ctx) (m : MLoc) : M TWord := do
  let s ← get
  if strictPending (s.pu c.pu).mb then waitFor
  if inWindow m.abs then do
    let r ← latched c .deviceRead m.abs (do
      let s ← get
      if devicePending (s.pu c.pu).mb then waitFor
      let r := ccsReadBy s 0 (m.abs % 2 ^ 40)
      set r.2
      pure [intWord r.1])
    pure (r.headD uninitWord)
  else if inDevice m.abs then deviceRead c m
  else do
    needLine c.pu m.abs
    pure (puView s c.pu (m.abs / 8))

/-- The `len` bytes at an address out of their word, in the low bytes. -/
def extract (w : Word) (a len : Nat) : Word :=
  (w >>> (8 * (8 - a % 8 - len))) &&& BitVec.ofNat 64 (2 ^ (8 * len) - 1)

/-- A device answers with the bytes themselves in the low end; memory answers with the whole word. -/
def partOf (m : MLoc) (w : TWord) : TWord :=
  if m.len = 8 then w
  else if inDevice m.abs then w
  else ⟨extract w.data m.abs m.len, w.tag⟩

/-- Step 10 for a word read through a memory operand: tag, then POLICY. -/
def checkRead (c : Ctx) (m : MLoc) (relax : Bool) (ok : List Tag) (t : Tag) : M Unit := do
  let s ← get
  match tagFault relax ok t with
  | some code => c.raise code m.va m.slot m.bank m.acc
  | none => guardM (policyLoad (bankPolicy s c.pu m.bank) t) (c.raise 0x0017 m.va m.slot m.bank m.acc)

/-- The POLICY check of a store of a word with a tag (R44). -/
def checkPolicy (c : Ctx) (m : MLoc) (t : Tag) : M Unit := do
  let s ← get
  guardM (policyStore (bankPolicy s c.pu m.bank) t) (c.raise 0x0017 m.va m.slot m.bank m.acc)

/-- Step 10 for a store of fewer than 8 bytes (R37): the tag of the word overwritten. -/
def checkNarrow (c : Ctx) (m : MLoc) : M Unit := do
  if inDevice m.abs || inWindow m.abs then pure ()
  else do
    let s ← get
    if strictPending (s.pu c.pu).mb then waitFor
    needLine c.pu m.abs
    match narrowTag (puView s c.pu (m.abs / 8)).tag with
    | none => c.raise 0x0015 m.va m.slot m.bank m.acc
    | some t => checkPolicy c m t

/-- The value of a located operand with its tag, checked against the tags accepted. -/
def readLoc (c : Ctx) (slot : Nat) (ok : List Tag) (l : Loc) : M TWord :=
  match l with
  | .reg n => do
    let s ← get
    let w := (s.pu c.pu).reg n
    match tagFault c.relax ok w.tag with
    | some code => c.fail code slot n
    | none => pure w
  | .imm v => pure (intWord v)
  | .mem m => do
    let w ← readWord c m
    checkRead c m c.relax ok w.tag
    pure (partOf m w)

/-- A source operand: located and read. -/
def source (c : Ctx) (pl : Place) (len : Nat) (ok : List Tag) (sp : Spec) : M TWord := do
  let l ← locate c pl len sp
  readLoc c pl.slot ok l

/-- A destination that is only written: located, and for a narrow store checked under R37. -/
def target (c : Ctx) (pl : Place) (len : Nat) (sp : Spec) : M Loc := do
  let l ← locate c pl len sp
  match l with
  | .mem m =>
    if m.len < 8 then checkNarrow c m
    pure l
  | _ => pure l

/-- A destination that is read and written: located, read, and for a narrow store checked under R37. -/
def update (c : Ctx) (pl : Place) (len : Nat) (ok : List Tag) (sp : Spec) : M (Loc × TWord) := do
  let l ← locate c pl len sp
  let v ← readLoc c pl.slot ok l
  match l with
  | .mem m => if m.len < 8 then checkNarrow c m
  | _ => pure ()
  pure (l, v)

/-- The POLICY check of a whole-word result for its destination (R44). -/
def checkDest (c : Ctx) (l : Loc) (t : Tag) : M Unit :=
  match l with
  | .mem m => if m.len = 8 then checkPolicy c m t else pure ()
  | _ => pure ()

/-- A store of a located memory operand: a whole word with its tag, or the low bytes. -/
def storeOf (s : State) (n : Nat) (m : MLoc) (w : TWord) : Store :=
  { abs := m.abs, va := m.va, len := m.len, data := w.data
    tag := if m.len = 8 then some w.tag else none
    device := inDevice m.abs || inWindow m.abs
    strict := devStrict s (pswPart (s.pu n).psw) m.abs, part := pswPart (s.pu n).psw }

/-- The stores that writing a located operand makes: none for a register. -/
def storesOf (s : State) (n : Nat) (l : Loc) (w : TWord) : List Store :=
  match l with
  | .mem m => [storeOf s n m w]
  | _ => []

/-- The register part of writing a located operand. -/
def regOf (l : Loc) (w : TWord) (p : Pu) : Pu :=
  match l with
  | .reg n => p.setReg n w
  | _ => p

/-- Waits for earlier stores. Where those of the unit hold find every entry held by a lost record, the earliest one is
reported instead (R227). -/
def waitStores (c : Ctx) : M Unit := do
  let s ← get
  let p := s.pu c.pu
  match (if !p.unitHold.isEmpty && allLost p.mb then firstLost p.mb else none) with
  | some (code, va) =>
    set (s.modPu c.pu (fun p => { p with mb := dropLost p.mb }.drain))
    c.raise code va 0 0 2
  | none => waitFor

/-- Puts the stores of an instruction into the merging buffer (R201, R227): it waits for a free entry, and reports the
earliest lost record when lost records hold every entry. -/
def pushStores (c : Ctx) (sts : List Store) : M Unit := do
  let s ← get
  let b := (s.pu c.pu).mb
  match (s.pu c.pu).push sts with
  | some b' => set (s.modPu c.pu (fun p => { p with mb := b' }))
  | none =>
    match (if allLost b then firstLost b else none) with
    | some (code, va) =>
      set (s.modPu c.pu (fun p => { p with mb := dropLost p.mb }))
      c.raise code va 0 0 2
    | none => waitStores c

/-- The address after an instruction. -/
def Ctx.next (c : Ctx) : Nat := (c.ia + c.len) % 2 ^ 64

/-- PSW.IA set. -/
def Pu.setIA (p : Pu) (a : Nat) : Pu := { p with psw := pswSet p.psw 63 0 a }

/-- PSW.CC set. -/
def Pu.setCC (p : Pu) (cc : Nat) : Pu := { p with psw := pswSet p.psw 109 108 cc }

/-- G15 after the stack movement of the instruction (R77); unchanged when no stack specifier moves it. -/
def Pu.moveStack (p : Pu) (i : OpInfo) (sp : List Spec) : Pu :=
  let a := countPops i.slots sp
  let b := countPushes i.slots sp
  if a = 0 ∧ b = 0 then p
  else p.setReg 15 (intWord (BitVec.ofNat 64 ((p.reg 15).data.toNat + 8 * a + 2 ^ 64 - 8 * b)))

/-- Completes an instruction: its stores, its register writes, the stack movement, and IA past it. -/
def commit (c : Ctx) (i : OpInfo) (sp : List Spec) (sts : List Store) (f : Pu → Pu) : M Unit := do
  pushStores c sts
  modify (fun s => s.modPu c.pu (fun p => ((f p).moveStack i sp).setIA c.next))

/-- Writes a result to a located destination and completes. -/
def commitTo (c : Ctx) (i : OpInfo) (sp : List Spec) (l : Loc) (w : TWord) (f : Pu → Pu) : M Unit := do
  let s ← get
  commit c i sp (storesOf s c.pu l w) (fun p => f (regOf l w p))

end Sys2Proof.Machine
end

