-- ==== Sys2Proof/Machine/Interrupts.lean ====
section
/-! DEFINITION. Taking an interruption (R132 to R143): what is due at a boundary, the entry
sequence and lockup. -/

namespace Sys2Proof.Machine

/-- Bit k of the busy bits. -/
def Pu.isBusy (p : Pu) (k : Nat) : Bool := p.busy.getLsbD k

/-- Whether entry stores and reads at an absolute address of the area are refused (R137): the zone check of the
partition and installed memory. -/
def areaOk (s : State) (part a : Nat) : Bool := zoneOk s part a && !inWindow a && installed s a

/-- A whole-word store at an absolute address, as entry makes them. -/
def wordStore (a : Nat) (w : TWord) : Store :=
  { abs := a, va := a, len := 8, data := w.data, tag := some w.tag, device := false, strict := false, part := 0 }

def intStore (a : Nat) (v : Nat) : Store := wordStore a (intWord (BitVec.ofNat 64 v))

/-- The PU's 8 KiB area: PREFIX.PFX x 8 KiB (R136). -/
def areaBase (s : State) (n : Nat) : Nat := bits (s.pu n).pfxArea.toNat 51 13 * 8192

/-- The interruption code word (R136). -/
def codeWord (e : Exc) (regv pswv : Bool) : Nat :=
  (e.ilen % 16) * 2 ^ 36 + e.slot * 2 ^ 28 + e.unit * 2 ^ 24 + (if e.cls = 1 then e.acc * 2 ^ 18 else 0)
    + b2n regv * 2 ^ 17 + b2n pswv * 2 ^ 16 + e.code

/-- Puts a PU into lockup (R142). A program interruption or SVC pending behind the entry that failed is gone (log entry 140). -/
def lockup (s : State) (n reason : Nat) (e : Exc) : State :=
  let v := 2 ^ 63 + reason * 2 ^ 48 + e.cls * 2 ^ 40 + e.code * 2 ^ 16 + (s.pu n).busy.toNat
  let s := ccsPut s (puReg n 0xE00) (BitVec.ofNat 64 v)
  let s := ccsPut s (puReg n 0xE08) e.ia
  let s := attend s 1
  s.modPu n (fun p => { p with prog := none })

/-- The words of the register save of machine-check entry (R136). -/
def saveStores (s : State) (n base : Nat) : List Store :=
  let p := s.pu n
  (List.range 16).map (fun i => wordStore (base + 0x400 + 8 * i) (p.reg i))
    ++ [wordStore (base + 0x480) (intWord p.fpc), wordStore (base + 0x488) (intWord p.fpfia),
        wordStore (base + 0x490) (intWord p.rsp)]
    ++ ((List.range 8).map (fun i =>
        [wordStore (base + 0x500 + 16 * i) (p.bank i).base, wordStore (base + 0x508 + 16 * i) (p.bank i).attr])).flatten

/-- One held store performed in memory (R216). -/
def HeldStore.perform (s : State) (h : HeldStore) : State :=
  agentWrite s (h.abs / 8) (applyWrite (homeWord s (h.abs / 8)) (wordWrite h.abs h.len h.data h.tag))

/-- Entry stores once they are in the merging buffer (R137). Lost records may leave it too little room for good: once nothing
else waits there, the stores, behind those of the unit hold, are performed one after the other instead. None while they must wait. -/
def entryStores (s : State) (n : Nat) (sts : List Store) : Option State :=
  let p := s.pu n
  match p.push sts with
  | some b => some (s.modPu n (fun p => { p with mb := b }))
  | none =>
    if allLost p.mb then
      let s := p.unitHold.foldl HeldStore.perform (s.modPu n (fun p => { p with unitHold := [] }))
      some (sts.foldl (fun s st => agentWrite s (st.abs / 8) ⟨st.data, st.tag.getD tagInt⟩) s)
    else none

/-- Entry into a class (R138): the new state, or none when the merging buffer has no room for its stores yet, or the
line of the slot must be waited for. A PSW that was lost (PSWV 0) is stored as a free value; the zone check, the comparison of PART and
PULOCKIA then use the PSW that the PU still keeps (log entry 130). -/
def enter (s : State) (n : Nat) (e : Exc) (regv pswv : Bool) : Option State :=
  let p := s.pu n
  let base := areaBase s n
  let slot := base + 0x100 + 0x40 * e.cls
  let part := pswPart p.psw
  if p.isBusy e.cls then some (lockup s n 0x01 e)
  else if !areaOk s part slot then some (lockup s n 0x02 e)
  else if !mayRead s n (slot / 64) then none
  else
    let old : BitVec 128 := if pswv then pswSet p.psw 63 0 e.ia.toNat else Config.free s.fresh ++ Config.free (s.fresh + 1)
    let s := if pswv then s else { s with fresh := s.fresh + 2 }
    let sts := [intStore slot (old.toNat / 2 ^ 64), intStore (slot + 8) (old.toNat % 2 ^ 64),
                intStore (slot + 0x20) (codeWord e regv pswv), wordStore (slot + 0x28) (intWord e.fail),
                wordStore (slot + 0x30) (intWord e.param), wordStore (slot + 0x38) (intWord (todMid s))]
      ++ (if e.cls = 0 then saveStores s n base else [])
    let busy := p.busy ||| BitVec.ofNat 6 (2 ^ e.cls)
    match entryStores s n sts, entryStores s n (sts ++ [intStore base busy.toNat]) with
    | some s1, some s2 =>
      let hi := puView s1 n ((slot + 0x10) / 8)
      let lo := puView s1 n ((slot + 0x18) / 8)
      let new : BitVec 128 := hi.data ++ lo.data
      if hi.tag ≠ tagInt ∨ lo.tag ≠ tagInt then some (lockup s1 n 0x03 e)
      else if !pswValid new (puPart s n) || pswPart new != part then some (lockup s1 n 0x04 e)
      else some (s2.modPu n (fun p => { p with busy := busy, psw := new }))
    | _, _ => none

/-! ### What is due (R132 to R134) -/

/-- An entry that is due at a boundary. -/
inductive Entry where
  | imm (m : McImm)
  | prog (e : Exc)
  | mc (k : McSub) (seq : Nat)
  | fp
  | restart (issuer : Nat)
  | cut (param : Word)
  | serv (seq : Word)
  | xcall (sender : Nat)
  | clock
  | io (i : IoInt)
deriving DecidableEq, Repr

/-- The first pending entry of a list whose enabling condition holds. -/
def firstDue : List (Bool × Option Entry) → Option Entry
  | [] => none
  | (true, some e) :: _ => some e
  | _ :: xs => firstDue xs

/-- The enabled deferrable machine check that comes first: external damage, degradation, warning, recovery (R133). -/
def dueMc (p : Pu) : Option Entry :=
  let m := (p.ctlReg 4).toNat
  if pswMCM p.psw && !p.isBusy 0 then
    firstDue [(bit m 2, p.mcExt.map (Entry.mc .extd)), (bit m 1, p.mcDegr.map (Entry.mc .degr)),
              (bit m 3, p.mcWarn.map (Entry.mc .warn)), (bit m 0, p.mcRecv.map (Entry.mc .recv))]
  else none

/-- The clock-comparator condition: TOD[95:32] at or above CMP (R416). -/
def clockDue (s : State) (n : Nat) : Bool := decide (((s.pu n).ctlReg 12).toNat ≤ bits s.tod 95 32)

/-- The enabled external interruption that comes first: Cut event, service signal, external call, clock comparator
(R133). The Cut event goes only to a PU running in partition 0, the service signal to a PU of partition 0. -/
def dueExt (s : State) (n : Nat) : Option Entry :=
  let p := s.pu n
  let m := (p.ctlReg 0).toNat
  if pswEXM p.psw && !p.isBusy 3 then
    firstDue [(bit m 3 && pswPart p.psw == 0, p.cutEv.head?.map Entry.cut),
              (bit m 2 && puPart s n == 0, s.serv.head?.map Entry.serv),
              (bit m 1, p.xcall.map Entry.xcall),
              (bit m 0 && clockDue s n, if p.clkPend then some .clock else none)]
  else none

/-- A status that another PU has reserved for its entry (R320). -/
def reservedElsewhere (s : State) (n : Nat) (i : IoInt) : Bool :=
  (List.range 60).any (fun m => m != n && (s.pu m).ioResv == some i)

/-- The I/O interruption that comes first for a PU: the one it has reserved; else ascending queue set, then the oldest status
that no other PU has reserved (R320, R321). -/
def dueIo (s : State) (n : Nat) : Option Entry :=
  let p := s.pu n
  let m := (p.ctlReg 2).toNat
  if pswIOM p.psw && !p.isBusy 4 then
    match p.ioResv.filter (fun i => s.ioInts.contains i && bit m (i.ioq / 65536)) with
    | some i => some (.io i)
    | none =>
      firstDue ((List.range 4).map (fun k =>
        (bit m k, (s.ioInts.find? (fun i => i.ioq / 65536 == k && ioqPart s i.ioq == puPart s n
          && !reservedElsewhere s n i)).map Entry.io)))
  else none

/-- A restart is due (R132). -/
def dueRestart (p : Pu) : Option Entry := if p.isBusy 5 then none else p.restart.map Entry.restart

/-- The asynchronous entries for which R127 places a reporting boundary before the entry. -/
def dueAsync (s : State) (n : Nat) : Option Entry :=
  firstDue [(true, dueRestart (s.pu n)), (true, dueExt s n), (true, dueIo s n)]

/-- A deferred floating-point trap awaits delivery and may be delivered (R127). -/
def fpPending (p : Pu) : Bool := bit p.fpc.toNat 47 && !p.isBusy 1

/-- An instruction or unit that a retake undid awaits its re-execution: the PU is not at its boundary (R135, R181). -/
def Due.within : Due → Bool
  | .retaken _ _ _ false => true
  | _ => false

/-- The bundle that failed was an entry's (R182). -/
def Due.ofEntry : Due → Bool
  | .retake _ _ _ _ b => b
  | .retaken _ _ _ b => b
  | .none => false

/-- The entry a PU takes at a boundary, in the order of R134; `t4`: the next instruction is of class T4 or FPSYNC. -/
def dueEntry (s : State) (n : Nat) (t4 : Bool) : Option Entry :=
  let p := s.pu n
  let out := !p.due.within
  firstDue [(true, p.mcImm.map Entry.imm), (true, p.prog.map Entry.prog), (out, dueMc p),
            (out && fpPending p && (t4 || (p.resume.isNone && (dueAsync s n).isSome)), some .fp),
            (out, dueAsync s n)]

/-- The exception record of an entry (R133, R140, R145). -/
def entryExc (s : State) (n : Nat) (e : Entry) : Exc :=
  let p := s.pu n
  let mk (cls code : Nat) (param : Word) : Exc :=
    { cls := cls, code := code, fail := 0, ia := BitVec.ofNat 64 (pswIA p.psw), ilen := p.resume.getD 0, slot := 0,
      unit := 0, acc := 0, param := param }
  match e with
  | .imm m => mk 0 m.code (BitVec.ofNat 64 m.seq)
  | .prog x => x
  | .mc .recv q => mk 0 0x2100 (BitVec.ofNat 64 q)
  | .mc .degr q => mk 0 0x2101 (BitVec.ofNat 64 q)
  | .mc .extd q => mk 0 0x2102 (BitVec.ofNat 64 q)
  | .mc .warn q => mk 0 0x2103 (BitVec.ofNat 64 q)
  | .fp => { mk 1 0x0040 0 with fail := p.fpfia, ilen := 0, acc := 6 }
  | .restart i => mk 5 0x4000 (BitVec.ofNat 64 i)
  | .cut w => mk 3 0x1003 w
  | .serv w => mk 3 0x1002 w
  | .xcall m => mk 3 0x1001 (BitVec.ofNat 64 m)
  | .clock => mk 3 0x1000 (p.ctlReg 12)
  | .io i => mk 4 0x3000 (BitVec.ofNat 64 i.ioq)

/-- What the release of an entry's bundle consumes (R182, R320). A program interruption that stays pending after a machine-check
entry stores as its old PSW the handler's (R134). -/
def consume (s : State) (n : Nat) (e : Entry) : State :=
  match e with
  | .imm _ => s.modPu n (fun p =>
      { p with mcImm := none, prog := p.prog.map (fun x => { x with ia := BitVec.ofNat 64 (pswIA p.psw) }) })
  | .prog _ => s.modPu n (fun p => { p with prog := none })
  | .mc .recv _ => s.modPu n (fun p => { p with mcRecv := none })
  | .mc .degr _ => s.modPu n (fun p => { p with mcDegr := none })
  | .mc .extd _ => s.modPu n (fun p => { p with mcExt := none })
  | .mc .warn _ => s.modPu n (fun p => { p with mcWarn := none })
  | .fp => s.modPu n (fun p => { p with fpc := p.fpc &&& ~~~((1 : Word) <<< 47) })
  | .restart _ => s.modPu n (fun p => { p with restart := none })
  | .cut _ => s.modPu n (fun p => { p with cutEv := p.cutEv.tail })
  | .serv _ => { s with serv := s.serv.tail }
  | .xcall _ => s.modPu n (fun p => { p with xcall := none })
  | .clock => s
  | .io i => ({ s with ioInts := s.ioInts.erase i }).modPu n (fun p => { p with ioResv := none })

/-- Takes one entry; none while the merging buffer has no room for its stores or the slot's line is away. A lockup leaves the
source pending. The boundary at which a second entry follows is no unit boundary any more: the PU is at the handler's first
instruction, so a deferred floating-point report is delivered before a second asynchronous entry (log entry 128). -/
def takeEntry (s : State) (n : Nat) (e : Entry) : Option State :=
  let (regv, pswv) := match e with
    | .imm m => (m.regv, m.pswv)
    | .mc _ _ => (true, true)
    | _ => (false, true)
  (enter s n (entryExc s n e) regv pswv).map (fun t =>
    if puLocked t n then t else (consume t n e).modPu n (fun p => { p with resume := none }))

/-- Takes the entries due at a boundary until none is due (R134). -/
def takeAll : Nat → State → Nat → Bool → State
  | 0, s, _, _ => s
  | k + 1, s, n, t4 =>
    if puLocked s n then s
    else match dueEntry s n t4 with
      | none => s
      | some e => match takeEntry s n e with
        | none => s
        | some t => takeAll k t n false

/-- Steps 1 and 2 of R134 for the instruction just ended. -/
def takeProg : Nat → State → Nat → State
  | 0, s, _ => s
  | k + 1, s, n =>
    if puLocked s n then s
    else
      let p := s.pu n
      match firstDue [(true, p.mcImm.map Entry.imm), (true, p.prog.map Entry.prog)] with
      | none => s
      | some e => match takeEntry s n e with
        | none => s
        | some t => takeProg k t n

end Sys2Proof.Machine
end

