-- ==== Sys2Proof/Machine/Voting.lean ====
section
/-! DEFINITION. The voters (R175 to R188): what the vote on an instruction's bundle leads to, the boundaries that stop a
PU, and the run of one instruction. -/

namespace Sys2Proof.Machine

/-- PSW.IA of a PU as a word. -/
def iaOf (s : State) (n : Nat) : Word := BitVec.ofNat 64 (pswIA (s.pu n).psw)

/-! ### Roles, cores and stand-ins -/

/-- The DISSTRK register of a role. -/
def dissReg (n : Nat) (r : Role) : Nat := puReg n (0x10 + 8 * roleNum r)

/-- A role filled with a core: DISSTRK at its Reset values with the new core. -/
def fillRole (s : State) (n : Nat) (r : Role) (core : Nat) : State :=
  let s := ccsSet s (puReg n 8) (roleTop r) (roleTop r - 7) (0x80 + core)
  ccsPut s (dissReg n r) (BitVec.ofNat 64 (core * 2 ^ 58))

/-- A role left vacant: DISSTRK reads CORE 0x3F (R185). -/
def vacateRole (s : State) (n : Nat) (r : Role) : State :=
  let s := ccsSet s (puReg n 8) (roleTop r) (roleTop r - 7) 0
  ccsPut s (dissReg n r) (BitVec.ofNat 64 (0x3F * 2 ^ 58))

def roles : List Role := [.lead, .trail2, .trail4]

/-- MODE from the filled roles: triad, or duplex. -/
def setMode (s : State) (n : Nat) : State :=
  ccsSet s (puReg n 0) 59 58 (if roles.all (roleFilled s n) then 0 else 1)

/-- SIFREE is die-wide: set in every PU of the die. -/
def setSifree (s : State) (d v : Nat) : State :=
  (diePus d).foldl (fun s n => ccsSet s (puReg n 8) 35 32 v) s

def sifree (s : State) (d : Nat) : Nat := ccsFld s (puReg (10 * d) 8) 35 32

/-- The cores a running stand-in sync has taken on a die. -/
def syncing (s : State) (d : Nat) : List Nat :=
  (diePus d).filterMap (fun n => (s.pu n).standIn.map (·.core))

/-- The die's free stand-ins, lowest first. -/
def freeStandIns (s : State) (d : Nat) : List Nat :=
  ((List.range 34).filter (fun c =>
    (decide (30 ≤ c) && bit (sifree s d) (c - 30)) || s.freeCores.contains (64 * d + c))).filter
      (fun c => !(syncing s d).contains c)

/-- A core joins the free stand-ins of its die. -/
def freeCore (s : State) (d c : Nat) : State :=
  if 30 ≤ c then setSifree s d (sifree s d ||| 2 ^ (c - 30)) else { s with freeCores := s.freeCores ++ [64 * d + c] }

/-- A core leaves the free stand-ins. -/
def takeCore (s : State) (d c : Nat) : State :=
  if 30 ≤ c then setSifree s d (setBits (sifree s d) (c - 30) (c - 30) 0)
  else { s with freeCores := s.freeCores.filter (· != 64 * d + c) }

/-- The stand-in sync in progress, with PUSTAT.SYNC beside it. -/
def setSync (s : State) (n : Nat) (v : Option StandIn) : State :=
  ccsSet (s.modPu n (fun p => { p with standIn := v })) (puReg n 0) 57 57 (b2n v.isSome)

/-- A stand-in sync begins with the lowest-numbered free one (R186); the PU stays duplex where none is free. -/
def startSync (s : State) (n : Nat) (r : Role) : State :=
  match freeStandIns s (n / 10) with
  | [] => s
  | c :: _ => setSync s n (some { role := r, core := c, phase := 0 })

/-- A freed stand-in is synced into a duplex PU of the die, the lowest slot first (R188). -/
def resupply (s : State) (d : Nat) : State :=
  (diePus d).foldl (fun s n =>
    if puMode s n = 1 ∧ (s.pu n).standIn = none ∧ (puState s n = 0 ∨ puState s n = 1 ∨ puState s n = 2) then
      match roles.find? (fun r => !roleFilled s n r) with
      | some r => startSync s n r
      | none => s
    else s) s

/-- A stand-in sync abandoned (R187): logged, its stand-in free again. -/
def abandonSync (s : State) (n : Nat) (cause : BitVec 4) : State :=
  match (s.pu n).standIn with
  | none => s
  | some y => logEvent (setSync s n none) n 0x0F cause.toNat (roleNum y.role) y.core (iaOf s n) 0

/-- A running microstore copy starts again from its first word (R187). -/
def restartCopy (s : State) (n : Nat) (cause : BitVec 4) : State :=
  match (s.pu n).standIn with
  | none => s
  | some y =>
    if y.phase = 0 then s
    else logEvent (setSync s n (some { y with phase := 1 })) n 0x0F cause.toNat (roleNum y.role) y.core (iaOf s n) 0

/-! ### Boundaries that stop a PU -/

/-- A PU's partition is being reset (R428). -/
def presetting (s : State) (n : Nat) : Bool :=
  match s.boot.job with
  | some (.preset p _) => p == puPart s n
  | _ => false

/-- A LOAD or UNLOAD holds the PUs of the PU's partition, or a partition reset does (R166, R428). -/
def loading (s : State) (n : Nat) : Bool := s.loader.any (fun j => j.part == puPart s n && !(j.load && j.words == 0)) || presetting s n

/-- A restart that a STOPPED PU may take makes it run, and it takes it before anything else (R113, R143); while the loader or a
partition reset holds its partition, or a debug halt the PU, it waits for their end (R166, R436). -/
def wakeRestart (s : State) (n : Nat) : State :=
  if puState s n = 2 ∧ puLocked s n = false ∧ (s.pu n).halted = false ∧ (dueRestart (s.pu n)).isSome = true then
    if loading s n then s.modPu n (fun p => { p with loaderStop := true })
    else if (s.pu n).loaderStop then s
    else setPuState s n 1
  else s

/-- A debug halt breaks lock-step (R193); the stand-in of an abandoned sync is free for another PU (R188). -/
def breakLockStep (s : State) (n : Nat) : State :=
  let s := abandonSync s n 8
  let s := s.modPu n (fun p => { p with haltReq := false, halted := true })
  let s := ccsSet (ccsSet s (puReg n 0) 59 58 2) (puReg n 0) 56 56 1
  resupply (logEvent s n 0x0C 8 3 0 (iaOf s n) 0) (n / 10)

/-- No request of the instruction in progress has been answered but a unit that still waits at an engine: the PU is at a
unit boundary (R363). -/
def atBoundary (p : Pu) : Bool := p.latch.all (fun e => e.kind == .engine && e.resp.isNone)

/-- Nothing of the instruction just ended is left to take, and no resync or retake comes first (R134, R180). -/
def Pu.rested (p : Pu) : Bool :=
  p.mcImm.isNone && p.prog.isNone && p.resync.isNone && decide (p.due = .none) && atBoundary p

/-- A held SIGPU stop acts at the boundary once no entry is due there (R113); the loader then did not stop the PU. -/
def haltStop (s : State) (n : Nat) : State :=
  if (s.pu n).stopHeld && (dueEntry s n false).isNone then
    setPuState (s.modPu n (fun p => { p with stopHeld := false, loaderStop := p.loaderStop && presetting s n })) n 2
  else s

/-- The loader's stop acts at the boundary (R166, R428). A PU that is locked up stands still already. -/
def haltLoader (s : State) (n : Nat) : State :=
  if (s.pu n).loaderStop && puState s n == 1 then
    if puLocked s n && !presetting s n then s.modPu n (fun p => { p with loaderStop := false }) else setPuState s n 2
  else s

/-- A debug step ends at the boundary once no entry is due, and a debug halt acts there (R193, R436). -/
def haltDebug (s : State) (n : Nat) : State :=
  let s := if (s.pu n).stepArm && (dueEntry s n false).isNone then s.modPu n (fun p => { p with stepArm := false }) else s
  if (s.pu n).haltReq then breakLockStep s n else s

/-- What stops a PU at its boundary, after the resync or retake that is due and the entries of the instruction just ended. A PU in
debug halt is not at one. -/
def halts (s : State) (n : Nat) : State :=
  if (s.pu n).halted && !(s.pu n).stepArm then s
  else if puLocked s n then haltLoader s n
  else if (s.pu n).rested then haltDebug (haltLoader (haltStop s n) n) n
  else s

/-- The boundary that ends an instruction or unit whose bundles all agree: its own interruption is taken, a PU that stops takes
every entry due (R113, R134, R436), and then what stops it acts. With a resync due nothing comes before it (R180). -/
def boundary (s : State) (n : Nat) : State :=
  if (s.pu n).resync.isSome then s
  else
    let s := takeProg 2 s n
    halts (if (s.pu n).stopHeld || (s.pu n).stepArm then takeAll 8 s n false else s) n

/-! ### Outcomes of the vote (R178, R179, R184 to R188) -/

/-- The PU checkstops (R190): a stand-in sync is abandoned, and its slate, latch and unit hold stay, with the retake that
MOVESLATE would make still due. A status reserved for its entry is pending again (R320). -/
def checkstop (s : State) (n : Nat) (cause : BitVec 4) : State :=
  let s := logEvent s n 0x09 cause.toNat 3 0 (iaOf s n) 0
  let s := setPuState (abandonSync s n cause) n 3
  let s := attend s 2
  let s := s.modPu n (fun p => { p with due := .retake cause false false 0 p.due.ofEntry, resync := none, ioResv := none })
  resupply s (n / 10)

/-- Dissent times 2^20 shutters old leave the window of a role (R185). -/
def dissExpire (s : State) (n : Nat) (r : Role) : State :=
  let a := dissReg n r
  let old (t : Nat) : Bool := decide (2 ^ 20 ≤ (shCount s + 2 ^ 24 - t) % 2 ^ 24)
  match ccsFld s a 57 56 with
  | 0 => s
  | 1 => if old (ccsFld s a 23 0) then ccsSet (ccsSet s a 23 0 0) a 57 56 0 else s
  | _ =>
    if old (ccsFld s a 23 0) then ccsSet (ccsSet (ccsSet s a 23 0 0) a 47 24 0) a 57 56 0
    else if old (ccsFld s a 47 24) then ccsSet (ccsSet s a 47 24 0) a 57 56 1
    else s

/-- Charges one dissent to the core of a role (R185); true when it finds two times in the window. -/
def charge (s : State) (n : Nat) (r : Role) : State × Bool :=
  let a := dissReg n r
  let now := shCount s % 2 ^ 24
  let s := ccsAdd (dissExpire s n r) a 55 48 1
  match ccsFld s a 57 56 with
  | 0 => (ccsSet (ccsSet s a 23 0 now) a 57 56 1, false)
  | 1 => (ccsSet (ccsSet (ccsSet s a 47 24 (ccsFld s a 23 0)) a 23 0 now) a 57 56 2, false)
  | _ => (s, true)

/-- A dissent by a parity error on a core's microword fetch (R160): the word is bad in that core's store until it is rewritten. -/
def badMicro (s : State) (n : Nat) (r : Role) (cause : BitVec 4) : State :=
  if cause = 4 then s.modPu n (fun p => { p with microBad := r :: p.microBad.filter (· != r) }) else s

/-- One core dissents (R178): logged, counted and charged, masked until the resync that is due. -/
def maskDissent (s : State) (n : Nat) (r : Role) (cause : BitVec 4) (ia detail : Word) : State :=
  let s := logPend s n 0x01 cause.toNat (roleNum r) (roleCore s n r) ia detail .recv
  let s := ccsAdd s (puReg n 0x28) 63 48 1
  let t := charge s n r
  (badMicro t.1 n r cause).modPu n (fun p => { p with resync := some (.dissent r cause t.2) })

/-- The instruction is undone: the PU's architected registers and merging buffer are those of the slate; the requests that were
released and their responses stay latched (R181). -/
def undo (before after : State) (n : Nat) : State :=
  let o := before.pu n
  after.modPu n (fun p =>
    { p with g := o.g, b := o.b, rsp := o.rsp, psw := o.psw, ctl := o.ctl, pfxArea := o.pfxArea, fpc := o.fpc,
             fpfia := o.fpfia, busy := o.busy, mb := o.mb, unitHold := o.unitHold, prog := o.prog, lastTod := o.lastTod,
             tbMark := o.tbMark, resume := o.resume, latchPos := 0, due := o.due })

def setDue (s : State) (n : Nat) (d : Due) : State := s.modPu n (fun p => { p with due := d })

/-- The output of a Bellows or Mute unit goes to memory when its completing bundle is released (R182, R366). -/
def flushUnit (s : State) (n : Nat) : State :=
  if (s.pu n).job.isSome then
    (s.pu n).unitHold.foldl HeldStore.perform (s.modPu n (fun p => { p with unitHold := [], job := none }))
  else s

/-- The retake that a released bundle ends has succeeded (R178). -/
def succeed (s : State) (n : Nat) (ia : Word) : State :=
  match (s.pu n).due with
  | .retaken cause _ seq _ =>
    let s := setDue s n .none
    let s := if seq = 0 then s else mcPend s n .recv seq
    logPend s n 0x02 cause.toNat 3 0 ia 0 .recv
  | _ => s

/-- The output of an instruction is released: the latch is emptied, and the retake it ends has succeeded (R177, R178). -/
def release (s : State) (n : Nat) (ia : Word) : State :=
  succeed ((flushUnit s n).modPu n (fun p => { p with latch := [], latchPos := 0 })) n ia

/-- No majority: a retake is due, or the PU checkstops when the retake failed. `entry`: the bundle was an entry's. -/
def noMajority (s : State) (n : Nat) (cause : BitVec 4) (entry : Bool) : State :=
  match (s.pu n).due with
  | .retaken _ _ _ _ => checkstop s n cause
  | .retake _ _ _ _ _ => s
  | .none => setDue s n (.retake cause false false 0 entry)

/-- A duplex pair disagrees (R187, R188): the third mismatch inside the window checkstops the PU, and a microstore copy
starts again. -/
def duplexMismatch (s : State) (n : Nat) (cause : BitVec 4) (r core : Nat) (detail : Word) (entry : Bool) : State :=
  let seq := nextSeq s n
  let d := (s.pu n).due
  let s := logEvent (ccsAdd s (puReg n 0x28) 15 0 1) n 0x08 cause.toNat r core (iaOf s n) detail
  let now := shCount s
  let ts := (s.pu n).dupTimes.filter (fun t => decide (now < t + 2 ^ 20))
  match d with
  | .retaken _ _ _ _ => checkstop s n cause
  | _ =>
    if 2 ≤ ts.length then checkstop s n cause
    else
      let s := restartCopy s n cause
      s.modPu n (fun p => { p with due := .retake cause false false seq entry, dupTimes := ts ++ [now] })

/-- VA and VB disagree (R178, R184): a retake is due, with the self-check of a recurring disagreement when the retake
met it again. -/
def voterDisagree (s : State) (n : Nat) (entry : Bool) : State :=
  let seq := nextSeq s n
  let d := (s.pu n).due
  let s := logEvent (ccsAdd s (puReg n 0x28) 31 16 1) n 0x03 5 3 0 (iaOf s n) 0
  match d with
  | .retaken c v q _ => setDue s n (if v then .retake c true true q entry else .retake 5 true false seq entry)
  | _ => setDue s n (.retake 5 true false seq entry)

/-- One core's bundle differs, is missing or is marked, and no full majority masks it (R178, R179, R188, R193). -/
def dissentRetake (s : State) (n : Nat) (r : Role) (cause : BitVec 4) (detail : Word) (entry : Bool) : State :=
  let s := badMicro s n r cause
  if puMode s n = 1 then duplexMismatch s n cause (roleNum r) (roleCore s n r) detail entry else noMajority s n cause entry

/-- A bundle that is not released: what its outcome leads to, on the state in which it has had no effect (R178). -/
def notReleased (s : State) (n : Nat) (v : Vote) (entry : Bool) : State :=
  match v with
  | .agree => s
  | .agreeOnly => s
  | .voterDisagree => voterDisagree s n entry
  | .noMajority cause => if puMode s n = 1 then duplexMismatch s n cause 3 0 0 entry else noMajority s n cause entry
  | .dissent r cause detail => dissentRetake s n r cause (detail.setWidth 64) entry

/-- A dissent that the majority masks (R178, R179). -/
def masks (s : State) (n : Nat) : Vote → Option (Role × BitVec 4 × Word)
  | .dissent r cause detail => if votes s n r && fullTriad s n then some (r, cause, detail.setWidth 64) else none
  | _ => none

/-- The outcome of the vote on an instruction or unit that ran from `before` to `after` (R178). -/
def voted (before after : State) (n : Nat) (v : Vote) : State :=
  let ia := iaOf before n
  if votedDown before n v then notReleased (undo before after n) n v false
  else
    let rel := release after n ia
    match masks before n v with
    | some (r, cause, detail) => maskDissent rel n r cause ia detail
    | none => if v = .agreeOnly then halts rel n else boundary rel n

/-- The vote on a request that left in this command while the instruction goes on waiting (R175, R178). -/
def votedRequest (before after : State) (n : Nat) (v : Vote) : State :=
  if (before.pu n).latch.length < (after.pu n).latch.length then
    match masks before n v with
    | some (r, cause, detail) => maskDissent after n r cause (iaOf before n) detail
    | none => after
  else after

/-! ### Running one instruction -/

/-- The PU fetches instructions: STATE RUN, not locked up, its die not fenced, not halted by debug unless stepping, no
retake due, and no resync due that its boundary must see first (R180). -/
def canRun (s : State) (n : Nat) : Bool :=
  let p := s.pu n
  puState s n == 1 && !puLocked s n && (!p.halted || p.stepArm)
    && ccsFld s (dieReg (n / 10) 0) 63 63 == 0
    && (match p.due with | .retake _ _ _ _ _ => false | _ => true)
    && (p.resync.isNone || p.due.within || !atBoundary p)

/-- A waiting unit is given up for an interruption (R94, R363). -/
def leaveUnit (s : State) (n : Nat) : State := s.modPu n (fun p => { p with latch := [], job := none })

/-- The status that an entry takes is reserved for the PU until its bundle is released (R320). -/
def reserve (s : State) (n : Nat) : Entry → State
  | .io i => s.modPu n (fun p => { p with ioResv := some i })
  | _ => s

/-- An entry and the vote on its bundle (R139, R173, R178, R182): released, it is taken; masked, a resync is due; otherwise the
interruption stays pending and the entry is made again after a retake. Nothing while the entry waits. -/
def enterVoted (s : State) (n : Nat) (e : Entry) (v : Vote) : State :=
  match takeEntry (leaveUnit s n) n e with
  | none => s
  | some t =>
    if votedDown s n v then notReleased (reserve (leaveUnit s n) n e) n v true
    else
      let t := succeed t n (iaOf s n)
      match masks s n v with
      | some (r, cause, detail) => maskDissent t n r cause (iaOf s n) detail
      | none => if v = .agree then halts (takeAll 8 t n false) n else halts t n

/-- Runs the instruction of a command at PSW.IA. A PU that fetches nothing, or waits, ignores it; entries due before it
are taken and the instruction is not begun (R134); otherwise its checks and effects run and its bundle is voted. -/
def runInstr (h : Hdr) (t4 : Bool) (body : M Unit) (s : State) : State :=
  let n := h.pu.val
  if !canRun s n || pswW (s.pu n).psw then s
  else match (if atBoundary (s.pu n) then dueEntry s n t4 else none) with
  | some e => enterVoted s n e h.vote
  | none =>
    let s0 := s.modPu n (fun p => { p with latchPos := 0 })
    match body (s0.modPu n (fun p => { p with resume := none, touched := [] })) with
    | .ok _ t => voted s0 (settle t n) n h.vote
    | .error (.exc e) t => voted s0 ((settle t n).modPu n (fun p => { p with prog := some e })) n h.vote
    | .error .unvoted t => voted s0 (settle t n) n h.vote
    | .error .wait t =>
      votedRequest s0 ((settle t n).modPu n (fun p => { p with resume := p.resume <|> (s.pu n).resume })) n h.vote

end Sys2Proof.Machine
end

