-- ==== Sys2Proof/Machine/Flags.lean ====
section
/-! DEFINITION. Condition codes (R96, R97, R116), result tags (R35) and the overflow exceptions that complete an
instruction (R84). -/

namespace Sys2Proof.Machine

/-- The operand width in bits (R68). -/
def Ctx.bitsOf (c : Ctx) : Nat := if c.narrow then 32 else 64

/-- The operand as an unsigned number of the width. -/
def uval (b : Nat) (w : Word) : Nat := w.toNat % 2 ^ b

/-- The operand as a signed number of the width. -/
def sval (b : Nat) (w : Word) : Int :=
  let u := uval b w
  if u < 2 ^ (b - 1) then (u : Int) else (u : Int) - 2 ^ b

/-- A result of the width as a register holds it: sign-extended (R68). -/
def widen (b : Nat) (x : Int) : Word :=
  if b = 64 then BitVec.ofInt 64 x else (BitVec.ofInt 32 x).signExtend 64

/-- The signed result fits the width. -/
def fits (b : Nat) (x : Int) : Bool := decide (-(2 ^ (b - 1) : Int) ≤ x) && decide (x < (2 ^ (b - 1) : Int))

/-- Condition code of an INT result (R96). -/
def ccInt (b : Nat) (x : Int) : Nat := if !fits b x then 3 else if x = 0 then 0 else if x < 0 then 1 else 2

/-- Condition code of a PTR result (R96). -/
def ccPtr (b : Nat) (x : Int) : Nat := if x < 0 ∨ (2 ^ b : Int) ≤ x then 3 else if x = 0 then 0 else 2

/-- Condition code of a compare (R96). -/
def ccCmp (x y : Int) : Nat := if x = y then 0 else if x < y then 1 else 2

/-- Condition code of AND, OR, XOR and NOT (R97). -/
def ccLogic (b : Nat) (w : Word) : Nat := if uval b w = 0 then 0 else 1

/-- Condition code of a shift (R97). -/
def ccShift (b : Nat) (w : Word) : Nat :=
  if uval b w = 0 then 0 else if uval b w / 2 ^ (b - 1) = 1 then 1 else 2

/-- Result tag of a logical or shift instruction (R35). -/
def logicTag (ts : List Tag) : Tag := if ts.all (fun t => t == tagInt) then tagInt else tagBytes

/-- The type an instruction takes an operand as: its tag where accepted, otherwise, under an honoured 0xEB, the first
type the instruction expects (R38). -/
def asType (ok : List Tag) (dflt t : Tag) : Tag := if ok.contains t then t else dflt

def tagsInt : List Tag := [tagInt]
def tagsIntPtr : List Tag := [tagInt, tagPtr]
def tagsLogic : List Tag := [tagInt, tagBytes]
def tagsBfp : List Tag := [tagBfp]
def tagsDec : List Tag := [tagDec]
def tagsCode : List Tag := [tagCode]
def tagsCmp : List Tag := [tagInt, tagPtr, tagBytes, tagBfp, tagDec]
def tagsCmpu : List Tag := [tagInt, tagPtr, tagBytes]
def tagsNarrow : List Tag := [tagInt, tagBytes, tagPtr, tagBfp, tagDec, tagUninit]

/-- Every tag but SEALED, POISON and the reserved ones: for operands whose tag is an own check of step 7. -/
def tagsOwn : List Tag :=
  [tagUninit, tagInt, tagBfp, tagDec, tagBytes, tagPtr, tagDesc, tagCode, tagRetaddr, tagCustom]

/-- All sixteen tags: for TAGGET and TAGCHK, and for an operand whose every tag is left to step 7 (R90, R99). -/
def tagsAny : List Tag := (List.range 16).map (BitVec.ofNat 4)

/-- A tag is one of an accepted set, or relaxed to it under R38. -/
def accepted (c : Ctx) (ok : List Tag) (t : Tag) : Bool := (tagFault c.relax ok t).isNone

/-- An exception that completes the instruction: the old PSW addresses the next one (R84, R140). -/
def raiseAfter (c : Ctx) (code : Nat) : M Unit :=
  throw (.exc { c.exc code c.ia 0 0 6 with ia := BitVec.ofNat 64 c.next })

/-- Fixed-point overflow after the instruction when cc3 and PSW.IOV (R96). -/
def overflowInt (c : Ctx) (cc : Nat) : M Unit := do
  let s ← get
  if cc = 3 && pswIOV (s.pu c.pu).psw then raiseAfter c 0x0008

/-- The bytes at PSW.IA can be fetched and decode to the instruction: only then is the boundary before it one before a T4
instruction (R127). -/
def decodes (h : Hdr) (i : OpInfo) (sp : List Spec) (s : State) : Bool :=
  match decodeM h i sp s with
  | .ok _ _ => true
  | .error _ _ => false

/-- The command of an instruction row: decoding and prelude, then its own body. -/
def instr (h : Hdr) (i : OpInfo) (sp : List Spec) (body : Ctx → M Unit) (s : State) : Host.Outcome State Fault Refusal :=
  .next (runInstr h (i.t4 && decodes h i sp s) (prelude h i sp >>= body) s)

/-- A register operand's number. -/
def regNum : Spec → Nat
  | .reg n => n.toNat
  | _ => 0

/-- A register operand, its tag checked. -/
def readReg (c : Ctx) (slot : Nat) (ok : List Tag) (n : Nat) : M TWord := readLoc c slot ok (.reg n)

end Sys2Proof.Machine
end

