-- ==== Sys2Proof/Machine/Loads.lean ====
section
/-! DEFINITION. Loads, stores and whole-word moves (R87 to R91). -/

namespace Sys2Proof.Machine

def opLoad : OpInfo := { opLen := 1, slots := [(.R, .wr), (.M, .rd)], o := true, a := false, n := false, pl := 3, t4 := false }
def opStore : OpInfo := { opLen := 1, slots := [(.M, .wr), (.S, .rd)], o := true, a := false, n := false, pl := 3, t4 := false }

/-- The tag of a narrow load's result (R36). -/
def narrowLoadTag (t : Tag) : Tag := if t = tagUninit then tagUninit else tagInt

/-- A load of `len` bytes into a register (R36, R87). -/
def loadBody (len : Nat) (op1 op2 : Spec) (c : Ctx) : M Unit := do
  let w ← source c (place opLoad [op1, op2] 2) len (if len = 8 then tagsWhole else tagsNarrow) op2
  let r := if len = 8 then w else ⟨w.data, narrowLoadTag w.tag⟩
  commitTo c opLoad [op1, op2] (.reg (regNum op1)) r id

/-- A store of the low `len` bytes of a source, or of the whole word with its tag (R37, R87). -/
def storeBody (len : Nat) (op1 op2 : Spec) (c : Ctx) : M Unit := do
  let l ← target c (place opStore [op1, op2] 1) len op1
  let w ← source c (place opStore [op1, op2] 2) 8 (if len = 8 then tagsWhole else tagsLogic) op2
  checkDest c l w.tag
  commitTo c opStore [op1, op2] l w id

def execLd (h : Hdr) (op1 op2 : Spec) (s : State) : Host.Outcome State Fault Refusal :=
  instr h opLoad [op1, op2] (loadBody 8 op1 op2) s

def execLdw (h : Hdr) (op1 op2 : Spec) (s : State) : Host.Outcome State Fault Refusal :=
  instr h opLoad [op1, op2] (loadBody 4 op1 op2) s

def execLdh (h : Hdr) (op1 op2 : Spec) (s : State) : Host.Outcome State Fault Refusal :=
  instr h opLoad [op1, op2] (loadBody 2 op1 op2) s

def execLdb (h : Hdr) (op1 op2 : Spec) (s : State) : Host.Outcome State Fault Refusal :=
  instr h opLoad [op1, op2] (loadBody 1 op1 op2) s

def execSt (h : Hdr) (op1 op2 : Spec) (s : State) : Host.Outcome State Fault Refusal :=
  instr h opStore [op1, op2] (storeBody 8 op1 op2) s

def execStw (h : Hdr) (op1 op2 : Spec) (s : State) : Host.Outcome State Fault Refusal :=
  instr h opStore [op1, op2] (storeBody 4 op1 op2) s

def execSth (h : Hdr) (op1 op2 : Spec) (s : State) : Host.Outcome State Fault Refusal :=
  instr h opStore [op1, op2] (storeBody 2 op1 op2) s

def execStb (h : Hdr) (op1 op2 : Spec) (s : State) : Host.Outcome State Fault Refusal :=
  instr h opStore [op1, op2] (storeBody 1 op1 op2) s

def opLda : OpInfo := { opLen := 1, slots := [(.R, .wr), (.A, .addr)], o := false, a := false, n := false, pl := 3, t4 := false }

/-- LDA (R89): the offset alone, with no access check. -/
def execLda (h : Hdr) (op1 op2 : Spec) (s : State) : Host.Outcome State Fault Refusal :=
  instr h opLda [op1, op2] (fun c => do
    let (_, o) ← specAddr c (place opLda [op1, op2] 2) op2
    commitTo c opLda [op1, op2] (.reg (regNum op1)) ⟨BitVec.ofNat 64 o, tagPtr⟩ id) s

/-- A bank number (R90): tagged INT and 0 to 7, checked at step 7. -/
def bankNumber (c : Ctx) (w : TWord) : M Nat := do
  guardM (accepted c tagsInt w.tag && decide (w.data.toNat < 8)) (c.fail 0x0006)
  pure w.data.toNat

/-- The two words of a located pair as the PU reads them, each checked under step 10. -/
def readPair (c : Ctx) (ok : List Tag) : List MLoc → M (List TWord)
  | [] => pure []
  | m :: ms => do
    let w ← readWord c m
    checkRead c m c.relax ok w.tag
    let r ← readPair c ok ms
    pure (w :: r)

/-- A memory operand of n words (R54, R84): its bank and offset, then its words. -/
def longOperand (c : Ctx) (pl : Place) (n al : Nat) (sp : Spec) : M (List MLoc) := do
  let (b, o) ← specAddr c pl sp
  longLoc c pl.slot b o n al pl.use.kind pl.use.right

def opLdbank : OpInfo := { opLen := 1, slots := [(.S, .rd), (.M, .rd)], o := true, a := false, n := false, pl := 3, t4 := false }

/-- LDBANK (R43, R90). -/
def execLdbank (h : Hdr) (op1 op2 : Spec) (s : State) : Host.Outcome State Fault Refusal :=
  instr h opLdbank [op1, op2] (fun c => do
    let k ← source c (place opLdbank [op1, op2] 1) 8 tagsAny op1
    let ms ← longOperand c (place opLdbank [op1, op2] 2) 2 16 op2
    let ws ← readPair c tagsOwn ms
    let n ← bankNumber c k
    match ws with
    | [b, a] => do
      guardM (decide (b.tag = tagDesc) && decide (a.tag = tagDesc) && attrValid a.data) (c.fail 0x0020 0 n)
      commit c opLdbank [op1, op2] [] (fun p => p.setBank n ⟨b, a⟩)
    | _ => pure ()) s

/-- The stores of whole words into located words. -/
def pairStores (s : State) (n : Nat) : List MLoc → List TWord → List Store
  | m :: ms, w :: ws => storeOf s n m w :: pairStores s n ms ws
  | _, _ => []

/-- The POLICY checks of whole-word stores into located words (R44). -/
def pairPolicy (c : Ctx) : List MLoc → List TWord → M Unit
  | m :: ms, w :: ws => do
    checkPolicy c m w.tag
    pairPolicy c ms ws
  | _, _ => pure ()

/-- STBANK (R90). -/
def execStbank (h : Hdr) (op1 op2 : Spec) (s : State) : Host.Outcome State Fault Refusal :=
  instr h opStore [op1, op2] (fun c => do
    let ms ← longOperand c (place opStore [op1, op2] 1) 2 16 op1
    let k ← source c (place opStore [op1, op2] 2) 8 tagsAny op2
    let n ← bankNumber c k
    let s ← get
    let b := (s.pu c.pu).bank n
    let ws := if b.base.tag = tagDesc ∧ b.attr.tag = tagDesc then [b.base, b.attr] else [uninitWord, uninitWord]
    pairPolicy c ms ws
    commit c opStore [op1, op2] (pairStores s c.pu ms ws) id) s

def opLdx : OpInfo := { opLen := 1, slots := [(.R, .wr), (.R, .rd)], o := true, a := false, n := false, pl := 3, t4 := false }
def opStx : OpInfo := { opLen := 1, slots := [(.R, .rd), (.R, .rd)], o := true, a := false, n := false, pl := 3, t4 := false }

/-- The implicit operand of LDX and STX (R89): 8 bytes at an offset of B6, or of the bank an override names. -/
def implicitLoc (c : Ctx) (off : Nat) (k : Kind) (need : Right) : M MLoc :=
  memLoc c 4 (c.bank.getD 6) off 8 k need

def execLdx (h : Hdr) (op1 op2 : Spec) (s : State) : Host.Outcome State Fault Refusal :=
  instr h opLdx [op1, op2] (fun c => do
    let o ← readReg c 2 tagsIntPtr (regNum op2)
    let m ← implicitLoc c o.data.toNat .load .r
    let w ← readLoc c 4 tagsWhole (.mem m)
    commitTo c opLdx [op1, op2] (.reg (regNum op1)) w id) s

def execStx (h : Hdr) (op1 op2 : Spec) (s : State) : Host.Outcome State Fault Refusal :=
  instr h opStx [op1, op2] (fun c => do
    let o ← readReg c 1 tagsIntPtr (regNum op1)
    let w ← readReg c 2 tagsWhole (regNum op2)
    let m ← implicitLoc c o.data.toNat .store .w
    checkDest c (.mem m) w.tag
    commitTo c opStx [op1, op2] (.mem m) w id) s

def opMov : OpInfo := { opLen := 1, slots := [(.D, .wr), (.S, .rd)], o := true, a := false, n := false, pl := 3, t4 := false }

/-- MOV (R91). -/
def execMov (h : Hdr) (op1 op2 : Spec) (s : State) : Host.Outcome State Fault Refusal :=
  instr h opMov [op1, op2] (fun c => do
    let l ← target c (place opMov [op1, op2] 1) 8 op1
    let w ← source c (place opMov [op1, op2] 2) 8 tagsWhole op2
    checkDest c l w.tag
    commitTo c opMov [op1, op2] l w id) s

end Sys2Proof.Machine
end

