-- ==== Sys2Proof/Machine/Atomics.lean ====
section
/-! DEFINITION. What integer, logical and atomic operations compute (R35, R96, R97, R103), and how an atomic is performed
near or far (R218, R243 to R246). -/

namespace Sys2Proof.Machine

/-- Result of an operation on one word: its data, its tag and the condition code. -/
structure Res where
  data : Word
  tag  : Tag
  cc   : Nat
deriving DecidableEq, Repr

/-- Add and subtract (R35, R96); none where R35 refuses the pair of tags. -/
def addSub (sub : Bool) (b : Nat) (x y : TWord) : Option Res :=
  let tx := asType tagsIntPtr tagInt x.tag
  let ty := asType tagsIntPtr tagInt y.tag
  let sgn (v : Int) : Int := if sub then -v else v
  if tx = tagPtr ∧ ty = tagPtr then
    if sub then
      let r : Int := (uval b x.data : Int) - uval b y.data
      some ⟨widen b r, tagInt, ccInt b r⟩
    else none
  else if tx = tagInt ∧ ty = tagInt then
    let r := sval b x.data + sgn (sval b y.data)
    some ⟨widen b r, tagInt, ccInt b r⟩
  else
    let xv : Int := if tx = tagPtr then (uval b x.data : Int) else sval b x.data
    let yv : Int := if ty = tagPtr then (uval b y.data : Int) else sval b y.data
    let r := xv + sgn yv
    some ⟨widen b r, tagPtr, ccPtr b r⟩

/-- NEG (R95). -/
def negate (b : Nat) (x : TWord) : Res :=
  let r := -(sval b x.data)
  ⟨widen b r, tagInt, ccInt b r⟩

/-- AND, OR, XOR on data. -/
def logicData (op : AtomOp) (x y : Word) : Word :=
  match op with
  | .and => x &&& y
  | .or => x ||| y
  | .xor => x ^^^ y
  | .not => ~~~x
  | _ => x

/-- AND, OR, XOR and NOT (R97). -/
def logic (op : AtomOp) (b : Nat) (x y : TWord) : Res :=
  let d := widen b (sval b (logicData op x.data y.data))
  ⟨d, logicTag (([x.tag] ++ (if op = .not then [] else [y.tag])).map (asType tagsLogic tagInt)), ccLogic b d⟩

/-- The tags an operation accepts for the word it updates. -/
def AtomOp.accepts : AtomOp → Bool → List Tag
  | .cas, _ => tagsWhole
  | .fadd, narrow => if narrow then tagsInt else tagsIntPtr
  | .add, _ => tagsIntPtr
  | .sub, _ => tagsIntPtr
  | .neg, _ => tagsInt
  | _, _ => tagsLogic

/-- The result of an update of x with y; none where the pair of tags is refused (R35). -/
def opResult (op : AtomOp) (b : Nat) (x y : TWord) : Option Res :=
  match op with
  | .add => addSub false b x y
  | .fadd => addSub false b x y
  | .sub => addSub true b x y
  | .neg => some (negate b x)
  | .cas => none
  | _ => some (logic op b x y)

/-- What an atomic leaves: the word to write (none when CAS does not swap), the old operand with its tag, and cc. -/
structure AtomRes where
  write : Option TWord
  old   : TWord
  cc    : Nat
deriving DecidableEq, Repr

/-- One atomic on the word it reads (R103, R246): the result, or the check that fails first with what it reports. The memory word's
own checks come before the exceptions of the other operands, and the pair's after (R83). -/
def atomApply (r : AtomReq) (w : TWord) : Except (Nat × Report) AtomRes :=
  let b := if r.narrow then 32 else 64
  let len := if r.narrow then 4 else 8
  let x : TWord := ⟨if r.narrow then extract w.data r.abs 4 else w.data, w.tag⟩
  let kept := narrowTag w.tag
  match tagFault r.relax (r.op.accepts r.narrow) w.tag with
  | some code => .error (code, r.word)
  | none =>
    if !policyLoad r.policy w.tag then .error (0x0017, r.word)
    else if r.narrow && kept.isNone then .error (0x0015, r.word)
    else if r.narrow && !(kept.any (policyStore r.policy)) then .error (0x0017, r.word)
    else match r.later with
    | some e => .error e
    | none =>
      if r.op = .cas then
        if w = r.a then
          if policyStore r.policy r.b.tag then .ok { write := some r.b, old := w, cc := 0 } else .error (0x0017, r.word)
        else .ok { write := none, old := w, cc := 1 }
      else
        match opResult r.op b x r.a with
        | none => .error (0x0010, r.pair)
        | some res =>
          let old : TWord := ⟨if r.narrow then widen 32 (sval 32 x.data) else x.data, w.tag⟩
          if r.narrow then
            .ok { write := some (applyWrite w (wordWrite r.abs len res.data none)), old := old, cc := res.cc }
          else if policyStore r.policy res.tag then
            .ok { write := some ⟨res.data, res.tag⟩, old := old, cc := res.cc }
          else .error (0x0017, r.word)

/-! ### Near and far (R243, R244) -/

/-- The predictor's counter of a line. -/
def predCount (p : Pu) (line : Nat) : Nat := ((p.pred.find? (fun e => e.line == line)).map (·.count)).getD 0

/-- A far atomic's CMP found no other holder (R244). -/
def predDown (p : Pu) (line : Nat) : Pu :=
  { p with pred := p.pred.map (fun e => if e.line = line then { e with count := e.count - 1 } else e) }

/-- The atomic runs far (R207, R244). -/
def runsFar (s : State) (n line : Nat) : Bool :=
  if ccsFld s (puReg n 0x1000) 63 62 ≠ 0 then true
  else match ccsFld s (puReg n 0x1040) 1 0 with
    | 1 => false
    | 2 => true
    | _ => decide (2 ≤ predCount (s.pu n) line)

/-- The latched answer of an atomic: the old operand and the condition code, or the exception to raise. -/
def atomAnswer (r : Except (Nat × Report) AtomRes) : List TWord :=
  match r with
  | .error (code, e) =>
    [intWord (BitVec.ofNat 64 code), intWord e.fail, intWord (BitVec.ofNat 64 e.slot), intWord (BitVec.ofNat 64 e.unit),
     intWord (BitVec.ofNat 64 e.acc)]
  | .ok a => [a.old, intWord (BitVec.ofNat 64 a.cc)]

/-- The word a performed atomic leaves in memory. -/
def atomStore (s : State) (r : AtomReq) : State :=
  match atomApply r (memGet s (r.abs / 8)) with
  | .ok a => (match a.write with | some v => cachePut s (r.abs / 8) v | none => s)
  | .error _ => s

/-- A near atomic in the PU's L2 (R243, R244): the line taken in M, the read and the write one act. -/
def nearAtomic (s : State) (n : Nat) (r : AtomReq) : State :=
  let line := r.abs / 64
  let snpx := needsSnpx s n line
  (ccsAdd (atomStore (takeOwn s n line) r) (puReg n 0x1040) 63 48 1).modPu n (fun p =>
    let p := if snpx then predUp p line else p
    { p with near := { line := line, ticks := 0 } :: p.near.filter (fun m => m.line != line) })

/-- A memory operand as an exception reports it. -/
def MLoc.report (m : MLoc) : Report := { fail := BitVec.ofNat 64 m.va, slot := m.slot, unit := m.bank, acc := m.acc }

/-- A check whose exception is left to a later one to report. -/
def attempt {α : Type} (m : M α) : M (Except (Nat × Report) α) := fun s =>
  match m s with
  | .ok a t => .ok (.ok a) t
  | .error (.exc e) t => .ok (.error (e.code, { fail := e.fail, slot := e.slot, unit := e.unit, acc := e.acc })) t
  | .error x t => .error x t

/-- An exception with what it reports. -/
def Ctx.throwReport {α : Type} (c : Ctx) (code : Nat) (e : Report) : M α :=
  throw (.exc { c.exc code 0 e.slot e.unit e.acc with fail := e.fail })

/-- What an answered atomic gives: the old operand and the condition code. -/
def atomResult (c : Ctx) : List TWord → M (TWord × Nat)
  | [old, cc] => pure (old, cc.data.toNat)
  | [code, fail, slot, unit, acc] =>
    c.throwReport code.data.toNat
      { fail := fail.data, slot := slot.data.toNat, unit := unit.data.toNat, acc := acc.data.toNat }
  | _ => waitFor

/-- The atomic of the instruction in progress has left the PU (R173): its checks are not made again, what stands before it in the
latch is passed, and its answer alone is awaited (R177, R181). -/
def atomSent (c : Ctx) : M Bool := do
  let s ← get
  match (s.pu c.pu).latch.findIdx? (fun e => e.kind == .farAtomic || e.kind == .nearAtomic) with
  | some i => do
    modify (fun s => s.modPu c.pu (fun p => { p with latchPos := i }))
    pure true
  | none => pure false

/-- The request of an atomic; `others`: its other operands, or the exception one of them raised. -/
def atomReq (c : Ctx) (s : State) (m : MLoc) (op : AtomOp) (others : Except (Nat × Report) (TWord × TWord)) (pair : Report) :
    AtomReq :=
  let (a, b) := match others with | .ok x => x | .error _ => (intWord 0, intWord 0)
  { op := op, abs := m.abs, narrow := c.narrow, relax := c.relax, policy := bankPolicy s c.pu m.bank, a := a, b := b
    word := m.report, pair := pair, later := match others with | .ok _ => none | .error e => some e, done := false }

/-- Performs an atomic (R218, R243): after every earlier store; near in one act, far as a request to the home. The old operand and
the condition code. The memory word is read and checked where the atomic is performed, and there alone. An operand in device
space or the control-space window sends nothing (R245). -/
def atomic (c : Ctx) (m : MLoc) (op : AtomOp) (others : Except (Nat × Report) (TWord × TWord)) (pair : Report) :
    M (TWord × Nat) := do
  if inWindow m.abs || inDevice m.abs then
    match others with
    | .error (code, e) => c.throwReport code e
    | .ok _ => c.fail 0x0006
  else do
    let s ← get
    if storesWaiting (s.pu c.pu) || strictPending (s.pu c.pu).mb then waitStores c
    let line := m.abs / 64
    let r := atomReq c s m op others pair
    let resp ← latched c (if runsFar s c.pu line then .farAtomic else .nearAtomic) m.abs (do
      if runsFar s c.pu line then
        modify (fun s => (ccsAdd s (puReg c.pu 0x1040) 47 32 1).modPu c.pu (fun p =>
          { p with latch := p.latch ++ [{ kind := .farAtomic, addr := m.abs, resp := none }], atomReq := some r }))
        waitFor
      else
        if !mayOwn s c.pu line then waitFor
        modify (fun s => nearAtomic s c.pu r)
        pure (atomAnswer (atomApply r (memGet (takeOwn s c.pu line) (m.abs / 8)))))
    atomResult c resp

/-- The answer to an atomic that has left, or the atomic itself. -/
def atomOnce (c : Ctx) (first : M (TWord × Nat)) : M (TWord × Nat) := do
  let sent ← atomSent c
  if sent then do
    let resp ← latched c .farAtomic 0 waitFor
    atomResult c resp
  else first

end Sys2Proof.Machine
end

