-- ==== Sys2Proof/Machine/Integer.lean ====
section
/-! DEFINITION. Integer add and subtract, multiply, divide, logical and shift instructions (R95 to R97, R116, R117) with
the atomic prefix (R67), CAS and FADD (R102, R103). -/

namespace Sys2Proof.Machine

def opArith : OpInfo := { opLen := 1, slots := [(.D, .rw), (.S, .rd)], o := true, a := true, n := true, pl := 3, t4 := false }
def opUnary : OpInfo := { opLen := 1, slots := [(.D, .rw)], o := true, a := true, n := true, pl := 3, t4 := false }
def opShift : OpInfo := { opLen := 1, slots := [(.D, .rw), (.S, .rd)], o := true, a := false, n := true, pl := 3, t4 := false }

/-- Writes the result of an update and completes, with fixed-point overflow after it (R84, R96). -/
def finishUpdate (c : Ctx) (i : OpInfo) (sp : List Spec) (l : Loc) (r : Res) (ovf : Bool) : M Unit := do
  checkDest c l r.tag
  commitTo c i sp l ⟨r.data, r.tag⟩ (fun p => p.setCC r.cc)
  if ovf then overflowInt c r.cc

/-- What a tag mismatch of a located operand reports (R35, R140). -/
def Loc.report (c : Ctx) (slot : Nat) : Loc → Report
  | .reg n => { fail := BitVec.ofNat 64 c.ia, slot := slot, unit := n, acc := 6 }
  | .mem m => m.report
  | .imm _ => { fail := BitVec.ofNat 64 c.ia, slot := slot, unit := 0, acc := 6 }

/-- The second operand of an update, located and read; NEG and NOT have none. -/
def secondOperand (c : Ctx) (i : OpInfo) (ok : List Tag) (sp : List Spec) : M (Loc × TWord) :=
  match sp with
  | [_, o] => do
    let l ← locate c (place i sp 2) c.width o
    let v ← readLoc c 2 ok l
    pure (l, v)
  | _ => pure (.imm 0, intWord 0)

/-- ADD, SUB, NEG, AND, OR, XOR and NOT (R95, R97). -/
def updateBody (op : AtomOp) (i : OpInfo) (sp : List Spec) (c : Ctx) : M Unit := do
  let (l, x) ← update c (place i sp 1) c.width (op.accepts false) (sp.headD (.reg 0))
  let (l2, y) ← secondOperand c i (op.accepts false) sp
  match opResult op c.bitsOf x y with
  | none => c.throwReport 0x0010 (l2.report c 2)
  | some r => finishUpdate c i sp l r (decide (op = .add ∨ op = .sub ∨ op = .neg))

/-- The memory operand of an atomic: steps 1 to 9 of R54 at the PU. -/
def atomicLoc (c : Ctx) (pl : Place) (sp : Spec) : M MLoc := do
  let l ← locate c pl c.width sp
  match l with
  | .mem m => pure m
  | _ => waitFor

/-- The second operand of an atomic update, with what a refused pair of tags reports. -/
def atomSecond (c : Ctx) (op : AtomOp) (i : OpInfo) (sp : List Spec) : M (Except (Nat × Report) (TWord × TWord) × Report) := do
  let y ← attempt (secondOperand c i (op.accepts false) sp)
  pure (match y with
    | .ok (l2, y) => (.ok (y, intWord 0), l2.report c 2)
    | .error e => (.error e, e.2))

/-- ADD, SUB, NEG, AND, OR, XOR and NOT with the atomic prefix (R67), near or far. -/
def atomicBody (op : AtomOp) (i : OpInfo) (sp : List Spec) (c : Ctx) : M Unit := do
  let (_, cc) ← atomOnce c (do
    let m ← atomicLoc c (place i sp 1) (sp.headD (.reg 0))
    let (others, pair) ← atomSecond c op i sp
    atomic c m op others pair)
  commit c i sp [] (fun p => p.setCC cc)
  if op = .add ∨ op = .sub ∨ op = .neg then overflowInt c cc

/-- One of the updates, with or without the atomic prefix. -/
def arithBody (op : AtomOp) (i : OpInfo) (sp : List Spec) (c : Ctx) : M Unit :=
  if c.atomic then atomicBody op i sp c else updateBody op i sp c

def execAdd (h : Hdr) (op1 op2 : Spec) (s : State) : Host.Outcome State Fault Refusal :=
  instr h opArith [op1, op2] (arithBody .add opArith [op1, op2]) s

def execSub (h : Hdr) (op1 op2 : Spec) (s : State) : Host.Outcome State Fault Refusal :=
  instr h opArith [op1, op2] (arithBody .sub opArith [op1, op2]) s

def execNeg (h : Hdr) (op1 : Spec) (s : State) : Host.Outcome State Fault Refusal :=
  instr h opUnary [op1] (arithBody .neg opUnary [op1]) s

def execAnd (h : Hdr) (op1 op2 : Spec) (s : State) : Host.Outcome State Fault Refusal :=
  instr h opArith [op1, op2] (arithBody .and opArith [op1, op2]) s

def execOr (h : Hdr) (op1 op2 : Spec) (s : State) : Host.Outcome State Fault Refusal :=
  instr h opArith [op1, op2] (arithBody .or opArith [op1, op2]) s

def execXor (h : Hdr) (op1 op2 : Spec) (s : State) : Host.Outcome State Fault Refusal :=
  instr h opArith [op1, op2] (arithBody .xor opArith [op1, op2]) s

def execNot (h : Hdr) (op1 : Spec) (s : State) : Host.Outcome State Fault Refusal :=
  instr h opUnary [op1] (arithBody .not opUnary [op1]) s

/-- The shifts (R97). -/
inductive ShiftOp where
  | shl
  | shr
  | sar
  | rol
deriving DecidableEq, Repr

/-- A shift of a value of b bits by k, 0 to b - 1 (R97). -/
def shiftData (op : ShiftOp) (b k : Nat) (x : Word) : Word :=
  let u := uval b x
  match op with
  | .shl => widen b (u * 2 ^ k : Nat)
  | .shr => widen b (u / 2 ^ k : Nat)
  | .sar => widen b (sval b x >>> k)
  | .rol => widen b (u * 2 ^ k % 2 ^ b + u / 2 ^ (b - k) : Nat)

def shiftBody (op : ShiftOp) (op1 op2 : Spec) (c : Ctx) : M Unit := do
  let (l, x) ← update c (place opShift [op1, op2] 1) c.width tagsLogic op1
  let y ← source c (place opShift [op1, op2] 2) c.width tagsLogic op2
  let d := shiftData op c.bitsOf (y.data.toNat % c.bitsOf) x.data
  let t := logicTag ([x.tag, y.tag].map (asType tagsLogic tagInt))
  finishUpdate c opShift [op1, op2] l ⟨d, t, ccShift c.bitsOf d⟩ false

def execShl (h : Hdr) (op1 op2 : Spec) (s : State) : Host.Outcome State Fault Refusal :=
  instr h opShift [op1, op2] (shiftBody .shl op1 op2) s

def execShr (h : Hdr) (op1 op2 : Spec) (s : State) : Host.Outcome State Fault Refusal :=
  instr h opShift [op1, op2] (shiftBody .shr op1 op2) s

def execSar (h : Hdr) (op1 op2 : Spec) (s : State) : Host.Outcome State Fault Refusal :=
  instr h opShift [op1, op2] (shiftBody .sar op1 op2) s

def execRol (h : Hdr) (op1 op2 : Spec) (s : State) : Host.Outcome State Fault Refusal :=
  instr h opShift [op1, op2] (shiftBody .rol op1 op2) s

/-! ### Multiply and divide -/

/-- MUL (R116): the low bits of the signed product; cc3 when it does not fit. -/
def execMul (h : Hdr) (op1 op2 : Spec) (s : State) : Host.Outcome State Fault Refusal :=
  instr h opShift [op1, op2] (fun c => do
    let (l, x) ← update c (place opShift [op1, op2] 1) c.width tagsInt op1
    let y ← source c (place opShift [op1, op2] 2) c.width tagsInt op2
    let r := sval c.bitsOf x.data * sval c.bitsOf y.data
    finishUpdate c opShift [op1, op2] l ⟨widen c.bitsOf r, tagInt, ccInt c.bitsOf r⟩ true) s

def opPairSrc (narrow : Bool) : OpInfo :=
  { opLen := 1, slots := [(.P, .rw), (.S, .rd)], o := true, a := false, n := narrow, pl := 3, t4 := false }

/-- Both registers of a pair, each tag checked. -/
def readRegPair (c : Ctx) (slot : Nat) (ok : List Tag) (sp : Spec) : M (TWord × TWord) := do
  let x ← readReg c slot ok (regNum sp)
  let y ← readReg c slot ok (regNum sp + 1)
  pure (x, y)

/-- A 128-bit result into a pair: high, then low. -/
def setPair (n : Nat) (hi lo : TWord) (p : Pu) : Pu := (p.setReg n hi).setReg (n + 1) lo

/-- Condition code of MULP and MULPU: the sign of the exact product (R116). -/
def ccSign (x : Int) : Nat := if x = 0 then 0 else if x < 0 then 1 else 2

def mulPairBody (signed : Bool) (op1 op2 : Spec) (c : Ctx) : M Unit := do
  let (_, x) ← readRegPair c 1 tagsInt op1
  let y ← source c (place (opPairSrc false) [op1, op2] 2) 8 tagsInt op2
  let r : Int := if signed then sval 64 x.data * sval 64 y.data else (x.data.toNat * y.data.toNat : Nat)
  let w := BitVec.ofInt 128 r
  commit c (opPairSrc false) [op1, op2] []
    (fun p => (setPair (regNum op1) (intWord (w.extractLsb' 64 64)) (intWord (w.extractLsb' 0 64)) p).setCC (ccSign r))

def execMulp (h : Hdr) (op1 op2 : Spec) (s : State) : Host.Outcome State Fault Refusal :=
  instr h (opPairSrc false) [op1, op2] (mulPairBody true op1 op2) s

def execMulpu (h : Hdr) (op1 op2 : Spec) (s : State) : Host.Outcome State Fault Refusal :=
  instr h (opPairSrc false) [op1, op2] (mulPairBody false op1 op2) s

/-- DIV and DIVU (R117): quotient toward zero, remainder with the dividend's sign; none on divide exceptions. -/
def divide (signed : Bool) (b : Nat) (x y : Word) : Option (Int × Int) :=
  let xv : Int := if signed then sval b x else (uval b x : Int)
  let yv : Int := if signed then sval b y else (uval b y : Int)
  if yv = 0 then none
  else if signed && !fits b (xv.tdiv yv) then none
  else some (xv.tdiv yv, xv.tmod yv)

def divBody (signed : Bool) (op1 op2 : Spec) (c : Ctx) : M Unit := do
  let (x, _) ← readRegPair c 1 tagsInt op1
  let y ← source c (place (opPairSrc true) [op1, op2] 2) c.width tagsInt op2
  match divide signed c.bitsOf x.data y.data with
  | none => c.fail 0x0009
  | some (q, r) =>
    commit c (opPairSrc true) [op1, op2] []
      (fun p => (setPair (regNum op1) (intWord (widen c.bitsOf q)) (intWord (widen c.bitsOf r)) p).setCC (ccSign q))

def execDiv (h : Hdr) (op1 op2 : Spec) (s : State) : Host.Outcome State Fault Refusal :=
  instr h (opPairSrc true) [op1, op2] (divBody true op1 op2) s

def execDivu (h : Hdr) (op1 op2 : Spec) (s : State) : Host.Outcome State Fault Refusal :=
  instr h (opPairSrc true) [op1, op2] (divBody false op1 op2) s

/-! ### CAS and FADD (R103) -/

def opCas : OpInfo := { opLen := 1, slots := [(.M, .rw), (.R, .rw), (.S, .rd)], o := true, a := false, n := false, pl := 3, t4 := false }
def opFadd : OpInfo := { opLen := 1, slots := [(.M, .rw), (.R, .wr), (.S, .rd)], o := true, a := false, n := true, pl := 3, t4 := false }

/-- The other operands of CAS: the comparand and the new word, both under R87. -/
def casOthers (c : Ctx) (sp : List Spec) : M (TWord × TWord) := do
  let x ← readReg c 2 tagsWhole (regNum (sp.getD 1 (.reg 0)))
  let y ← source c (place opCas sp 3) 8 tagsWhole (sp.getD 2 (.reg 0))
  pure (x, y)

def execCas (h : Hdr) (op1 op2 op3 : Spec) (s : State) : Host.Outcome State Fault Refusal :=
  instr h opCas [op1, op2, op3] (fun c => do
    let (old, cc) ← atomOnce c (do
      let m ← atomicLoc c (place opCas [op1, op2, op3] 1) op1
      let others ← attempt (casOthers c [op1, op2, op3])
      atomic c m .cas others m.report)
    commit c opCas [op1, op2, op3] []
      (fun p => (if cc = 0 then p else p.setReg (regNum op2) old).setCC cc)) s

/-- The other operand of FADD. -/
def faddOther (c : Ctx) (sp : List Spec) : M (TWord × TWord) := do
  let y ← source c (place opFadd sp 3) c.width tagsInt (sp.getD 2 (.reg 0))
  pure (y, intWord 0)

def execFadd (h : Hdr) (op1 op2 op3 : Spec) (s : State) : Host.Outcome State Fault Refusal :=
  instr h opFadd [op1, op2, op3] (fun c => do
    let (old, cc) ← atomOnce c (do
      let m ← atomicLoc c (place opFadd [op1, op2, op3] 1) op1
      let others ← attempt (faddOther c [op1, op2, op3])
      atomic c m .fadd others m.report)
    commit c opFadd [op1, op2, op3] [] (fun p => (p.setReg (regNum op2) old).setCC cc)
    overflowInt c cc) s

end Sys2Proof.Machine
end

