-- ==== Sys2Proof/Machine/Control.lean ====
section
/-! DEFINITION. Branches, calls and returns (R98 to R100), the return stack (R52, R101) and the barriers (R219, R220,
R127). -/

namespace Sys2Proof.Machine

def opBranch (slots : List (Cls × Use)) : OpInfo :=
  { opLen := 1, slots := slots, o := false, a := false, n := false, pl := 3, t4 := false }

/-- The target of an A slot: steps 1 to 5 of R54 with the X right and a length of 1 (R99). -/
def bankTarget (c : Ctx) (pl : Place) (sp : Spec) : M Nat := do
  let (b, o) ← specAddr c pl sp
  let (va, _) ← bankAddr c pl.slot b o 1 0 .x
  pure va

/-- The fetch check of a branch, call or return target: a failure is reported on the target (R84, R99). -/
def checkTarget (c : Ctx) (t : Nat) : M Unit := fetchByte { c with ia := t, len := 0 } 0

/-- Completes a branch: its stores and register writes, the stack movement, IA at the target; then the target's fetch. -/
def commitBranch (c : Ctx) (i : OpInfo) (sp : List Spec) (sts : List Store) (f : Pu → Pu) (t : Nat) : M Unit := do
  pushStores c sts
  modify (fun s => s.modPu c.pu (fun p => ((f p).moveStack i sp).setIA t))
  checkTarget c t

/-- The mask of BC and BCR (R99): tagged INT, bits 63:4 zero; true when the bit for the condition code is 1. Its tag and
its value are checked here, in step 7 of R83. -/
def maskTaken (c : Ctx) (w : TWord) : M Bool := do
  guardM (accepted c tagsInt w.tag && decide (w.data.toNat < 16)) (c.fail 0x0006)
  let s ← get
  pure (bit w.data.toNat (3 - pswCC (s.pu c.pu).psw))

/-- A return-stack access (R52): the absolute address; canonical first, then the page or range check. -/
def rsAccess (c : Ctx) (va : Nat) (k : Kind) : M Nat := do
  let s ← get
  guardM (decide (va < 2 ^ 52)) (c.raise 0x0024 va 4 0 5)
  xlate c 4 0 k (pswRoot s c.pu) va 8 .memory

/-- The return-stack entry at an address, checked to be tagged RETADDR (R31, R52). -/
def rsEntry (c : Ctx) (va : Nat) : M Word := do
  let a ← rsAccess c va .rload
  let s ← get
  if strictPending (s.pu c.pu).mb then waitFor
  needLine c.pu a
  let w := puView s c.pu (a / 8)
  guardM (decide (w.tag = tagRetaddr)) (c.raise 0x0013 va 4 0 5)
  pure w.data

/-- The push of a call (R52, R100): the store of the RETADDR word, and RSP after it. -/
def rsPush (c : Ctx) : M (List Store × (Pu → Pu)) := do
  let s ← get
  let p := s.pu c.pu
  let va := (p.rsp.toNat + 2 ^ 64 - 8) % 2 ^ 64
  let a ← rsAccess c va .rstore
  let ret := if pswT p.psw then c.next else c.next % 2 ^ 52
  pure ([{ abs := a, va := va, len := 8, data := BitVec.ofNat 64 ret, tag := some tagRetaddr, device := false,
           strict := false, part := 0 }],
        fun p => { p with rsp := BitVec.ofNat 64 va })

def execBr (h : Hdr) (op1 : Spec) (s : State) : Host.Outcome State Fault Refusal :=
  let i := opBranch [(.A, .addr)]
  instr h i [op1] (fun c => do
    let t ← bankTarget c (place i [op1] 1) op1
    commitBranch c i [op1] [] id t) s

def execBc (h : Hdr) (op1 op2 : Spec) (s : State) : Host.Outcome State Fault Refusal :=
  let i := opBranch [(.S, .rd), (.A, .addr)]
  instr h i [op1, op2] (fun c => do
    let m ← source c (place i [op1, op2] 1) 8 tagsAny op1
    let t ← bankTarget c (place i [op1, op2] 2) op2
    let b ← maskTaken c m
    if b then commitBranch c i [op1, op2] [] id t else commit c i [op1, op2] [] id) s

def execBrr (h : Hdr) (op1 : Spec) (s : State) : Host.Outcome State Fault Refusal :=
  let i := opBranch [(.R, .rd)]
  instr h i [op1] (fun c => do
    let t ← readReg c 1 tagsCode (regNum op1)
    commitBranch c i [op1] [] id t.data.toNat) s

def execBcr (h : Hdr) (op1 op2 : Spec) (s : State) : Host.Outcome State Fault Refusal :=
  let i := opBranch [(.S, .rd), (.R, .rd)]
  instr h i [op1, op2] (fun c => do
    let m ← source c (place i [op1, op2] 1) 8 tagsAny op1
    let t ← readReg c 2 tagsCode (regNum op2)
    let b ← maskTaken c m
    if b then commitBranch c i [op1, op2] [] id t.data.toNat else commit c i [op1, op2] [] id) s

def execCall (h : Hdr) (op1 : Spec) (s : State) : Host.Outcome State Fault Refusal :=
  let i := opBranch [(.A, .addr)]
  instr h i [op1] (fun c => do
    let t ← bankTarget c (place i [op1] 1) op1
    let (sts, f) ← rsPush c
    commitBranch c i [op1] sts f t) s

def execCallr (h : Hdr) (op1 : Spec) (s : State) : Host.Outcome State Fault Refusal :=
  let i := opBranch [(.R, .rd)]
  instr h i [op1] (fun c => do
    let t ← readReg c 1 tagsCode (regNum op1)
    let (sts, f) ← rsPush c
    commitBranch c i [op1] sts f t.data.toNat) s

/-- RSP moved by a number of bytes. -/
def addRsp (k : Nat) (p : Pu) : Pu := { p with rsp := p.rsp + BitVec.ofNat 64 k }

def execRet (h : Hdr) (s : State) : Host.Outcome State Fault Refusal :=
  let i := opBranch []
  instr h i [] (fun c => do
    let s ← get
    let t ← rsEntry c (s.pu c.pu).rsp.toNat
    commitBranch c i [] [] (addRsp 8) t.toNat) s

/-! ### Return-stack operations (R101) -/

def opRsD : OpInfo := { opLen := 1, slots := [(.D, .wr)], o := true, a := false, n := false, pl := 3, t4 := false }
def opRsS : OpInfo := { opLen := 1, slots := [(.S, .rd)], o := true, a := false, n := false, pl := 3, t4 := false }
def opSrsp : OpInfo := { opLen := 1, slots := [(.S, .rd)], o := true, a := false, n := false, pl := 2, t4 := true }

def execRsread (h : Hdr) (op1 : Spec) (s : State) : Host.Outcome State Fault Refusal :=
  instr h opRsD [op1] (fun c => do
    let l ← target c (place opRsD [op1] 1) 8 op1
    checkDest c l tagInt
    let s ← get
    let w ← rsEntry c (s.pu c.pu).rsp.toNat
    commitTo c opRsD [op1] l (intWord w) id) s

/-- The entries RSDROP discards, each checked. -/
def rsEntries (c : Ctx) (va : Nat) : Nat → M Unit
  | 0 => pure ()
  | k + 1 => do
    let _ ← rsEntry c va
    rsEntries c (va + 8) k

def execRsdrop (h : Hdr) (op1 : Spec) (s : State) : Host.Outcome State Fault Refusal :=
  instr h opRsS [op1] (fun c => do
    let n ← source c (place opRsS [op1] 1) 8 tagsOwn op1
    guardM (accepted c tagsInt n.tag && decide (1 ≤ n.data.toNat) && decide (n.data.toNat ≤ 255)) (c.fail 0x0006)
    let s ← get
    rsEntries c (s.pu c.pu).rsp.toNat n.data.toNat
    commit c opRsS [op1] [] (addRsp (8 * n.data.toNat))) s

def execStrsp (h : Hdr) (op1 : Spec) (s : State) : Host.Outcome State Fault Refusal :=
  instr h opRsD [op1] (fun c => do
    let l ← target c (place opRsD [op1] 1) 8 op1
    checkDest c l tagInt
    let s ← get
    commitTo c opRsD [op1] l (intWord (s.pu c.pu).rsp) id) s

/-- SRSP (R45): RSP from a multiple of 8. -/
def execSrsp (h : Hdr) (op1 : Spec) (s : State) : Host.Outcome State Fault Refusal :=
  instr h opSrsp [op1] (fun c => do
    let w ← source c (place opSrsp [op1] 1) 8 tagsInt op1
    guardM (w.data.toNat % 8 == 0) (c.fail 0x0006)
    commit c opSrsp [op1] [] (fun p => { p with rsp := w.data })) s

/-! ### Barriers -/

def opBarrier : OpInfo := { opLen := 1, slots := [], o := false, a := false, n := false, pl := 3, t4 := true }

/-- SYNC (R219, R227): waits for every store; then reports the earliest lost record, the next instruction in the old
PSW. -/
def execSync (h : Hdr) (s : State) : Host.Outcome State Fault Refusal :=
  instr h opBarrier [] (fun c => do
    let s ← get
    if storesPending (s.pu c.pu) then waitStores c
    commit c opBarrier [] [] id
    match firstLost (s.pu c.pu).mb with
    | none => pure ()
    | some (code, va) => do
      modify (fun s => s.modPu c.pu (fun p => { p with mb := dropLost p.mb }))
      throw (.exc { c.exc code va 0 0 2 with ia := BitVec.ofNat 64 c.next })) s

/-- SYNCS (R220): begins once every earlier store is performed, a device store at port acceptance. -/
def execSyncs (h : Hdr) (s : State) : Host.Outcome State Fault Refusal :=
  instr h opBarrier [] (fun c => do
    let s ← get
    if storesWaiting (s.pu c.pu) then waitStores c
    commit c opBarrier [] [] id) s

/-- FPSYNC (R127): a reporting boundary before it, and no further effect. -/
def execFpsync (h : Hdr) (s : State) : Host.Outcome State Fault Refusal :=
  instr h opBarrier [] (fun c => commit c opBarrier [] [] id) s

end Sys2Proof.Machine
end

