-- ==== Sys2Proof/Machine/Tags.lean ====
section
/-! DEFINITION. Tag instructions (R104 to R106). -/

namespace Sys2Proof.Machine

def opTagget : OpInfo := { opLen := 1, slots := [(.R, .wr), (.S, .rd)], o := true, a := false, n := false, pl := 3, t4 := false }
def opTagchk : OpInfo := { opLen := 1, slots := [(.S, .rd), (.S, .rd)], o := true, a := false, n := false, pl := 3, t4 := false }
def opTagset : OpInfo := { opLen := 1, slots := [(.D, .rw), (.S, .rd)], o := true, a := false, n := false, pl := 1, t4 := false }
def opMkdesc : OpInfo := { opLen := 1, slots := [(.M, .wr), (.R, .rd), (.R, .rd)], o := true, a := false, n := false, pl := 1, t4 := false }
def opLca : OpInfo := { opLen := 1, slots := [(.R, .wr), (.A, .addr)], o := false, a := false, n := false, pl := 3, t4 := false }

/-- The word of an operand whose tag alone is examined (R104): steps 1 to 9, and no step 10. -/
def tagOperand (c : Ctx) (pl : Place) (sp : Spec) : M TWord :=
  match sp with
  | .reg n => do
    let s ← get
    pure ((s.pu c.pu).reg n.toNat)
  | .imm arg v => pure (intWord (immValue arg v))
  | _ => do
    let (b, o) ← specAddr c pl sp
    let m ← memLoc c pl.slot b o 8 .load .r .device
    readWord c m

def execTagget (h : Hdr) (op1 op2 : Spec) (s : State) : Host.Outcome State Fault Refusal :=
  instr h opTagget [op1, op2] (fun c => do
    let w ← tagOperand c (place opTagget [op1, op2] 2) op2
    commitTo c opTagget [op1, op2] (.reg (regNum op1)) (intWord (w.tag.setWidth 64)) id) s

def execTagchk (h : Hdr) (op1 op2 : Spec) (s : State) : Host.Outcome State Fault Refusal :=
  instr h opTagchk [op1, op2] (fun c => do
    let w ← tagOperand c (place opTagchk [op1, op2] 1) op1
    let m ← source c (place opTagchk [op1, op2] 2) 8 tagsInt op2
    guardM (decide (m.data.toNat < 2 ^ 16)) (c.fail 0x0006)
    commit c opTagchk [op1, op2] [] (fun p => p.setCC (if bit m.data.toNat w.tag.toNat then 0 else 1))) s

/-- The tags TAGSET never produces (R34). -/
def tagsetRefused (t : Nat) : Bool := t == 8 || (decide (0xB ≤ t) && decide (t ≤ 0xE))

def isGuarded (t : Tag) : Bool := decide (t = tagSealed) || decide (t = tagPoison)

/-- The own checks of TAGSET (R105): the new tag, and SEALED or POISON only at PL0. -/
def tagsetChecks (c : Ctx) (old : Tag) (v : Word) : M Tag := do
  guardM (decide (v.toNat < 16) && !tagsetRefused v.toNat) (c.fail 0x0006)
  let s ← get
  let t : Tag := BitVec.ofNat 4 v.toNat
  guardM (pswPL (s.pu c.pu).psw == 0 || !(isGuarded t || isGuarded old)) (c.fail 0x0002)
  pure t

/-- The retagging of a memory word as one act (R105): the PU's L2 takes the line to write it, as for a near atomic, and without an L2
the word is written past every cache. -/
def retag (s : State) (n w : Nat) (t : Tag) : State :=
  if l2On s n then
    let s := takeOwn s n (w / 8)
    cachePut s w ⟨(memGet s w).data, t⟩
  else agentWrite s w ⟨(homeWord s w).data, t⟩

/-- TAGSET (R104, R105): a register's tag, or one indivisible read-modify-write of a memory word's tag. A memory operand in device
space raises addressing 0x0031 (log entry 131). -/
def execTagset (h : Hdr) (op1 op2 : Spec) (s : State) : Host.Outcome State Fault Refusal :=
  instr h opTagset [op1, op2] (fun c => do
    match op1 with
    | .reg n => do
      let v ← source c (place opTagset [op1, op2] 2) 8 tagsInt op2
      let s ← get
      let w := (s.pu c.pu).reg n.toNat
      let t ← tagsetChecks c w.tag v.data
      commitTo c opTagset [op1, op2] (.reg n.toNat) ⟨w.data, t⟩ id
    | _ => do
      let sent ← atomSent c
      if sent then do
        let _ ← latched c .nearAtomic 0 waitFor
        commit c opTagset [op1, op2] [] id
      else do
        let (b, o) ← specAddr c (place opTagset [op1, op2] 1) op1
        let m ← memLoc c 1 b o 8 .rmw .w .memory
        let v ← source c (place opTagset [op1, op2] 2) 8 tagsInt op2
        let s ← get
        if storesWaiting (s.pu c.pu) || strictPending (s.pu c.pu).mb then waitStores c
        needLine c.pu m.abs
        let t ← tagsetChecks c (dieWord s (c.pu / 10) (m.abs / 8)).tag v.data
        checkPolicy c m t
        let _ ← latched c .nearAtomic m.abs (do
          let s ← get
          if !mayOwn s c.pu (m.abs / 64) then waitFor
          modify (fun s => retag s c.pu (m.abs / 8) t)
          pure [])
        commit c opTagset [op1, op2] [] id) s

/-- MKDESC (R106): both words of the descriptor, tagged DESC, as one access. -/
def execMkdesc (h : Hdr) (op1 op2 op3 : Spec) (s : State) : Host.Outcome State Fault Refusal :=
  instr h opMkdesc [op1, op2, op3] (fun c => do
    let ms ← longOperand c (place opMkdesc [op1, op2, op3] 1) 2 16 op1
    let s ← get
    let ws := [⟨((s.pu c.pu).reg (regNum op2)).data, tagDesc⟩, ⟨((s.pu c.pu).reg (regNum op3)).data, tagDesc⟩]
    pairPolicy c ms ws
    let _ ← readReg c 2 tagsIntPtr (regNum op2)
    let a ← readReg c 3 tagsInt (regNum op3)
    guardM (attrValid a.data) (c.fail 0x0006)
    let s ← get
    commit c opMkdesc [op1, op2, op3] (pairStores s c.pu ms ws) id) s

/-- LCA (R106): steps 1 to 5 with the X right, then the virtual address tagged CODE. -/
def execLca (h : Hdr) (op1 op2 : Spec) (s : State) : Host.Outcome State Fault Refusal :=
  instr h opLca [op1, op2] (fun c => do
    let (b, o) ← specAddr c (place opLca [op1, op2] 2) op2
    let (va, _) ← bankAddr c 2 b o 1 6 .x
    commitTo c opLca [op1, op2] (.reg (regNum op1)) ⟨BitVec.ofNat 64 va, tagCode⟩ id) s

end Sys2Proof.Machine
end

