-- ==== Sys2Proof/Machine/System.lean ====
section
/-! DEFINITION. System and control instructions (R111 to R114, R144). -/

namespace Sys2Proof.Machine

def opSys (opLen : Nat) (slots : List (Cls × Use)) (o : Bool) (pl : Nat) (t4 : Bool) : OpInfo :=
  { opLen := opLen, slots := slots, o := o, a := false, n := false, pl := pl, t4 := t4 }

/-- A number operand below a bound (R111): tagged INT, otherwise a specification exception. -/
def numberBelow (c : Ctx) (k : Nat) (w : TWord) : M Nat := do
  guardM (decide (w.data.toNat < k)) (c.fail 0x0006)
  pure w.data.toNat

/-- SVC (R111, R132): completes, then the supervisor-call interruption with its code. -/
def execSvc (h : Hdr) (op1 : Spec) (s : State) : Host.Outcome State Fault Refusal :=
  let i := opSys 1 [(.S, .rd)] true 3 true
  instr h i [op1] (fun c => do
    let w ← source c (place i [op1] 1) 8 tagsInt op1
    let n ← numberBelow c 256 w
    commit c i [op1] [] id
    throw (.exc { c.exc n c.ia 0 0 0 with cls := 2, ia := BitVec.ofNat 64 c.next })) s

/-- A PSW load under R46 and R50: the code of the check that fails, none when the PSW may be loaded. -/
def pswLoadFault (s : State) (n : Nat) (new : BitVec 128) : Option Nat :=
  let old := (s.pu n).psw
  if !pswValid new (puPart s n) then some 0x0006
  else if pswPL old != 0 && pswPart new != pswPart old then some 0x0006
  else if pswPL new < pswPL old then some 0x0002
  else none

/-- The address of the old PSW pair of a class slot. -/
def oldPswAddr (s : State) (n k : Nat) : Nat := areaBase s n + 0x100 + 0x40 * k

/-- The old PSW pair of a class slot as RETI reads it (R144); none when the read is refused or a word is not INT. -/
def oldPsw (s : State) (n k : Nat) : Option (BitVec 128) :=
  let a := oldPswAddr s n k
  if areaOk s (pswPart (s.pu n).psw) a then
    let hi := puView s n (a / 8)
    let lo := puView s n ((a + 8) / 8)
    if hi.tag = tagInt ∧ lo.tag = tagInt then some (hi.data ++ lo.data) else none
  else none

/-- RETI (R112, R144). -/
def execReti (h : Hdr) (op1 : Spec) (s : State) : Host.Outcome State Fault Refusal :=
  let i := opSys 1 [(.S, .rd)] true 2 true
  instr h i [op1] (fun c => do
    let w ← source c (place i [op1] 1) 8 tagsInt op1
    let k ← numberBelow c 6 w
    let s ← get
    if strictPending (s.pu c.pu).mb then waitFor
    guardM ((s.pu c.pu).isBusy k) (c.fail 0x0006)
    if areaOk s (pswPart (s.pu c.pu).psw) (oldPswAddr s c.pu k) then needLine c.pu (oldPswAddr s c.pu k)
    match oldPsw s c.pu k with
    | none => c.fail 0x0006
    | some new => do
      guardM (pswLoadFault s c.pu new).isNone (c.fail 0x0006)
      commit c i [op1] [] id
      modify (fun s => s.modPu c.pu (fun p =>
        { p with psw := new, busy := p.busy &&& ~~~(BitVec.ofNat 6 (2 ^ k)) }))) s

/-- RDTOD (R114): one sample, strictly above the PU's last one. -/
def execRdtod (h : Hdr) (op1 : Spec) (s : State) : Host.Outcome State Fault Refusal :=
  let i := opSys 1 [(.P, .wr)] false 3 false
  instr h i [op1] (fun c => do
    let s ← get
    let v := max s.tod (s.pu c.pu).lastTod
    commit c i [op1] [] (fun p => { setPair (regNum op1) (intWord (BitVec.ofNat 64 (v / 2 ^ 64)))
      (intWord (BitVec.ofNat 64 v)) p with lastTod := v + 1 })) s

/-- The PU's identity as STPU and RDPU give it (R111). -/
def puIdentity (s : State) (n : Nat) : Word := BitVec.ofNat 64 (n + pswPart (s.pu n).psw * 2 ^ 8)

def execStpu (h : Hdr) (op1 : Spec) (s : State) : Host.Outcome State Fault Refusal :=
  let i := opSys 1 [(.R, .wr)] false 2 false
  instr h i [op1] (fun c => do
    let s ← get
    commitTo c i [op1] (.reg (regNum op1)) (intWord (puIdentity s c.pu)) id) s

def execNop (h : Hdr) (s : State) : Host.Outcome State Fault Refusal :=
  let i := opSys 1 [] false 3 false
  instr h i [] (fun c => commit c i [] [] id) s

/-! ### SIGPU (R113) -/

/-- The 8 KiB area a PFX value names lies wholly inside a valid zone of the partition (R49); always for partition 0. -/
def pfxOk (s : State) (part : Nat) (v : Word) : Bool :=
  zoneOk s part (bits v.toNat 51 13 * 8192)

/-- The bits of PREFIX that are not reserved. -/
def pfxMask : Word := 0x000FFFFFFFFFE000

/-- A target that answers every order with cc3 (R113): not operational, or of another partition. -/
def notOperational (s : State) (t part : Nat) : Bool :=
  !(puState s t == 1 || puState s t == 2) || puLocked s t || puPart s t != part

/-- A restart order or message at a target: pending (a second one while it is joins it); a STOPPED PU runs and takes it. -/
def postRestart (s : State) (t issuer : Nat) : State :=
  wakeRestart (s.modPu t (fun p => { p with restart := some (p.restart.getD issuer) })) t

/-- An order at an operational target: the condition code and the state after it (R113); n sends it. Of the orders that a target
acts on later, the one that counts as held for another is Stop; a pending external call or restart refuses only a second one
of its kind (log entry 127). A stop acts at once on a waiting target at which no entry is due. -/
def sigpuOrder (s : State) (n t order : Nat) (w : Word) : State × Nat :=
  let p := s.pu t
  match order with
  | 0 => (s, if puState s t = 1 then 0 else 1)
  | 1 =>
    if p.xcall.isSome || p.stopHeld then (s, 2)
    else (s.modPu t (fun p => { p with xcall := some n }), 0)
  | 2 =>
    if puState s t = 2 then (s, 1)
    else if p.stopHeld then (s, 2)
    else
      let s := s.modPu t (fun p => { p with stopHeld := true })
      (if pswW p.psw && t != n then halts s t else s, 0)
  | 3 =>
    if p.restart.isSome || p.stopHeld then (s, 2)
    else (postRestart s t (0x100 + n), 0)
  | _ =>
    if puState s t = 2 then (s.modPu t (fun p => { p with pfxArea := w &&& pfxMask }), 0) else (s, 1)

def opSigpu : OpInfo := opSys 1 [(.S, .rd), (.S, .rd)] true 1 true

/-- The order word's own checks (R113): order 0 to 4, every other bit 0, PFX bits only for order 4. -/
def orderOk (w : Word) : Bool :=
  decide (bits w.toNat 7 0 ≤ 4)
    && (if bits w.toNat 7 0 = 4 then decide (w &&& ~~~(pfxMask ||| 0xFF) = 0) else decide (w.toNat < 256))

/-- SIGPU: the order stands in op2 (R113). -/
def sigpuBody (op1 op2 : Spec) (c : Ctx) : M Unit := do
  let a ← source c (place opSigpu [op1, op2] 1) 8 tagsInt op1
  let w ← source c (place opSigpu [op1, op2] 2) 8 tagsInt op2
  let t ← numberBelow c 60 a
  guardM (orderOk w.data) (c.fail 0x0006)
  let order := bits w.data.toNat 7 0
  let s ← get
  let gone := notOperational s t (pswPart (s.pu c.pu).psw)
  guardM (gone || order != 4 || pfxOk s (puPart s t) w.data) (c.fail 0x0006)
  let r ← latched c .sigpu t (do
    if gone then pure [intWord 3]
    else do
      let s ← get
      let (s', cc) := sigpuOrder s c.pu t order w.data
      set s'
      pure [intWord (BitVec.ofNat 64 cc)])
  commit c opSigpu [op1, op2] [] (fun p => p.setCC (r.headD (intWord 0)).data.toNat)

def execSigpuSense (h : Hdr) (op1 op2 : Spec) (s : State) : Host.Outcome State Fault Refusal :=
  instr h opSigpu [op1, op2] (sigpuBody op1 op2) s

def execSigpuExternalCall (h : Hdr) (op1 op2 : Spec) (s : State) : Host.Outcome State Fault Refusal :=
  instr h opSigpu [op1, op2] (sigpuBody op1 op2) s

def execSigpuStop (h : Hdr) (op1 op2 : Spec) (s : State) : Host.Outcome State Fault Refusal :=
  instr h opSigpu [op1, op2] (sigpuBody op1 op2) s

def execSigpuRestart (h : Hdr) (op1 op2 : Spec) (s : State) : Host.Outcome State Fault Refusal :=
  instr h opSigpu [op1, op2] (sigpuBody op1 op2) s

def execSigpuSetPrefix (h : Hdr) (op1 op2 : Spec) (s : State) : Host.Outcome State Fault Refusal :=
  instr h opSigpu [op1, op2] (sigpuBody op1 op2) s

/-! ### The two-byte map (R111) -/

/-- PSWLD (R112): two words tagged INT on 8 bytes, loaded under R46 and R50. -/
def execPswld (h : Hdr) (op1 : Spec) (s : State) : Host.Outcome State Fault Refusal :=
  let i := opSys 2 [(.M, .rd)] true 2 true
  instr h i [op1] (fun c => do
    let ms ← longOperand c (place i [op1] 1) 2 8 op1
    let ws ← readPair c tagsInt ms
    let new : BitVec 128 := (ws.headD uninitWord).data ++ ((ws.getD 1 uninitWord).data)
    let s ← get
    match pswLoadFault s c.pu new with
    | some code => c.fail code
    | none => do
      commit c i [op1] [] id
      modify (fun s => s.modPu c.pu (fun p => { p with psw := new }))) s

def execCtlwr (h : Hdr) (op1 op2 : Spec) (s : State) : Host.Outcome State Fault Refusal :=
  let i := opSys 2 [(.S, .rd), (.S, .rd)] true 1 true
  instr h i [op1, op2] (fun c => do
    let a ← source c (place i [op1, op2] 1) 8 tagsInt op1
    let v ← source c (place i [op1, op2] 2) 8 tagsInt op2
    let n ← numberBelow c 32 a
    commit c i [op1, op2] [] (fun p => p.setCtl n v.data)) s

def execCtlrd (h : Hdr) (op1 op2 : Spec) (s : State) : Host.Outcome State Fault Refusal :=
  let i := opSys 2 [(.D, .wr), (.S, .rd)] true 2 true
  instr h i [op1, op2] (fun c => do
    let l ← target c (place i [op1, op2] 1) 8 op1
    let a ← source c (place i [op1, op2] 2) 8 tagsInt op2
    checkDest c l tagInt
    let n ← numberBelow c 32 a
    let s ← get
    commitTo c i [op1, op2] l (intWord ((s.pu c.pu).ctlReg n)) id) s

/-- PFXWR (R49). -/
def execPfxwr (h : Hdr) (op1 : Spec) (s : State) : Host.Outcome State Fault Refusal :=
  let i := opSys 2 [(.S, .rd)] true 1 true
  instr h i [op1] (fun c => do
    let w ← source c (place i [op1] 1) 8 tagsInt op1
    let s ← get
    guardM (pfxOk s (pswPart (s.pu c.pu).psw) w.data) (c.fail 0x0030)
    commit c i [op1] [] (fun p => { p with pfxArea := w.data &&& pfxMask })) s

def execPfxrd (h : Hdr) (op1 : Spec) (s : State) : Host.Outcome State Fault Refusal :=
  let i := opSys 2 [(.D, .wr)] true 2 true
  instr h i [op1] (fun c => do
    let l ← target c (place i [op1] 1) 8 op1
    checkDest c l tagInt
    let s ← get
    commitTo c i [op1] l (intWord (s.pu c.pu).pfxArea) id) s

/-- A PU's translation buffer emptied (R57). -/
def purge (s : State) (n : Nat) : State := s.modPu n (fun p => { p with tbMark := s.tbHist.length })

def execTbpurge (h : Hdr) (s : State) : Host.Outcome State Fault Refusal :=
  let i := opSys 2 [] false 2 true
  instr h i [] (fun c => do
    commit c i [] [] id
    modify (fun s => purge s c.pu)) s

/-- TBPURGEP (R112): the translation buffers of every PU of this partition. -/
def execTbpurgep (h : Hdr) (s : State) : Host.Outcome State Fault Refusal :=
  let i := opSys 2 [] false 2 true
  instr h i [] (fun c => do
    commit c i [] [] id
    modify (fun s => (pusOf s (pswPart (s.pu c.pu).psw)).foldl purge (purge s c.pu))) s

end Sys2Proof.Machine
end

