-- ==== Sys2Proof/Machine/Float.lean ====
section
/-! DEFINITION. Binary floating point (R119 to R127): IEEE 754-2019 binary64 and binary32, exact results rounded once. -/

namespace Sys2Proof.Machine

/-- A binary format: precision p and exponent width w. -/
structure Fmt where
  p : Nat
  w : Nat
deriving DecidableEq, Repr

def fmt64 : Fmt := ⟨53, 11⟩
def fmt32 : Fmt := ⟨24, 8⟩

def Fmt.total (f : Fmt) : Nat := f.p + f.w
def Fmt.bias (f : Fmt) : Int := 2 ^ (f.w - 1) - 1
/-- The bits of +∞. -/
def Fmt.inf (f : Fmt) : Nat := (2 ^ f.w - 1) * 2 ^ (f.p - 1)
/-- The default NaN (R123). -/
def Fmt.nan (f : Fmt) : Nat := f.inf + 2 ^ (f.p - 2)
def Fmt.signBit (f : Fmt) : Nat := 2 ^ (f.total - 1)
/-- The exponent of the smallest subnormal's unit. -/
def Fmt.minUlp (f : Fmt) : Int := 1 - f.bias - (f.p - 1 : Nat)

/-- A floating-point datum. -/
inductive Fp where
  | nan (quiet : Bool) (bits : Nat)
  | inf (sign : Bool)
  /-- (-1)^sign × m × 2^e. -/
  | fin (sign : Bool) (m : Nat) (e : Int)
deriving DecidableEq, Repr

/-- Reads a datum from the low bits of a word. -/
def Fmt.read (f : Fmt) (w : Word) : Fp :=
  let b := w.toNat % 2 ^ f.total
  let sign := b.testBit (f.total - 1)
  let ex := b / 2 ^ (f.p - 1) % 2 ^ f.w
  let fr := b % 2 ^ (f.p - 1)
  if ex = 2 ^ f.w - 1 then (if fr = 0 then .inf sign else .nan (fr.testBit (f.p - 2)) b)
  else if ex = 0 then .fin sign fr f.minUlp
  else .fin sign (fr + 2 ^ (f.p - 1)) (f.minUlp + (ex - 1 : Nat))

/-- The flags of R119: invalid, divide by zero, overflow, underflow, inexact. -/
def flV : Nat := 16
def flZ : Nat := 8
def flO : Nat := 4
def flU : Nat := 2
def flX : Nat := 1

/-- The roundings of FPC.RM. -/
inductive Rm where
  | even
  | zero
  | up
  | down
  | away
deriving DecidableEq, Repr

/-- The rounding of FPC.RM (R119); a reserved value, which only a debug write puts there (R437), rounds as ties away (log entry 139). -/
def rmOf (fpc : Word) : Rm :=
  match bits fpc.toNat 2 0 with
  | 0 => .even
  | 1 => .zero
  | 2 => .up
  | 3 => .down
  | _ => .away

/-- m / 2^k rounded, and whether that was inexact. -/
def roundShift (rm : Rm) (sign : Bool) (m k : Nat) : Nat × Bool :=
  let q := m / 2 ^ k
  let r := m % 2 ^ k
  let up := match rm with
    | .even => decide (2 ^ k < 2 * r) || (decide (2 * r = 2 ^ k) && q % 2 == 1)
    | .zero => false
    | .up => !sign && decide (r ≠ 0)
    | .down => sign && decide (r ≠ 0)
    | .away => decide (2 ^ k ≤ 2 * r)
  (if up && decide (r ≠ 0) then q + 1 else q, decide (r ≠ 0))

/-- m × 2^e rounded to a multiple of 2^u. -/
def roundAt (rm : Rm) (sign : Bool) (m : Nat) (e u : Int) : Nat × Bool :=
  if u ≤ e then (m * 2 ^ (e - u).toNat, false) else roundShift rm sign m (u - e).toNat

def Fmt.signed (f : Fmt) (sign : Bool) (b : Nat) : Nat := if sign then b + f.signBit else b

/-- The exact value (-1)^sign × m × 2^e rounded once into the format (R122): bits and flags. A value with more bits than
the format holds may carry a last sticky bit. -/
def Fmt.round (f : Fmt) (rm : Rm) (sign : Bool) (m : Nat) (e : Int) : Nat × Nat :=
  if m = 0 then (f.signed sign 0, 0)
  else
    let u := e + (Nat.log2 m + 1 : Nat) - f.p
    let (mu, _) := roundAt rm sign m e u
    let tiny := decide (u < f.minUlp) && decide (mu < 2 ^ (f.p - 1 + (f.minUlp - u).toNat))
    let v := max u f.minUlp
    let (q, inexact) := roundAt rm sign m e v
    let b := if q < 2 ^ (f.p - 1) then q else (v - f.minUlp).toNat * 2 ^ (f.p - 1) + q
    if f.inf ≤ b then
      let toMax := match rm with
        | .zero => true
        | .up => sign
        | .down => !sign
        | _ => false
      (f.signed sign (if toMax then f.inf - 1 else f.inf), flO + flX)
    else (f.signed sign b, if inexact then (if tiny then flU + flX else flX) else 0)

/-- An invalid operation with no NaN operand. -/
def Fmt.invalid (f : Fmt) : Nat × Nat := (f.nan, flV)

def Fp.isSnan : Fp → Bool
  | .nan q _ => !q
  | _ => false

def Fp.nanBits : Fp → Option Nat
  | .nan _ b => some b
  | _ => none

/-- The NaN rule (R123): the first NaN of the operands, quieted; a signalling one raises invalid. -/
def Fmt.nanOf (f : Fmt) (xs : List Fp) : Option (Nat × Nat) :=
  (xs.findSome? Fp.nanBits).map (fun b =>
    (if b.testBit (f.p - 2) then b else b + 2 ^ (f.p - 2), if xs.any Fp.isSnan then flV else 0))

def Fp.sign : Fp → Bool
  | .nan _ _ => false
  | .inf s => s
  | .fin s _ _ => s

def Fp.neg : Fp → Fp
  | .inf s => .inf (!s)
  | .fin s m e => .fin (!s) m e
  | x => x

/-- m × 2^e as a signed multiple of 2^u. -/
def sgnMant (sign : Bool) (m : Nat) (e u : Int) : Int :=
  let v : Int := (m * 2 ^ (e - u).toNat : Nat)
  if sign then -v else v

/-- The sum of two finite values, rounded; an exact zero sum has the sign of both, otherwise + or, toward −∞, −. -/
def Fmt.sumFin (f : Fmt) (rm : Rm) (s1 : Bool) (m1 : Nat) (e1 : Int) (s2 : Bool) (m2 : Nat) (e2 : Int) : Nat × Nat :=
  let u := min e1 e2
  let v := sgnMant s1 m1 e1 u + sgnMant s2 m2 e2 u
  if v = 0 then (f.signed (if s1 = s2 then s1 else decide (rm = .down)) 0, 0)
  else f.round rm (decide (v < 0)) v.natAbs u

def Fmt.add (f : Fmt) (rm : Rm) (x y : Fp) : Nat × Nat :=
  match f.nanOf [x, y] with
  | some r => r
  | none =>
    match x, y with
    | .inf s, .inf t => if s = t then (f.signed s f.inf, 0) else f.invalid
    | .inf s, _ => (f.signed s f.inf, 0)
    | _, .inf s => (f.signed s f.inf, 0)
    | .fin s1 m1 e1, .fin s2 m2 e2 => f.sumFin rm s1 m1 e1 s2 m2 e2
    | _, _ => f.invalid

def Fmt.sub (f : Fmt) (rm : Rm) (x y : Fp) : Nat × Nat := f.add rm x y.neg

def Fmt.mul (f : Fmt) (rm : Rm) (x y : Fp) : Nat × Nat :=
  match f.nanOf [x, y] with
  | some r => r
  | none =>
    let s := x.sign != y.sign
    match x, y with
    | .inf _, .fin _ m _ => if m = 0 then f.invalid else (f.signed s f.inf, 0)
    | .fin _ m _, .inf _ => if m = 0 then f.invalid else (f.signed s f.inf, 0)
    | .inf _, .inf _ => (f.signed s f.inf, 0)
    | .fin _ m1 e1, .fin _ m2 e2 => f.round rm s (m1 * m2) (e1 + e2)
    | _, _ => f.invalid

def Fmt.div (f : Fmt) (rm : Rm) (x y : Fp) : Nat × Nat :=
  match f.nanOf [x, y] with
  | some r => r
  | none =>
    let s := x.sign != y.sign
    match x, y with
    | .inf _, .inf _ => f.invalid
    | .inf _, _ => (f.signed s f.inf, 0)
    | .fin _ _ _, .inf _ => (f.signed s 0, 0)
    | .fin _ m1 e1, .fin _ m2 e2 =>
      if m2 = 0 then (if m1 = 0 then f.invalid else (f.signed s f.inf, flZ))
      else
        let k := 2 * f.p + 4
        let n := m1 * 2 ^ k
        let q := 2 * (n / m2) + (if n % m2 = 0 then 0 else 1)
        f.round rm s q (e1 - e2 - k - 1)
    | _, _ => f.invalid

/-- Fused multiply-add x × y + z (R122, R123). -/
def Fmt.fma (f : Fmt) (rm : Rm) (x y z : Fp) : Nat × Nat :=
  match f.nanOf [x, y, z] with
  | some r => r
  | none =>
    let s := x.sign != y.sign
    let bad := match x, y with
      | .inf _, .fin _ m _ => decide (m = 0)
      | .fin _ m _, .inf _ => decide (m = 0)
      | _, _ => false
    if bad then f.invalid
    else match x, y with
      | .fin _ m1 e1, .fin _ m2 e2 =>
        (match z with
         | .inf t => (f.signed t f.inf, 0)
         | .fin t m3 e3 => f.sumFin rm s (m1 * m2) (e1 + e2) t m3 e3
         | _ => f.invalid)
      | _, _ =>
        (match z with
         | .inf t => if s = t then (f.signed s f.inf, 0) else f.invalid
         | _ => (f.signed s f.inf, 0))

/-- The integer square root, bit by bit from bit k - 1 down. -/
def isqrt (n : Nat) : Nat → Nat → Nat
  | 0, r => r
  | k + 1, r => if (r + 2 ^ k) * (r + 2 ^ k) ≤ n then isqrt n k (r + 2 ^ k) else isqrt n k r

def Fmt.sqrt (f : Fmt) (rm : Rm) (x : Fp) : Nat × Nat :=
  match f.nanOf [x] with
  | some r => r
  | none =>
    match x with
    | .inf s => if s then f.invalid else (f.inf, 0)
    | .fin s m e =>
      if m = 0 then (f.signed s 0, 0)
      else if s then f.invalid
      else
        let k : Nat := 2 * f.p + 4 + (e % 2).toNat
        let n := m * 2 ^ k
        let r := isqrt n (2 * f.p + 8) 0
        f.round rm false (2 * r + (if r * r = n then 0 else 1)) ((e - k) / 2 - 1)
    | _ => f.invalid

/-- Orders two data that are no NaNs, −0 below +0 when `zeros`. -/
def fpLess (zeros : Bool) (x y : Fp) : Bool :=
  match x, y with
  | .inf s, .inf t => s && !t
  | .inf s, _ => s
  | _, .inf t => !t
  | .fin s1 m1 e1, .fin s2 m2 e2 =>
    let u := min e1 e2
    let v := sgnMant s1 m1 e1 u
    let w := sgnMant s2 m2 e2 u
    decide (v < w) || (zeros && decide (v = w) && m1 == 0 && s1 && !s2)
  | _, _ => false

/-- Minimum and maximum of IEEE 754-2019 (R122). -/
def Fmt.pick (f : Fmt) (isMax : Bool) (a b : Word) : Nat × Nat :=
  let x := f.read a
  let y := f.read b
  match f.nanOf [x, y] with
  | some r => r
  | none =>
    let takeY := if isMax then fpLess true x y else fpLess true y x
    ((if takeY then b else a).toNat % 2 ^ f.total, 0)

/-- Rounds to an integral value (RNDBF). -/
def Fmt.rint (f : Fmt) (rm : Rm) (x : Fp) : Nat × Nat :=
  match f.nanOf [x] with
  | some r => r
  | none =>
    match x with
    | .inf s => (f.signed s f.inf, 0)
    | .fin s m e =>
      let (q, inexact) := roundAt rm s m e (max e 0)
      ((f.round rm s q (max e 0)).1, if inexact then flX else 0)
    | _ => f.invalid

def Fmt.ofInt (f : Fmt) (rm : Rm) (x : Int) : Nat × Nat := f.round rm (decide (x < 0)) x.natAbs 0

/-- CVTBI (R123): the integer, the condition code and the flags. -/
def fpToInt (rm : Rm) (x : Fp) : Int × Nat × Nat :=
  match x with
  | .nan _ _ => (-2 ^ 63, 3, flV)
  | .inf s => (if s then -2 ^ 63 else 2 ^ 63 - 1, 3, flV)
  | .fin s m e =>
    let (q, inexact) := if 0 ≤ e then (m * 2 ^ e.toNat, false) else roundAt rm s m e 0
    let v : Int := if s then -(q : Int) else q
    if fits 64 v then (v, ccSign v, if inexact then flX else 0)
    else (if s then -2 ^ 63 else 2 ^ 63 - 1, 3, flV)

/-- Narrows or widens between the formats: NaN payloads keep their top bits (R123). -/
def fpConvert (src dst : Fmt) (rm : Rm) (x : Fp) : Nat × Nat :=
  match x with
  | .nan q b =>
    let fr := b % 2 ^ (src.p - 1)
    let fr := if q then fr else fr + 2 ^ (src.p - 2)
    let fr := if dst.p ≤ src.p then fr / 2 ^ (src.p - dst.p) else fr * 2 ^ (dst.p - src.p)
    (dst.signed (b.testBit (src.total - 1)) (dst.inf + fr), if q then 0 else flV)
  | .inf s => (dst.signed s dst.inf, 0)
  | .fin s m e => dst.round rm s m e

/-- Condition code of a BFP result (R122). -/
def Fmt.cc (f : Fmt) (b : Nat) : Nat :=
  match f.read (BitVec.ofNat 64 b) with
  | .nan _ _ => 3
  | .inf s => if s then 1 else 2
  | .fin s m _ => if m = 0 then 0 else if s then 1 else 2

/-! ### The control register (R119, R126) -/

/-- The flags of an instruction recorded, and the deferred trap of R126. -/
def fpRaise (fl : Nat) (ia : Nat) (p : Pu) : Pu :=
  let fpc := p.fpc ||| BitVec.ofNat 64 (fl * 2 ^ 8)
  let on := fl &&& bits fpc.toNat 36 32
  if on = 0 ∨ p.isBusy 1 then { p with fpc := fpc }
  else if bit fpc.toNat 47 then { p with fpc := fpc ||| (1 <<< 46) }
  else
    { p with
      fpc := wordSet (wordSet fpc 47 46 2) 44 40 on
      fpfia := BitVec.ofNat 64 ia }

/-- A general register word holding a BFP result (R119). -/
def bfpWord (b : Nat) : TWord := ⟨BitVec.ofNat 64 b, tagBfp⟩

def Ctx.fmt (c : Ctx) : Fmt := if c.narrow then fmt32 else fmt64

def ctxRm (s : State) (c : Ctx) : Rm := rmOf (s.pu c.pu).fpc

/-- Writes a BFP result with its flags and condition code. -/
def finishFp (c : Ctx) (i : OpInfo) (sp : List Spec) (l : Loc) (f : Fmt) (r : Nat × Nat) : M Unit := do
  checkDest c l tagBfp
  commitTo c i sp l (bfpWord r.1) (fun p => (fpRaise r.2 c.ia p).setCC (f.cc r.1))

def opFp (opLen : Nat) (slots : List (Cls × Use)) (n : Bool) : OpInfo :=
  { opLen := opLen, slots := slots, o := true, a := false, n := n, pl := 3, t4 := false }

/-- op1 ← op1 ∘ op2. -/
def fpBinary (g : Fmt → Rm → Word → Word → Nat × Nat) (h : Hdr) (op1 op2 : Spec) (s : State) :
    Host.Outcome State Fault Refusal :=
  let i := opFp 1 [(.D, .rw), (.S, .rd)] true
  instr h i [op1, op2] (fun c => do
    let (l, x) ← update c (place i [op1, op2] 1) c.width tagsBfp op1
    let y ← source c (place i [op1, op2] 2) c.width tagsBfp op2
    let s ← get
    finishFp c i [op1, op2] l c.fmt (g c.fmt (ctxRm s c) x.data y.data)) s

def execAddbf (h : Hdr) (op1 op2 : Spec) (s : State) : Host.Outcome State Fault Refusal :=
  fpBinary (fun f rm x y => f.add rm (f.read x) (f.read y)) h op1 op2 s

def execSubbf (h : Hdr) (op1 op2 : Spec) (s : State) : Host.Outcome State Fault Refusal :=
  fpBinary (fun f rm x y => f.sub rm (f.read x) (f.read y)) h op1 op2 s

def execMulbf (h : Hdr) (op1 op2 : Spec) (s : State) : Host.Outcome State Fault Refusal :=
  fpBinary (fun f rm x y => f.mul rm (f.read x) (f.read y)) h op1 op2 s

def execDivbf (h : Hdr) (op1 op2 : Spec) (s : State) : Host.Outcome State Fault Refusal :=
  fpBinary (fun f rm x y => f.div rm (f.read x) (f.read y)) h op1 op2 s

def execMinbf (h : Hdr) (op1 op2 : Spec) (s : State) : Host.Outcome State Fault Refusal :=
  fpBinary (fun f _ x y => f.pick false x y) h op1 op2 s

def execMaxbf (h : Hdr) (op1 op2 : Spec) (s : State) : Host.Outcome State Fault Refusal :=
  fpBinary (fun f _ x y => f.pick true x y) h op1 op2 s

def execFmabf (h : Hdr) (op1 op2 op3 : Spec) (s : State) : Host.Outcome State Fault Refusal :=
  let i := opFp 1 [(.D, .rw), (.S, .rd), (.S, .rd)] true
  instr h i [op1, op2, op3] (fun c => do
    let (l, z) ← update c (place i [op1, op2, op3] 1) c.width tagsBfp op1
    let x ← source c (place i [op1, op2, op3] 2) c.width tagsBfp op2
    let y ← source c (place i [op1, op2, op3] 3) c.width tagsBfp op3
    let s ← get
    let f := c.fmt
    finishFp c i [op1, op2, op3] l f (f.fma (ctxRm s c) (f.read x.data) (f.read y.data) (f.read z.data))) s

/-- NEGBF and ABSBF: the sign bit alone, and no flag. -/
def fpSign (g : Fmt → Nat → Nat) (h : Hdr) (op1 : Spec) (s : State) : Host.Outcome State Fault Refusal :=
  let i := opFp 1 [(.D, .rw)] true
  instr h i [op1] (fun c => do
    let (l, x) ← update c (place i [op1] 1) c.width tagsBfp op1
    finishFp c i [op1] l c.fmt (g c.fmt (x.data.toNat % 2 ^ c.fmt.total), 0)) s

def execNegbf (h : Hdr) (op1 : Spec) (s : State) : Host.Outcome State Fault Refusal :=
  fpSign (fun f b => (b + f.signBit) % 2 ^ f.total) h op1 s

def execAbsbf (h : Hdr) (op1 : Spec) (s : State) : Host.Outcome State Fault Refusal :=
  fpSign (fun f b => b % f.signBit) h op1 s

def opLfpc : OpInfo := opSys 1 [(.S, .rd)] true 3 true
def opStfpc : OpInfo := opSys 1 [(.D, .wr)] true 3 true

/-- LFPC (R121): TE, FLAGS and RM; PEND, MULT and PCAUSE stay. -/
def execLfpc (h : Hdr) (op1 : Spec) (s : State) : Host.Outcome State Fault Refusal :=
  instr h opLfpc [op1] (fun c => do
    let w ← source c (place opLfpc [op1] 1) 8 tagsInt op1
    guardM (decide (bits w.data.toNat 2 0 ≤ 4)) (c.fail 0x0006)
    let m : Word := 0x0000001F00001F07
    commit c opLfpc [op1] [] (fun p => { p with fpc := (p.fpc &&& ~~~m) ||| (w.data &&& m) })) s

/-- A control word stored tagged INT. -/
def storeControl (g : Pu → Word) (h : Hdr) (op1 : Spec) (s : State) : Host.Outcome State Fault Refusal :=
  instr h opStfpc [op1] (fun c => do
    let l ← target c (place opStfpc [op1] 1) 8 op1
    checkDest c l tagInt
    let s ← get
    commitTo c opStfpc [op1] l (intWord (g (s.pu c.pu))) id) s

def execStfpc (h : Hdr) (op1 : Spec) (s : State) : Host.Outcome State Fault Refusal := storeControl (·.fpc) h op1 s

def execStfia (h : Hdr) (op1 : Spec) (s : State) : Host.Outcome State Fault Refusal := storeControl (·.fpfia) h op1 s

/-- op1 ← g(op2) in one format. -/
def fpUnary (g : Fmt → Rm → Fp → Nat × Nat) (h : Hdr) (op1 op2 : Spec) (s : State) :
    Host.Outcome State Fault Refusal :=
  let i := opFp 2 [(.D, .wr), (.S, .rd)] true
  instr h i [op1, op2] (fun c => do
    let l ← target c (place i [op1, op2] 1) c.width op1
    let y ← source c (place i [op1, op2] 2) c.width tagsBfp op2
    let s ← get
    finishFp c i [op1, op2] l c.fmt (g c.fmt (ctxRm s c) (c.fmt.read y.data))) s

def execSqrtbf (h : Hdr) (op1 op2 : Spec) (s : State) : Host.Outcome State Fault Refusal :=
  fpUnary Fmt.sqrt h op1 op2 s

def execRndbf (h : Hdr) (op1 op2 : Spec) (s : State) : Host.Outcome State Fault Refusal :=
  fpUnary Fmt.rint h op1 op2 s

/-- CVTIB (R120): the integer operand is always 64 bits. -/
def execCvtib (h : Hdr) (op1 op2 : Spec) (s : State) : Host.Outcome State Fault Refusal :=
  let i := opFp 2 [(.D, .wr), (.S, .rd)] true
  instr h i [op1, op2] (fun c => do
    let l ← target c (place i [op1, op2] 1) c.width op1
    let y ← source c (place i [op1, op2] 2) 8 tagsInt op2
    let s ← get
    finishFp c i [op1, op2] l c.fmt (c.fmt.ofInt (ctxRm s c) (sval 64 y.data))) s

/-- CVTBI (R123). -/
def execCvtbi (h : Hdr) (op1 op2 : Spec) (s : State) : Host.Outcome State Fault Refusal :=
  let i := opFp 2 [(.D, .wr), (.S, .rd)] true
  instr h i [op1, op2] (fun c => do
    let l ← target c (place i [op1, op2] 1) 8 op1
    let y ← source c (place i [op1, op2] 2) c.width tagsBfp op2
    checkDest c l tagInt
    let s ← get
    let (v, cc, fl) := fpToInt (ctxRm s c) (c.fmt.read y.data)
    commitTo c i [op1, op2] l (intWord (BitVec.ofInt 64 v)) (fun p => (fpRaise fl c.ia p).setCC cc)) s

/-- CVTBW and CVTBN: between the formats, each side in its own layout (R119, R120). -/
def fpChange (src dst : Fmt) (ls ld : Nat) (h : Hdr) (op1 op2 : Spec) (s : State) :
    Host.Outcome State Fault Refusal :=
  let i := opFp 2 [(.D, .wr), (.S, .rd)] false
  instr h i [op1, op2] (fun c => do
    let l ← target c (place i [op1, op2] 1) ld op1
    let y ← source c (place i [op1, op2] 2) ls tagsBfp op2
    let s ← get
    finishFp c i [op1, op2] l dst (fpConvert src dst (ctxRm s c) (src.read y.data))) s

def execCvtbw (h : Hdr) (op1 op2 : Spec) (s : State) : Host.Outcome State Fault Refusal :=
  fpChange fmt32 fmt64 4 8 h op1 op2 s

def execCvtbn (h : Hdr) (op1 op2 : Spec) (s : State) : Host.Outcome State Fault Refusal :=
  fpChange fmt64 fmt32 8 4 h op1 op2 s

end Sys2Proof.Machine
end

