-- ==== Sys2Proof/Machine/Decimal.lean ====
section
/-! DEFINITION. Packed decimal (R128 to R131), and compare, which takes every comparable type (R96, R124). -/

namespace Sys2Proof.Machine

/-- The digits of a number of k nibbles, none where a nibble is no digit (R130). -/
def decDigits : Nat → Nat → Option Nat
  | 0, _ => some 0
  | k + 1, x => if 9 < x % 16 then none else (decDigits k (x / 16)).map (fun r => 10 * r + x % 16)

/-- The sign nibble (R130): some true for negative. -/
def decSign (x : Nat) : Option Bool :=
  if x % 16 < 10 then none else some (x % 16 == 0xB || x % 16 == 0xD)

/-- A decimal of k digits and a sign. -/
def decValue (k x : Nat) : Option Int :=
  match decDigits k (x / 16), decSign x with
  | some d, some neg => some (if neg then -(d : Int) else d)
  | _, _ => none

/-- The number a pair of words holds (R128). -/
def pairValue (hi lo : Word) : Option Int := decValue 31 (hi.toNat * 2 ^ 64 + lo.toNat)

/-- k packed digits of a number. -/
def packDigits : Nat → Nat → Nat
  | 0, _ => 0
  | k + 1, x => x % 10 + 16 * packDigits k (x / 10)

/-- The low 31 digits of a value with a sign, as a pair (R131). -/
def packPair (neg : Bool) (m : Nat) : TWord × TWord :=
  let x := packDigits 31 m * 16 + (if neg then 0xD else 0xC)
  (⟨BitVec.ofNat 64 (x / 2 ^ 64), tagDec⟩, ⟨BitVec.ofNat 64 x, tagDec⟩)

def opDec (opLen : Nat) (slots : List (Cls × Use)) (o : Bool) : OpInfo :=
  { opLen := opLen, slots := slots, o := o, a := false, n := false, pl := 3, t4 := false }

/-- The decimal operand of a pair slot, none when its digits or sign are invalid. -/
def decPair (c : Ctx) (slot : Nat) (sp : Spec) : M (Option Int) := do
  let (hi, lo) ← readRegPair c slot tagsDec sp
  pure (pairValue hi.data lo.data)

/-- ADDP and SUBP (R131). -/
def decArith (sub : Bool) (h : Hdr) (op1 op2 : Spec) (s : State) : Host.Outcome State Fault Refusal :=
  let i := opDec 1 [(.P, .rw), (.P, .rd)] false
  instr h i [op1, op2] (fun c => do
    let a ← decPair c 1 op1
    let b ← decPair c 2 op2
    match a, b with
    | some x, some y => do
      let r := if sub then x - y else x + y
      let cc := if 10 ^ 31 ≤ r.natAbs then 3 else ccSign r
      let (hi, lo) := packPair (decide (r < 0)) r.natAbs
      commit c i [op1, op2] [] (fun p => (setPair (regNum op1) hi lo p).setCC cc)
      let s ← get
      if cc = 3 && pswDOV (s.pu c.pu).psw then raiseAfter c 0x000B
    | none, _ => c.fail 0x000A 1
    | _, none => c.fail 0x000A 2) s

def execAddp (h : Hdr) (op1 op2 : Spec) (s : State) : Host.Outcome State Fault Refusal := decArith false h op1 op2 s

def execSubp (h : Hdr) (op1 op2 : Spec) (s : State) : Host.Outcome State Fault Refusal := decArith true h op1 op2 s

def execCmpp (h : Hdr) (op1 op2 : Spec) (s : State) : Host.Outcome State Fault Refusal :=
  let i := opDec 1 [(.P, .rd), (.P, .rd)] false
  instr h i [op1, op2] (fun c => do
    let a ← decPair c 1 op1
    let b ← decPair c 2 op2
    match a, b with
    | some x, some y => commit c i [op1, op2] [] (fun p => p.setCC (ccCmp x y))
    | none, _ => c.fail 0x000A 1
    | _, none => c.fail 0x000A 2) s

/-- CVTPI (R131): out of range leaves op1 unchanged. -/
def execCvtpi (h : Hdr) (op1 op2 : Spec) (s : State) : Host.Outcome State Fault Refusal :=
  let i := opDec 2 [(.R, .wr), (.P, .rd)] false
  instr h i [op1, op2] (fun c => do
    let b ← decPair c 2 op2
    match b with
    | none => c.fail 0x000A 2
    | some y =>
      if fits 64 y then
        commit c i [op1, op2] [] (fun p => (p.setReg (regNum op1) (intWord (BitVec.ofInt 64 y))).setCC (ccSign y))
      else do
        commit c i [op1, op2] [] (fun p => p.setCC 3)
        overflowInt c 3) s

def execCvtip (h : Hdr) (op1 op2 : Spec) (s : State) : Host.Outcome State Fault Refusal :=
  let i := opDec 2 [(.P, .wr), (.S, .rd)] true
  instr h i [op1, op2] (fun c => do
    let y ← source c (place i [op1, op2] 2) 8 tagsInt op2
    let v := sval 64 y.data
    let (hi, lo) := packPair (decide (v < 0)) v.natAbs
    commit c i [op1, op2] [] (fun p => (setPair (regNum op1) hi lo p).setCC (ccSign v))) s

/-! ### Compare -/

def opCmp : OpInfo := { opLen := 1, slots := [(.S, .rd), (.S, .rd)], o := true, a := false, n := true, pl := 3, t4 := false }

/-- The type CMP compares two operands as (R96); none where R35 refuses the pair. -/
def cmpType (relax : Bool) (x y : Tag) : Option Tag :=
  if x = y ∧ x ≠ tagUninit then some x
  else if !relax then none
  else if x ≠ tagUninit then some x
  else if y ≠ tagUninit then some y
  else some tagInt

/-- A compare of BFP operands (R124): condition code and flags. -/
def cmpFp (f : Fmt) (a b : Word) : Nat × Nat :=
  let x := f.read a
  let y := f.read b
  match f.nanOf [x, y] with
  | some (_, fl) => (3, fl)
  | none => (if fpLess false x y then 1 else if fpLess false y x then 2 else 0, 0)

/-- The outcome of CMP on two operands taken as one type: condition code and flags, none for invalid decimal data. -/
def cmpAs (c : Ctx) (t : Tag) (x y : Word) : Option (Nat × Nat) :=
  let b := c.bitsOf
  if t = tagInt then some (ccCmp (sval b x) (sval b y), 0)
  else if t = tagBfp then some (cmpFp c.fmt x y)
  else if t = tagDec then
    match decValue (b / 4 - 1) (uval b x), decValue (b / 4 - 1) (uval b y) with
    | some v, some w => some (ccCmp v w, 0)
    | _, _ => none
  else some (ccCmp (uval b x) (uval b y), 0)

/-- A compare's two operands with the location of the second. -/
def cmpOperands (c : Ctx) (ok : List Tag) (op1 op2 : Spec) : M (TWord × Loc × TWord) := do
  let x ← source c (place opCmp [op1, op2] 1) c.width ok op1
  let l ← locate c (place opCmp [op1, op2] 2) c.width op2
  let y ← readLoc c 2 ok l
  pure (x, l, y)

def execCmp (h : Hdr) (op1 op2 : Spec) (s : State) : Host.Outcome State Fault Refusal :=
  instr h opCmp [op1, op2] (fun c => do
    let (x, l, y) ← cmpOperands c tagsCmp op1 op2
    match cmpType c.relax x.tag y.tag with
    | none => c.throwReport 0x0010 (l.report c 2)
    | some t =>
      match cmpAs c t x.data y.data with
      | none => c.fail 0x000A (if (cmpAs c t x.data 0xC).isNone then 1 else 2)
      | some (cc, fl) => commit c opCmp [op1, op2] [] (fun p => (fpRaise fl c.ia p).setCC cc)) s

def execCmpu (h : Hdr) (op1 op2 : Spec) (s : State) : Host.Outcome State Fault Refusal :=
  instr h opCmp [op1, op2] (fun c => do
    let (x, l, y) ← cmpOperands c tagsCmpu op1 op2
    if x.tag ≠ y.tag ∧ c.relax = false then c.throwReport 0x0010 (l.report c 2)
    else commit c opCmp [op1, op2] [] (fun p => p.setCC (ccCmp (uval c.bitsOf x.data) (uval c.bitsOf y.data)))) s

end Sys2Proof.Machine
end

