-- ==== Sys2Proof/Machine/Movl.lean ====
section
/-! DEFINITION. The register pairs of resumable instructions (R92, R94) and MOVL (R93). -/

namespace Sys2Proof.Machine

/-- A storage operand described by a register pair (R92). -/
structure PairOp where
  slot : Nat
  n    : Nat
  off  : Nat
  bank : Nat
  len  : Nat
deriving DecidableEq, Repr

/-- Reads the pair of a slot: the offset INT or PTR, the length word INT. -/
def pairOp (c : Ctx) (slot : Nat) (sp : Spec) : M (PairOp × Word) := do
  let n := regNum sp
  let o ← readReg c slot tagsIntPtr n
  let w ← readReg c slot tagsInt (n + 1)
  pure ({ slot := slot, n := n, off := o.data.toNat, bank := bits w.data.toNat 63 61, len := bits w.data.toNat 32 0 }, w.data)

/-- The own check of a length word (R92): reserved bits 0 and LEN at most 2^32. -/
def lenOk (w : Word) : Bool := bits w.toNat 60 33 == 0 && decide (bits w.toNat 32 0 ≤ 2 ^ 32)

/-- A pair advanced by k bytes (R94). -/
def PairOp.advance (o : PairOp) (k : Nat) (p : Pu) : Pu :=
  (p.setReg o.n ⟨BitVec.ofNat 64 (o.off + k), (p.reg o.n).tag⟩).setReg (o.n + 1)
    ⟨BitVec.ofNat 64 (o.bank * 2 ^ 61 + (o.len - k)), (p.reg (o.n + 1)).tag⟩

/-- The virtual address of the pair's first byte. -/
def PairOp.va (o : PairOp) (s : State) (n : Nat) : Nat := ((s.pu n).bank o.bank).base.data.toNat + o.off

/-- Bytes from a virtual address to the next 4 KiB boundary. -/
def toBoundary (va : Nat) : Nat := 4096 - va % 4096

/-- Steps 1 to 9 of R54 for `k` bytes of a pair, in one page: virtual and absolute address. Device space raises addressing 0x0031 (log
entry 138). -/
def unitLoc (c : Ctx) (o : PairOp) (k : Nat) (kind : Kind) (need : Right) : M (Nat × Nat) := do
  let (va, root) ← bankAddr c o.slot o.bank o.off k kind.acc need
  let a ← xlate c o.slot o.bank kind root va k .memory
  pure (va, a)

/-- The bytes [i, i + len) of an operand that lie in one word, from `i` on. -/
def chunkLen (a i k : Nat) : Nat := min (8 - (a + i) % 8) (k - i)

/-- The word parts of `k` bytes at address a, as (offset, length). -/
def chunks (a k : Nat) : Nat → Nat → List (Nat × Nat)
  | 0, _ => []
  | f + 1, i => if k ≤ i then [] else (i, chunkLen a i k) :: chunks a k f (i + chunkLen a i k)

def chunksOf (a k : Nat) : List (Nat × Nat) := chunks a k (k / 8 + 2) 0

/-- An operand's place for the report of a failing byte. -/
def unitPlace (o : PairOp) (va a acc i len : Nat) : MLoc :=
  { slot := o.slot, bank := o.bank, va := va + i, abs := a + i, len := len, acc := acc }

/-- The reads of a unit's source words: whole words that fill a destination word under R87, all others under R36. -/
def checkSource (c : Ctx) (o : PairOp) (va a : Nat) (whole : Bool) : List (Nat × Nat) → M Unit
  | [] => pure ()
  | (i, len) :: cs => do
    let s ← get
    let m := unitPlace o va a Kind.load.acc i len
    needLine c.pu m.abs
    checkRead c m c.relax (if whole && len == 8 then tagsWhole else tagsNarrow) (puView s c.pu ((a + i) / 8)).tag
    checkSource c o va a whole cs

/-- The narrow stores of a unit's destination words (R37). -/
def checkNarrows (c : Ctx) (o : PairOp) (va a : Nat) (whole : Bool) : List (Nat × Nat) → M Unit
  | [] => pure ()
  | (i, len) :: cs => do
    if !(whole && len == 8) then checkNarrow c (unitPlace o va a Kind.store.acc i len)
    checkNarrows c o va a whole cs

/-- The POLICY checks of the destination words that take a source word's tag (R44). -/
def checkWholes (c : Ctx) (o : PairOp) (va a src : Nat) (whole : Bool) : List (Nat × Nat) → M Unit
  | [] => pure ()
  | (i, len) :: cs => do
    let s ← get
    if whole && len == 8 then checkPolicy c (unitPlace o va a Kind.store.acc i len) (puView s c.pu ((src + i) / 8)).tag
    checkWholes c o va a src whole cs

/-- A word as a copy under way sees it: what it has written, else memory as the PU sees it. -/
def copyView (s : State) (n : Nat) (acc : Sparse TWord) (w : Nat) : TWord := (spFind acc w).getD (puView s n w)

/-- Copies single bytes, ascending. -/
def copyBytes (s : State) (n dst src : Nat) : Nat → Sparse TWord → Sparse TWord
  | 0, acc => acc
  | k + 1, acc =>
    let b := extract (copyView s n acc (src / 8)).data src 1
    copyBytes s n (dst + 1) (src + 1) k
      (spPut acc (dst / 8) (some (applyWrite (copyView s n acc (dst / 8)) (wordWrite dst 1 b none))))

/-- Copies the word parts of a destination, ascending. -/
def copyChunks (s : State) (n dst src : Nat) (whole : Bool) : List (Nat × Nat) → Sparse TWord → Sparse TWord
  | [], acc => acc
  | (i, len) :: cs, acc =>
    copyChunks s n dst src whole cs
      (if whole && len == 8 then spPut acc ((dst + i) / 8) (some (copyView s n acc ((src + i) / 8)))
       else copyBytes s n (dst + i) (src + i) len acc)

/-- The held stores of a unit (R182). -/
def unitStores (acc : Sparse TWord) (dst va : Nat) (whole : Bool) (cs : List (Nat × Nat)) : List HeldStore :=
  cs.map (fun p =>
    let w := (spFind acc ((dst + p.1) / 8)).getD uninitWord
    { abs := dst + p.1, va := va + p.1, len := p.2, data := extract w.data (dst + p.1) p.2
      tag := if whole && p.2 == 8 then some w.tag else none })

def opMovl : OpInfo := { opLen := 1, slots := [(.P, .rw), (.P, .rw)], o := false, a := false, n := false, pl := 3, t4 := false }

/-- The end of a resumable instruction or of a unit of it (R94): the pairs advance; at the last unit the condition code is
set and IA passes the instruction. -/
def endUnit (c : Ctx) (last : Bool) (cc : Nat) (f : Pu → Pu) : M Unit :=
  modify (fun s => s.modPu c.pu (fun p =>
    if last then ((f p).setCC cc).setIA c.next else { f p with resume := some c.len }))

/-- MOVL (R93): one unit of work. -/
def execMovl (h : Hdr) (op1 op2 : Spec) (s : State) : Host.Outcome State Fault Refusal :=
  instr h opMovl [op1, op2] (fun c => do
    let (d, w1) ← pairOp c 1 op1
    let (r, w2) ← pairOp c 2 op2
    guardM (lenOk w1) (c.fail 0x0006 1)
    guardM (lenOk w2) (c.fail 0x0006 2)
    let cc := ccCmp d.len r.len
    let l := min d.len r.len
    if l = 0 then endUnit c true cc id
    else do
      let s ← get
      if !(s.pu c.pu).unitHold.isEmpty || strictPending (s.pu c.pu).mb then waitStores c
      let k := min l (min (toBoundary (d.va s c.pu)) (toBoundary (r.va s c.pu)))
      let (va1, a1) ← unitLoc c d k .store .w
      let whole := d.va s c.pu % 8 == r.va s c.pu % 8
      checkNarrows c d va1 a1 whole (chunksOf a1 k)
      let (va2, a2) ← unitLoc c r k .load .r
      checkSource c r va2 a2 whole (chunksOf a2 k)
      checkWholes c d va1 a1 a2 whole (chunksOf a1 k)
      let s ← get
      let acc := copyChunks s c.pu a1 a2 whole (chunksOf a1 k) []
      let held := unitStores acc a1 va1 whole (chunksOf a1 k)
      endUnit c (decide (k = l)) cc (fun p => { r.advance k (d.advance k p) with unitHold := held }.drain)) s

end Sys2Proof.Machine
end

