-- ==== Sys2Proof/Machine/Entry.lean ====
section
/-! DEFINITION. Interruption entry at a boundary (R134, R138) and the end of a lockup (R143). -/

namespace Sys2Proof.Machine

/-- INTERRUPTION_ENTRY (R134, R138): the PU makes the first entry due at its boundary, and its bundle is voted; nothing where
none is due. -/
def execInterruptionEntry (e : EntryHdr) (s : State) : Host.Outcome State Fault Refusal :=
  let n := e.pu.val
  if canRun s n && atBoundary (s.pu n) then
    match dueEntry s n false with
    | none => .next s
    | some x => .next (enterVoted s n x e.vote)
  else .next s

/-- The end of a lockup (R143): LOCKED and the busy bits clear, the PU stopped, which a held SIGPU stop asked for too; a restart
that is pending makes it run, and it takes that before its first fetch. -/
def pulockClear (s : State) (n : Nat) : State :=
  if puLocked s n then
    let s := ccsSet s (puReg n 0xE00) 63 63 0
    let s := setPuState (s.modPu n (fun p => { p with busy := 0, stopHeld := false })) n 2
    wakeRestart s n
  else s

/-- PULOCK_CLEAR (R143): a write of 1 to PULOCK.LOCKED. -/
def execPulockClear (pu : Fin 60) (s : State) : Host.Outcome State Fault Refusal :=
  .next (pulockClear s pu.val)

end Sys2Proof.Machine
end

