-- ==== Sys2Proof/Machine/Cut.lean ====
section
/-! DEFINITION. Keys and Cut (R365 to R370, R381 to R388): key-encryption keys, key-slot ownership, link keys, the random
bit generators, the state of the Mute engines, and the alarm. -/

namespace Sys2Proof.Machine

/-! ### The cluster Mute engines -/

/-- The register block of a cluster's Bellows engine, e = 2d + c. -/
def belReg (e off : Nat) : Nat := dieReg (e / 2) (0x400000 + (e % 2) * 0x10000 + off)

/-- The register block of a cluster's Mute engine, e = 2d + c. -/
def mutReg (e off : Nat) : Nat := belReg e (0x4000 + off)

/-- The engine of a PU's cluster. -/
def engineOf (n : Nat) : Nat := 2 * (n / 10) + n % 10 / 5

/-- STATE of a Mute engine: 0 free, 1 held, 2 fenced, 3 frozen. -/
def mutState (s : State) (e : Nat) : Nat := ccsFld s (mutReg e 0) 63 62

/-- The PU that holds a Mute engine. -/
def mutOwner (s : State) (e : Nat) : Nat := ccsFld s (mutReg e 0) 53 48

/-- The PU holds its cluster's Mute engine. -/
def holdsMute (s : State) (n : Nat) : Bool := mutState s (engineOf n) == 1 && mutOwner s (engineOf n) == n

def setMut (s : State) (e st owner : Nat) : State := ccsSet (ccsSet s (mutReg e 0) 63 62 st) (mutReg e 0) 53 48 owner

/-- A holding ends (R365). -/
def endHold (s : State) (e : Nat) : State := if mutState s e = 1 then setMut s e 0 0x3F else s

/-- The holding of a PU ends, when it has one. -/
def dropHold (s : State) (n : Nat) : State := if holdsMute s n then endHold s (engineOf n) else s

def frozen (s : State) : Bool := ccsFld s 0x40008 63 63 == 1

/-- RELEASE of MUTCMD (R365): discarded unless held. -/
def execRelease (e : Fin 12) (s : State) : Host.Outcome State Fault Refusal := .next (endHold s e.val)

/-- TEST of MUTCMD (R381): discarded unless fenced; a pass clears the fence. -/
def execMutcmdTest (e : Fin 12) (pass : Bool) (s : State) : Host.Outcome State Fault Refusal :=
  if mutState s e.val ≠ 2 then .next s
  else if pass then
    let s := { s with engTimes := spErase s.engTimes (12 + e.val) }
    let s := ccsSet (ccsSet s (mutReg e.val 0) 41 40 0) (mutReg e.val 0) 39 32 1
    .next (setMut s e.val (if frozen s then 3 else 0) 0x3F)
  else .next (ccsSet s (mutReg e.val 0) 39 32 2)

/-! ### Key slots -/

/-- PKEYOWNe of a partition. -/
def pkeyown (p e : Nat) : Nat := partReg p (0x600 + 8 * e)

/-- The partition that owns slot k of engine e (R369). -/
def slotOwner (s : State) (e k : Nat) : Nat :=
  ((List.range 32).find? (fun p => bit (inForce s (pkeyown p e)).toNat k)).getD 0

def slotGenOf (s : State) (e k : Nat) : Nat := s.genBase + spGet 0 s.slotGen (64 * e + k)

/-- A slot loaded or erased: MUTKV follows, and its generation count increments. -/
def setSlot (s : State) (e k : Nat) (v : Option SlotKey) : State :=
  let s := ccsSet s (mutReg e 0x18) k k (b2n v.isSome)
  { s with slotKeys := spPut s.slotKeys (64 * e + k) v
           slotGen := spSet 0 s.slotGen (64 * e + k) (spGet 0 s.slotGen (64 * e + k) + 1) }

/-- Erases the key a slot holds, if any. -/
def eraseSlot (s : State) (e k : Nat) : State := if (spFind s.slotKeys (64 * e + k)).isSome then setSlot s e k none else s

/-- Erases every listed slot that a test picks. -/
def eraseSlots (s : State) (pick : State → Nat → Nat → Bool) : State :=
  (s.slotKeys.map (·.1)).foldl (fun t i => if pick s (i / 64) (i % 64) then eraseSlot t (i / 64) (i % 64) else t) s

/-- A slot's owner changes at a tick: it loses its key (R369). -/
def ownerTick (before after : State) : State :=
  (after.slotKeys.map (·.1)).foldl (fun t i =>
    if slotOwner before (i / 64) (i % 64) ≠ slotOwner after (i / 64) (i % 64) then eraseSlot t (i / 64) (i % 64) else t) after

/-- A write to PKEYOWNe (R369): discarded when the partition is sealed, or, with DROP, when another partition of the same
engine has a bit of it. -/
def pkeyownWrite (s : State) (p e : Nat) (v : Word) : State :=
  if partSealed s p then s
  else
    let others := (List.range 32).foldl (fun (a : Word) q => if q = p then a else a ||| ccsGet s (pkeyown q e)) 0
    if v &&& others ≠ 0 then ccsSet s (mutReg e 0) 60 60 1
    else delayWrite s (pkeyown p e) v 2

def execPkeyownWrite (p : Fin 32) (e : Fin 12) (v : Word) (s : State) : Host.Outcome State Fault Refusal :=
  .next (pkeyownWrite s p.val e.val v)

/-! ### Key-encryption keys -/

/-- The bytes of a wrapped key in five registers. -/
def wrapBytes (ws : List Word) : List Byte := (ws.map (fun w => bytesBE 8 w.toNat)).flatten

/-- A write of KEKCMD (R368): discarded with DROP while a command runs. -/
def kekCmd (s : State) (cmd : Nat) : State :=
  if ccsFld s 0x40138 63 63 = 1 then ccsSet s 0x40008 60 60 1
  else
    { ccsSet s 0x40138 63 63 1 with
      kekJob := some { cmd := cmd, sel := ccsFld s 0x40100 4 0
                       wrap := (List.range 5).map (fun i => ccsGet s (0x40108 + 8 * i)), cut := false } }

/-- PROVISION (R368): KEKCMD written 0x01. -/
def execProvision (s : State) : Host.Outcome State Fault Refusal := .next (kekCmd s 1)

/-- KEK_ERASE (R368): KEKCMD written 0x02. -/
def execKekErase (s : State) : Host.Outcome State Fault Refusal := .next (kekCmd s 2)

/-- A partition's customer image key is gone: KEYV cleared (R165, R167). -/
def eraseImageKey (s : State) (p : Nat) : State :=
  ccsSet { s with imageKeys := spErase s.imageKeys p } (partReg p 0x300) 17 17 0

/-- A KEK command's effect and its STATUS (R368). -/
def kekRun (s : State) (j : KeyJob) : State × Nat :=
  let p := j.sel
  if j.cut then (s, 5)
  else match j.cmd with
    | 1 =>
      if partSealed s p && (spFind s.keks p).isSome then (s, 3)
      else match keyUnwrap Config.provisionKey (wrapBytes j.wrap) with
        | none => (s, 2)
        | some k => (ccsSet { s with keks := spPut s.keks p (some k) } 0x40138 p p 1, 1)
    | 2 =>
      let s := eraseImageKey { s with keks := spErase s.keks p } p
      (ccsSet (eraseSlots s (fun s e k => slotOwner s e k == p)) 0x40138 p p 0, 1)
    | _ => (s, 4)

/-- KEK_COMMAND_COMPLETE (R368). -/
def execKekCommandComplete (s : State) : Host.Outcome State Fault Refusal :=
  match s.kekJob with
  | none => .next s
  | some j =>
    let t := kekRun { s with kekJob := none } j
    .next (ccsSet (ccsSet t.1 0x40138 63 63 0) 0x40138 55 48 t.2)

/-! ### Link keys -/

def noLinkKey : LinkKey := { cur := none, prev := none, next := none, grace := 0 }

def linkKey (s : State) (c : Nat) : LinkKey := spGet noLinkKey s.linkKeys c

def setLinkKey (s : State) (c : Nat) (k : LinkKey) : State :=
  ccsSet { s with linkKeys := spSet noLinkKey s.linkKeys c k } (0x0205001000 + 8 * (c / 64)) (c % 64) (c % 64)
    (b2n (k.cur.isSome || k.next.isSome))

/-- A write of LKCMD (R383): discarded while a command runs. -/
def lkCmd (s : State) (cmd : Nat) : State :=
  if ccsFld s 0x0205000040 63 63 = 1 then s
  else
    { ccsSet s 0x0205000040 63 63 1 with
      lkJob := some { cmd := cmd, sel := ccsFld s 0x0205000008 11 0
                      wrap := (List.range 5).map (fun i => ccsGet s (0x0205000010 + 8 * i)), cut := false } }

def execLinkKeyLoad (s : State) : Host.Outcome State Fault Refusal := .next (lkCmd s 1)

def execLinkKeyErase (s : State) : Host.Outcome State Fault Refusal := .next (lkCmd s 2)

/-- A link-key command's effect and its STATUS (R383). -/
def lkRun (s : State) (j : KeyJob) : State × Nat :=
  if j.cut then (s, 5)
  else match j.cmd with
    | 1 =>
      match (spFind s.keks 0).bind (fun kek => keyUnwrap kek (wrapBytes j.wrap)) with
      | none => (s, 2)
      | some k => (setLinkKey s j.sel { linkKey s j.sel with next := some (k, 2) }, 1)
    | 2 => (setLinkKey s j.sel noLinkKey, 1)
    | _ => (s, 4)

/-- LINK_KEY_COMMAND_COMPLETE (R383). -/
def execLinkKeyCommandComplete (s : State) : Host.Outcome State Fault Refusal :=
  match s.lkJob with
  | none => .next s
  | some j =>
    let t := lkRun { s with lkJob := none } j
    .next (ccsSet (ccsSet t.1 0x0205000040 63 63 0) 0x0205000040 55 48 t.2)

/-- A shutter tick at one entry: a waiting key comes into force at its second tick, with CTR 1 and 1,024 shutters of
grace; the grace runs down. -/
def linkKeyTick (k : LinkKey) : LinkKey :=
  match k.next with
  | some (v, 1) => { cur := some v, prev := k.cur, next := none, grace := 1024 }
  | some (v, n) => { k with next := some (v, n - 1), grace := k.grace - 1 }
  | none => { k with grace := k.grace - 1 }

/-- A shutter tick at the link key table. -/
def linkKeysTick (s : State) : State :=
  let fresh := s.linkKeys.filterMap (fun e => match e.2.next with | some (_, 1) => some e.1 | _ => none)
  { s with linkKeys := s.linkKeys.map (fun e => (e.1, linkKeyTick e.2))
           linkCtr := s.linkCtr.filter (fun e => !fresh.contains (e.1 % 4096)) }

/-- LINK_KEY_GRACE_EXPIRY (R383): once the grace has run out the previous key is accepted no more. -/
def execLinkKeyGraceExpiry (cu : Fin 4096) (s : State) : Host.Outcome State Fault Refusal :=
  let k := linkKey s cu.val
  if k.grace = 0 then .next (setLinkKey s cu.val { k with prev := none }) else .next s

/-! ### Randomness (R382) -/

/-- ENT of a die's engines: the two of a compute die, the link pair of the I/O die. -/
def setEnt (s : State) (d v : Nat) : State :=
  if d = 6 then ccsSet s 0x0205000000 59 59 v
  else ccsSet (ccsSet s (mutReg (2 * d) 0) 61 61 v) (mutReg (2 * d + 1) 0) 61 61 v

/-- DRBG_RESEED (R382): a reseed withheld by a health test counts; the fourth in a row stops the die's Mute engines. -/
def execDrbgReseed (die : Fin 7) (healthy : Bool) (s : State) : Host.Outcome State Fault Refusal :=
  let d := die.val
  if healthy then .next (setEnt { s with withheld := spErase s.withheld d } d 0)
  else
    let n := spGet 0 s.withheld d + 1
    let s := { s with withheld := spSet 0 s.withheld d n }
    if n = 4 then
      let s := setEnt s d 1
      .next (if d = 6 then s else (diePus d).foldl (fun s n => logOutside s n 0x15 0 .warn) s)
    else .next s

/-! ### Cut (R385 to R388) -/

/-- The level CUTCFG gives a trigger. -/
def cutLevel (s : State) (t : Nat) : Nat := ccsFld s 0x40000 (2 * t + 1) (2 * t)

/-- The highest level of the triggers of a mask. -/
def maskLevel (s : State) (mask : Nat) : Nat :=
  (List.range 6).foldl (fun a t => if bit mask t then max a (cutLevel s t) else a) 0

/-- Level 1: every Mute engine and the link pair are frozen, holdings end; a fenced engine stays fenced. -/
def freeze (s : State) : State :=
  let s := ccsSet s 0x40008 63 63 1
  let s := (List.range 12).foldl (fun s e => if mutState s e = 2 then s else setMut s e 3 0x3F) s
  let s := if ccsFld s 0x0205000000 63 62 = 2 then s else ccsSet s 0x0205000000 63 62 3
  if ccsFld s 0x0205000000 61 60 = 2 then s else ccsSet s 0x0205000000 61 60 3

/-- Level 2: slot keys, link keys and the state key; a command in progress is abandoned (R386). -/
def eraseSession (s : State) : State :=
  let s := (List.range 12).foldl (fun s e => ccsPut s (mutReg e 0x18) 0) s
  let s := (List.range 64).foldl (fun s i => ccsPut s (0x0205001000 + 8 * i) 0) s
  let s := ccsSet s 0x40008 62 62 1
  { s with slotKeys := [], linkKeys := [], genBase := s.genBase + 1, stateKey := s.noiseCnt, noiseCnt := s.noiseCnt + 1
           kekJob := s.kekJob.map (fun j => { j with cut := true }), lkJob := s.lkJob.map (fun j => { j with cut := true })
           loader := s.loader.map (fun j => { j with cut := true }) }

/-- Level 3: every KEK and every customer image key. -/
def eraseKeks (s : State) : State :=
  let s := (List.range 32).foldl eraseImageKey s
  ccsSet (ccsSet { s with keks := [] } 0x40138 31 0 0) 0x40008 61 61 1

/-- A debug-halted PU leaves debug (R187, R193): the resync of its cores is due, until which the lead stays alone, an abandoned
stand-in sync starts again, and a restart that waited for the exit is taken. -/
def exitHalt (s : State) (n : Nat) : State :=
  if (s.pu n).halted then
    let s := s.modPu n (fun p => { p with halted := false, stepArm := false, haltReq := false, resync := some .debugExit })
    let s := match roles.find? (fun r => !roleFilled s n r) with
      | some r => if (s.pu n).standIn.isNone then startSync s n r else s
      | none => s
    wakeRestart s n
  else s.modPu n (fun p => { p with haltReq := false })

/-- The unlocked state of the debug port ends (R435). -/
def lockDebug (s : State) : State :=
  if s.dbg.unlocked then
    let s := { s with dbg := { s.dbg with unlocked := false, extest := false, vfsel := setBits s.dbg.vfsel 63 0 0 } }
    (List.range 60).foldl exitHalt s
  else s

/-- A Cut event of the triggers of a mask (R385 to R387, R435). -/
def cutEvent (s : State) (mask part : Nat) : State :=
  let l := maskLevel s mask
  let s := ccsSet s 0x40008 45 40 (ccsFld s 0x40008 45 40 ||| mask)
  let s := ccsSet (ccsSet (ccsSet s 0x40008 33 32 l) 0x40008 28 24 part) 0x40008 21 16 mask
  let s := ccsAdd s 0x40008 15 0 1
  let s := attend (ccsPut s 0x40010 (todMid s)) 3
  let w : Word := BitVec.ofNat 64 (mask * 2 ^ 16 + l * 2 ^ 8 + part)
  let s := (pusOf s 0).foldl (fun s n => s.modPu n (fun p => { p with cutEv := p.cutEv ++ [w] })) s
  let s := if 1 ≤ l then freeze s else s
  let s := if 2 ≤ l then lockDebug (eraseSession s) else s
  if 3 ≤ l then eraseKeks s else s

/-- Conditions 0 to 3 as they are now present: those that have newly arisen fire (R386). -/
def cutPresent (s : State) (now fire part : Nat) : State :=
  let was := ccsFld s 0x40008 53 48
  let mask := (now &&& (0xF ^^^ (was % 16))) ||| fire
  let s := ccsSet s 0x40008 53 48 (now ||| (was &&& 0x20) ||| (fire &&& 0x20))
  if mask = 0 then s else cutEvent s mask part

/-- CUT_TRIGGER (R385, R386): the conditions of triggers 0 to 3 as the detectors now find them, and triggers 4 and 5
firing in the same fabric cycle, with trigger 4's partition. -/
def execCutTrigger (present : BitVec 4) (fire : BitVec 2) (part : Fin 32) (s : State) : Host.Outcome State Fault Refusal :=
  .next (cutPresent s present.toNat (fire.toNat * 16) (if fire.getLsbD 0 then part.val else 0))

/-- CUTCMD (R388): UNFREEZE, discarded with DROP while nothing is frozen or a trigger of level 1 or more is present; any
other value is discarded with DROP. -/
def cutCmd (s : State) (cmd : Nat) : State :=
  if cmd = 1 && frozen s && decide (maskLevel s (ccsFld s 0x40008 53 48) = 0) then
    let s := ccsSet s 0x40008 63 63 0
    let s := (List.range 12).foldl (fun s e => if mutState s e = 3 then setMut s e 0 0x3F else s) s
    let s := if ccsFld s 0x0205000000 63 62 = 3 then ccsSet s 0x0205000000 63 62 0 else s
    if ccsFld s 0x0205000000 61 60 = 3 then ccsSet s 0x0205000000 61 60 0 else s
  else ccsSet s 0x40008 60 60 1

def execUnfreeze (s : State) : Host.Outcome State Fault Refusal := .next (cutCmd s 1)

end Sys2Proof.Machine
end

