-- ==== Sys2Proof/Machine/OpenStore.lean ====
section
/-! DEFINITION. The open microstore's loader (R161 to R168): ENROLL, LOAD, UNLOAD, and the image of a partition as its PUs
are assigned. -/

namespace Sys2Proof.Machine

/-! ### Images in memory -/

/-- A word of installed memory at an absolute address; none where no memory is installed. -/
def imageWord (s : State) (a : Nat) : Option TWord := if installed s a then some (homeWord s (a / 8)) else none

/-- A word the loader can read: in installed memory and not POISON (R165). -/
def readable (s : State) (a : Nat) : Option TWord :=
  (imageWord s a).bind (fun w => if w.tag = tagPoison then none else some w)

/-- k words from an address, none when one is unreadable. -/
def readWords (s : State) (a : Nat) : Nat → Option (List TWord)
  | 0 => some []
  | k + 1 => do
    let w ← readable s a
    let ws ← readWords s (a + 8) k
    pure (w :: ws)

/-- Part of a memory range lies in lines that a guest's agent owns: a reader of the range waits (R236). -/
def rangeHeld (s : State) (a len : Nat) : Bool :=
  s.dir.any (fun e => decide (a / 64 ≤ e.1) && decide (e.1 ≤ (a + len - 1) / 64) && guestOwns s e.1)

/-- The bytes of words in address order. -/
def wordBytes (ws : List Word) : List Byte := (ws.map (fun w => bytesBE 8 w.toNat)).flatten

/-! ### Checks of one word (R162, R164) -/

/-- A micro-operation's fields. -/
def uOp (w : Nat) : Nat := bits w 39 34
def uTg (w : Nat) : Nat := bits w 33 32
def uD (w : Nat) : Nat := bits w 31 27
def uA (w : Nat) : Nat := bits w 26 22
def uB (w : Nat) : Nat := bits w 21 17
def uI (w : Nat) : Nat := bits w 16 16
def uImm (w : Nat) : Nat := bits w 15 0
def uX (w : Nat) : Nat := bits w 15 13
def uT (w : Nat) : Nat := bits w 12 0

def regOk (r : Nat) : Bool := decide (r ≤ 0x18)

/-- The arithmetic form: TG, D, A and B, or TG, D, A and I with IMM. -/
def arithOk (w : Nat) : Bool :=
  uTg w != 3 && regOk (uD w) && regOk (uA w)
    && (if uI w = 1 then uB w == 0 else regOk (uB w) && uImm w == 0)

/-- A microword that R164 accepts in an image of `n` words. -/
def microOk (n w : Nat) : Bool :=
  let low27 := bits w 33 27
  match uOp w with
  | 0x00 => bits w 33 8 == 0 && decide (bits w 7 0 ≤ 0xFC)
  | 0x01 => bits w 33 0 == 0
  | 0x02 => bits w 33 0 == 0
  | 0x11 => uTg w != 3 && regOk (uD w) && bits w 26 16 == 0
  | 0x12 => uTg w != 3 && regOk (uD w) && regOk (uA w) && bits w 21 16 == 0
  | 0x13 => uTg w == 0 && regOk (uD w) && regOk (uA w) && bits w 21 0 == 0
  | 0x14 => uTg w == 0 && regOk (uD w) && regOk (uA w) && bits w 21 0 == 0
  | 0x18 => uTg w == 0 && regOk (uD w) && bits w 26 16 == 0 && uX w != 0 && uT w == 0
  | 0x19 => low27 == 0 && regOk (uA w) && bits w 21 16 == 0 && uX w != 0 && uT w == 0
  | 0x1A => uTg w == 0 && regOk (uD w) && bits w 26 16 == 0 && uX w != 0 && uT w == 0
  | 0x1B => uTg w == 0 && regOk (uD w) && regOk (uA w) && bits w 21 16 == 0
  | 0x1C => low27 == 0 && regOk (uA w) && regOk (uB w) && uI w == 0
  | 0x20 => bits w 33 13 == 0 && decide (uT w < n)
  | 0x21 => uTg w == 0 && decide (uD w ≤ 0x0D) && bits w 26 13 == 0 && decide (uT w < n)
  | 0x22 => low27 == 0 && regOk (uA w) && bits w 21 21 == 0 && bits w 16 13 == 0 && decide (uT w < n)
  | 0x23 => bits w 33 13 == 0 && decide (uT w < n)
  | 0x24 => bits w 33 0 == 0
  | 0x25 => uTg w == 0 && decide (uD w ≤ 1) && bits w 14 13 == 0 && decide (uT w < n)
  | 0x28 => low27 == 0 && uB w == 0
      && (if uI w = 1 then uA w == 0 else regOk (uA w) && uImm w == 0)
  | 0x29 => uTg w == 0 && regOk (uD w) && bits w 26 16 == 0 && uT w == 0
  | 0x2A => uTg w == 0 && regOk (uD w) && bits w 26 0 == 0
  | o => decide (0x04 ≤ o) && decide (o ≤ 0x0F) && arithOk w

/-- A binding entry that R162 accepts. -/
def bindOk (n w : Nat) : Bool :=
  if bit w 63 then bits w 60 50 == 0 && bits w 47 13 == 0 && decide (bits w 12 0 < n) else w == 0

/-- The status that rejects word i of an image of n microwords, none when it is accepted (R165 step 7). -/
def wordFault (minver n i : Nat) (w : TWord) : Option Nat :=
  let d := w.data.toNat
  if w.tag ≠ tagInt ∧ w.tag ≠ tagBytes then some 0x18
  else if i = 1 then
    if bits d 55 48 ≠ 0 ∨ bits d 31 21 ≠ 0 ∨ bits d 15 14 ≠ 0 then some 0x15
    else if bits d 47 32 < minver then some 0x14
    else none
  else if i = 2 ∨ i = 3 then (if d = 0 then none else some 0x15)
  else if i = 5 then (if bits d 31 0 = 0 then none else some 0x15)
  else if i < 8 then none
  else if i < 0x48 then (if bindOk n d then none else some 0x17)
  else if bits d 63 40 ≠ 0 then some 0x15
  else if microOk n d then none
  else some 0x16

/-- The first word rejected: its number and status. -/
def firstFault (minver n : Nat) : Nat → List TWord → Option (Nat × Nat)
  | _, [] => none
  | i, w :: ws => match wordFault minver n i w with
    | some c => some (i, c)
    | none => firstFault minver n (i + 1) ws

/-- The tag of an image under a key (R163). -/
def imageTag (key : BitVec 256) (ws : List Word) : List Byte :=
  let b := wordBytes ws
  gcmTag key ((b.drop 0x20).take 12) (b.take 0x30 ++ b.drop 0x40) []

/-- The image's own TAG, bytes 0x30 to 0x3F. -/
def ownTag (ws : List Word) : List Byte := ((wordBytes (ws.take 8)).drop 0x30).take 16

/-- Words as a sparse table, from a number on. -/
def tableFrom : Nat → List Word → Sparse Word
  | _, [] => []
  | i, w :: ws => if w = 0 then tableFrom (i + 1) ws else (i, w) :: tableFrom (i + 1) ws

/-! ### The commands -/

def omstat (p : Nat) : Nat := partReg p 0x340

/-- A command ends: STATUS, DETAIL and BUSY (R165). -/
def omEnd (s : State) (p status detail : Nat) : State :=
  ccsSet (ccsSet (ccsSet s (omstat p) 63 63 0) (omstat p) 55 48 status) (omstat p) 15 0 detail

/-- The loader stops a running PU at its next boundary (R166). One that is locked up, or halted by debug, stands at it. -/
def loaderStop (s : State) (n : Nat) : State :=
  if puState s n = 1 ∧ puLocked s n = false then
    let s := s.modPu n (fun p => { p with loaderStop := true })
    if (s.pu n).halted && !(s.pu n).stepArm then haltLoader s n else halts s n
  else s

/-- A PU the loader stopped resumes, unless a partition reset holds it. -/
def loaderResume (s : State) (n : Nat) : State :=
  if (s.pu n).loaderStop && !presetting s n then
    let s := s.modPu n (fun p => { p with loaderStop := false })
    if puState s n = 2 then setPuState s n 1 else s
  else s

/-- The partition's image is gone: ACTIVE 0. -/
def noImage (s : State) (p : Nat) : State :=
  ccsSet (ccsSet (ccsSet { s with images := spErase s.images p } (partReg p 0x300) 16 16 0) (partReg p 0x300) 47 32 0)
    (partReg p 0x300) 13 0 0

def omsrc (s : State) (p : Nat) : Nat := bits (ccsGet s (partReg p 0x308)).toNat 51 3 * 8

/-- The header checks of LOAD (R165 step 4): the failing status, or NWORDS. -/
def headerCheck (s : State) (p : Nat) : Except Nat Nat :=
  match readWords s (omsrc s p) 2 with
  | some [w0, w1] =>
    let d := w1.data.toNat
    if w0.data ≠ 0xB1C75E2781004100 then .error 0x10
    else if bits d 63 56 ≠ 2 then .error 0x11
    else if bits d 20 16 ≠ p then .error 0x12
    else if bits d 13 0 = 0 ∨ 8192 < bits d 13 0 then .error 0x13
    else .ok (bits d 13 0)
  | _ => .error 0x19

/-- ENROLL (R165 step 2): the status. -/
def enroll (s : State) (p : Nat) : State :=
  if partSealed s p then omEnd s p 0x21 0
  else match (spFind s.keks p).bind (fun kek =>
      keyUnwrap kek (wrapBytes ((List.range 5).map (fun i => ccsGet s (partReg p (0x310 + 8 * i)))))) with
    | none => omEnd s p 0x20 0
    | some k => omEnd (ccsSet { s with imageKeys := spPut s.imageKeys p (some k) } (partReg p 0x300) 17 17 1) p 0x01 0

/-- LOAD or UNLOAD passes its first checks: BUSY, and the PUs of the partition stop (R166). -/
def beginLoad (s : State) (p : Nat) (load : Bool) (words : Nat) : State :=
  let s := { ccsSet s (omstat p) 63 63 1 with loader := some { part := p, load := load, words := words, cut := false } }
  (pusOf s p).foldl loaderStop s

/-- A LOAD whose image's header cannot be read yet (R236): BUSY, and no PU stops before its header is checked. -/
def holdLoad (s : State) (p : Nat) : State :=
  { ccsSet s (omstat p) 63 63 1 with loader := some { part := p, load := true, words := 0, cut := false } }

/-- A write of OMCMD (R164, R165). -/
def omCmd (s : State) (p cmd : Nat) : State :=
  if s.loader.isSome then ccsSet s (omstat p) 62 62 1
  else if cmd = 0 ∨ 3 < cmd then omEnd s p 0x22 0
  else if p = 0 then omEnd s p 0x23 0
  else if cmd = 1 then enroll s p
  else if cmd = 2 ∧ (spFind s.imageKeys p).isNone then omEnd s p 0x1A 0
  else if (pusOf s p).isEmpty then omEnd s p 0x1B 0
  else if cmd = 3 then beginLoad s p false 0
  else if rangeHeld s (omsrc s p) 16 then holdLoad s p
  else match headerCheck s p with
    | .error c => omEnd s p c 0
    | .ok n => beginLoad s p true n

def execEnroll (p : Fin 32) (s : State) : Host.Outcome State Fault Refusal := .next (omCmd s p.val 1)

def execLoad (p : Fin 32) (s : State) : Host.Outcome State Fault Refusal := .next (omCmd s p.val 2)

def execUnload (p : Fin 32) (s : State) : Host.Outcome State Fault Refusal := .next (omCmd s p.val 3)

/-- A LOAD of an image of `n` microwords that reached its end (R165 steps 5 to 8): the state with status and image. -/
def finishLoad (s : State) (p n : Nat) : State :=
  match readWords s (omsrc s p) (0x48 + n), spFind s.imageKeys p with
  | none, _ => omEnd s p 0x19 0
  | _, none => omEnd s p 0x1A 0
  | some ws, some key =>
    let ds := ws.map (·.data)
    if imageTag key ds ≠ ownTag ds then
      cutEvent (omEnd (ccsAdd s (omstat p) 47 32 1) p 0x1C 0) 16 p
    else match firstFault (ccsFld s (partReg p 0x300) 63 48) n 0 ws with
      | some (i, c) => omEnd s p c (if c = 0x14 then 0 else i)
      | none =>
        let ver := bits (ds.getD 1 0).toNat 47 32
        let img : OpenImage := { binds := tableFrom 0 ((ds.drop 8).take 64), words := tableFrom 0 (ds.drop 0x48) }
        let s := { s with images := spPut s.images p (some img) }
        let s := ccsSet (ccsSet (ccsSet s (partReg p 0x300) 16 16 1) (partReg p 0x300) 47 32 ver) (partReg p 0x300) 13 0 n
        omEnd s p 0x01 0

/-- OPEN_MICROSTORE_COMMAND_COMPLETE (R166): once every PU of the partition has stopped, the command ends and they resume.
A LOAD that an erasure abandoned (R386) ends with no image, under a STATUS the spec does not give. A microstore copy into a
stand-in of those PUs starts again (R187). A LOAD whose image lies in lines that a guest's agent owns waits (R236). -/
def execOpenMicrostoreCommandComplete (s : State) : Host.Outcome State Fault Refusal :=
  match s.loader with
  | none => .next s
  | some j =>
    if !j.cut && j.load && rangeHeld s (omsrc s j.part) (8 * if j.words = 0 then 2 else 0x48 + j.words) then .next s
    else if !j.cut && j.load && j.words == 0 then .next (omCmd { s with loader := none } j.part 2)
    else if (pusOf s j.part).any (fun n => puState s n == 1 && !puLocked s n) then .next s
    else
      let s := noImage { s with loader := none } j.part
      let s := if j.load then
          if j.cut then
            let (w, s) := drawFree s
            omEnd s j.part (bits w.toNat 7 0) 0
          else finishLoad s j.part j.words
        else omEnd s j.part 0x01 0
      .next ((pusOf s j.part).foldl (fun s n => loaderResume
        (if (s.pu n).standIn.any (fun y => y.phase == 1) then restartCopy s n 0xA else s) n) s)

/-! ### Assignment of a PU (R42, R168, R365, R426) -/

/-- A PU leaves its partition for partition p: its Mute holding ends, CUSTBIND is 0, a loader command of its old partition holds
it no more (it stays stopped), and an image no PU of its old partition uses any more is discarded. -/
def assignPart (s : State) (n p : Nat) : State :=
  let old := puPart s n
  let s := if old = p then s else dropHold s n
  let s := (ccsSet s (puReg n 0x50) 4 0 p).modPu n (fun x =>
    { x.setCtl 8 0 with loaderStop := x.loaderStop && old == p })
  if old ≠ p ∧ (pusOf s old).isEmpty then noImage s old else s

end Sys2Proof.Machine
end

