-- ==== Sys2Proof/Machine/Custom.lean ====
section
/-! DEFINITION. Custom instructions (R72, R147 to R161): the micro-program of a bound custom opcode, its held writes, and
END. -/

namespace Sys2Proof.Machine

/-- A store held until END (R155); `slot` is 0 for an MST. -/
structure UStore where
  slot : Nat
  loc  : MLoc
  w    : TWord
deriving DecidableEq, Repr

/-- The uses that a run makes of its operand slots: those read and those written. -/
structure Uses where
  rd : List Nat
  wr : List Nat
deriving DecidableEq, Repr

/-- The state of a micro-program. -/
structure Micro where
  /-- Held writes of G registers. -/
  g      : Sparse TWord
  u      : Sparse TWord
  z      : Bool
  n      : Bool
  c      : Bool
  v      : Bool
  cc     : Option Nat
  /-- What each slot read. -/
  reads  : Sparse TWord
  stores : List UStore
  uses   : Uses
  stack  : List Nat
  /-- Core cycles of the budget that are spent (R157). -/
  cyc    : Nat
  /-- The cycle in which the multiply result of a register arrives (R147). -/
  ready  : Sparse Nat
  /-- The same for what a memory read brings, by register, and by 32 + slot. -/
  loads  : Sparse Nat
  tod    : Option Nat
  /-- A line was read, for WATCH. -/
  watch  : Bool
  waits  : List Nat
  irqs   : List Bool
  lats   : List Nat
deriving DecidableEq, Repr

def Micro.start (r : MicroRun) : Micro :=
  { g := [], u := [], z := false, n := false, c := false, v := false, cc := none, reads := [], stores := [], uses := ⟨[], []⟩,
    stack := [], cyc := 0, ready := [], loads := [], tod := none, watch := false, waits := r.waits, irqs := r.irqs, lats := r.lats }

/-- What stays fixed while a micro-program runs. -/
structure UEnv where
  c      : Ctx
  slots  : List Spec
  img    : OpenImage
  relax  : Bool
  irq    : Bool
  /-- The uses the run makes of its slots as a whole: they place its stack slots (R77, R154). -/
  plan   : Uses
deriving DecidableEq, Repr

def UEnv.hasStack (e : UEnv) : Bool := e.slots.any specIsStack

/-- A custom fault (R157). -/
def customFault {α : Type} (e : UEnv) (n : Nat) : M α := e.c.fail (0x0100 + n)

/-- A micro-register (R149). -/
def uRead (e : UEnv) (m : Micro) (r : Nat) : M TWord := do
  let s ← get
  pure (if r < 16 then (spFind m.g r).getD ((s.pu e.c.pu).reg r)
        else if r < 24 then (spFind m.u r).getD uninitWord
        else intWord 0)

/-- A write of a micro-register; G15 is refused in an instruction that holds a stack slot (R154). What was still to arrive there
is awaited no more. -/
def uWrite (e : UEnv) (m : Micro) (r : Nat) (w : TWord) : M Micro := do
  guardM (!(r == 15 && e.hasStack)) (e.c.fail 0x0006)
  let m := { m with ready := spErase m.ready r, loads := spErase m.loads r }
  pure (if r < 16 then { m with g := spPut m.g r (some w) }
        else if r < 24 then { m with u := spPut m.u r (some w) }
        else m)

/-- Raises what a tag raises under an accepted set, for a micro-register; `slot`: the operand slot it is written to (R158). -/
def uTag (e : UEnv) (ok : List Tag) (t : Tag) (slot : Nat := 0) : M Unit :=
  match tagFault false ok t with
  | some code => e.c.fail code slot
  | none => pure ()

def tagsArith : List Tag := [tagUninit, tagInt, tagBfp, tagDec, tagBytes, tagPtr, tagCustom]

/-- The tag TG names (R151). -/
def tgTag (w : Nat) : Tag := match uTg w with
  | 0 => tagInt
  | 1 => tagBytes
  | _ => tagCustom

/-- IMM sign-extended. -/
def immWord (w : Nat) : Word := (BitVec.ofNat 16 (uImm w)).signExtend 64

/-! ### Operands (R154) -/

/-- A stack slot that moves G15. -/
def moves (sp : Spec) : Bool := sp = .stack 0

/-- The moving stack slots, by number, that the run only reads: its pops. -/
def UEnv.popSlots (e : UEnv) : List Nat :=
  (List.range' 1 e.slots.length).filter (fun k =>
    (e.slots[k - 1]?).any moves && e.plan.rd.contains k && !e.plan.wr.contains k)

/-- Those it only writes: its pushes. -/
def UEnv.pushSlots (e : UEnv) : List Nat :=
  (List.range' 1 e.slots.length).filter (fun k =>
    (e.slots[k - 1]?).any moves && e.plan.wr.contains k && !e.plan.rd.contains k)

/-- The offset from G15 at which a moving stack slot lies (R77): pops in specifier order from G15 on, pushes below what all pops
leave, in specifier order (log entry 133), and at G15 a slot that is read and written. -/
def UEnv.stackOff (e : UEnv) (k : Nat) : Nat :=
  if e.popSlots.contains k then 8 * (e.popSlots.filter (· < k)).length
  else if e.pushSlots.contains k then
    8 * e.popSlots.length + 2 ^ 64 - 8 * ((e.pushSlots.filter (· < k)).length + 1)
  else 0

/-- The exact offset of a memory slot (R75), its index register as the micro-program last wrote it (R155). -/
def uOffset (e : UEnv) (m : Micro) (long : Bool) (idx : Option Idx) (disp : BitVec 32) (check : M TWord → Nat → M TWord) : M Nat := do
  let d := if long then disp.toNat else disp.toNat % 2 ^ 16
  match idx with
  | none => pure d
  | some ix => do
    let g ← check (uRead e m ix.reg.toNat) ix.reg.toNat
    pure (d + g.data.toNat * 2 ^ ix.scale.toNat)

/-- The location of a memory or stack slot for a read or a write. -/
def uLocate (e : UEnv) (m : Micro) (k : Nat) (sp : Spec) (kind : Kind) (need : Right) : M MLoc := do
  match sp with
  | .stack arg => do
    let s ← get
    let g := (s.pu e.c.pu).reg 15
    guardM (decide (g.tag = tagInt)) (e.c.fail 0x0010 k 15)
    let o := if arg = 1 then g.data.toNat else (g.data.toNat + e.stackOff k) % 2 ^ 64
    memLoc e.c k (e.c.bank.getD 7) o e.c.width kind need
  | .mem long bank idx disp => do
    let o ← uOffset e m long idx disp (fun g n => do
      let g ← g
      guardM (decide (g.tag = tagInt)) (e.c.fail 0x0010 k n)
      pure g)
    memLoc e.c k bank.toNat o e.c.width kind need
  | _ => e.c.fail 0x0006 k

/-- A memory read of the micro-program (R147): what arrives after the next latency given. -/
def Micro.reading (m : Micro) : Nat × Micro := (m.cyc + m.lats.headD 0, { m with lats := m.lats.drop 1, watch := true })

/-- OPRD: the first read of a slot checks it; later reads give the same value. A held store of the slot is not read (log entry 132). -/
def opRead (e : UEnv) (m : Micro) (k : Nat) : M (TWord × Micro) := do
  match spFind m.reads k with
  | some w => pure (w, m)
  | none =>
    match e.slots[k - 1]? with
    | none => e.c.fail 0x0006 k
    | some (.reg n) => do
      let w ← uRead e m n.toNat
      match tagFault false tagsWhole w.tag with
      | some code => e.c.fail code k n.toNat
      | none => pure (w, { m with reads := spPut m.reads k (some w) })
    | some (.imm a v) => pure (intWord (immValue a v), { m with reads := spPut m.reads k (some (intWord (immValue a v))) })
    | some sp => do
      let l ← uLocate e m k sp .load .r
      let w ← readWord e.c l
      checkRead e.c l false (if e.c.narrow then tagsNarrow else tagsWhole) w.tag
      let v : TWord := if e.c.narrow then ⟨(partOf l w).data, narrowLoadTag w.tag⟩ else w
      let (at', m) := m.reading
      pure (v, { m with reads := spPut m.reads k (some v), loads := spPut m.loads (32 + k) (some at') })

/-- A held store added: a slot holds one store, the last; a fifth is a custom fault (R155). -/
def hold (e : UEnv) (m : Micro) (t : UStore) : M Micro := do
  let ts := if t.slot = 0 then m.stores else m.stores.filter (fun x => x.slot != t.slot)
  guardM (decide (ts.length < 4)) (customFault e 0xFD)
  pure { m with stores := ts ++ [t] }

/-- OPWR. -/
def opWrite (e : UEnv) (m : Micro) (k : Nat) (w : TWord) : M Micro := do
  uTag e tagsWhole w.tag k
  match e.slots[k - 1]? with
  | none => e.c.fail 0x0006 k
  | some (.reg n) => do
    guardM (!(n == 15 && e.hasStack)) (e.c.fail 0x0006 k)
    uWrite e m n.toNat w
  | some (.imm _ _) => e.c.fail 0x0006 k
  | some sp => do
    let again := (m.stores.find? (fun t => t.slot == k)).map (·.loc)
    let l ← (match again with
      | some l => pure l
      | none => uLocate e m k sp .store .w)
    if l.len < 8 then checkNarrow e.c l else checkPolicy e.c l w.tag
    hold e m { slot := k, loc := l, w := w }

/-- The operand of MLD and MST (R150): 8 bytes at A + T of bank X, an implicit operand. -/
def uMem (e : UEnv) (m : Micro) (w : Nat) (kind : Kind) (need : Right) : M MLoc := do
  let a ← uRead e m (uA w)
  match tagFault false tagsIntPtr a.tag with
  | some code => e.c.fail code 4
  | none => do
    let o : Int := a.data.toNat + (BitVec.ofNat 13 (uT w)).toInt
    memLoc e.c 4 (uX w) (o % 2 ^ 64 + (if 2 ^ 64 ≤ o then 2 ^ 64 else 0)).toNat 8 kind need

/-! ### Arithmetic (R150, R151) -/

/-- The result and the flags Z, N, C, V of an arithmetic micro-operation. -/
def uArith (op : Nat) (x y : Word) : Word × Bool × Bool :=
  let k := y.toNat % 64
  let sx := x.toInt
  let sy := y.toInt
  match op with
  | 0x04 => (x + y, decide (2 ^ 64 ≤ x.toNat + y.toNat), !fits 64 (sx + sy))
  | 0x05 => (x - y, decide (x.toNat < y.toNat), !fits 64 (sx - sy))
  | 0x06 => (x &&& y, false, false)
  | 0x07 => (x ||| y, false, false)
  | 0x08 => (x ^^^ y, false, false)
  | 0x09 => (x <<< k, false, false)
  | 0x0A => (x >>> k, false, false)
  | 0x0B => (x.sshiftRight k, false, false)
  | 0x0C => (x.rotateLeft k, false, false)
  | 0x0D => (x * y, false, !fits 64 (sx * sy))
  | 0x0E => (BitVec.ofInt 64 (sx * sy / 2 ^ 64), false, false)
  | _ => (BitVec.ofNat 64 (x.toNat * y.toNat / 2 ^ 64), false, false)

/-- The registers, and the values of slots by 32 + slot, that an operand slot needs: a register slot's register, a memory slot's
index register, and what an earlier read of the slot brings. -/
def slotSources (e : UEnv) (m : Micro) (k : Nat) : List Nat :=
  if (spFind m.reads k).isSome then [32 + k]
  else match e.slots[k - 1]? with
    | some (.reg n) => [n.toNat]
    | some (.mem _ _ (some ix) _) => [ix.reg.toNat]
    | _ => []

/-- What a micro-operation reads, for the interlock of R147. -/
def uSources (e : UEnv) (m : Micro) (w : Nat) : List Nat :=
  match uOp w with
  | 0x12 => [uA w]
  | 0x13 => [uA w]
  | 0x14 => [uA w]
  | 0x18 => slotSources e m (uX w)
  | 0x19 => uA w :: (match e.slots[uX w - 1]? with | some (.mem _ _ (some ix) _) => [ix.reg.toNat] | _ => [])
  | 0x1A => match e.slots[uX w - 1]? with | some (.mem _ _ (some ix) _) => [ix.reg.toNat] | _ => []
  | 0x1B => [uA w]
  | 0x1C => [uA w, uB w]
  | 0x22 => [uA w]
  | 0x28 => if uI w = 1 then [] else [uA w]
  | o => if 0x04 ≤ o ∧ o ≤ 0x0F then (if uI w = 1 then [uA w] else [uA w, uB w]) else []

/-- A condition of BF (R152). -/
def uCond (e : UEnv) (m : Micro) (d : Nat) : Bool :=
  let b := match d / 2 with
    | 0 => m.z
    | 1 => m.n
    | 2 => m.c
    | 3 => m.v
    | 4 => e.relax
    | 5 => e.c.narrow
    | _ => e.irq || m.irqs.headD false
  if d % 2 = 0 then b else !b

/-- What follows a micro-operation: the next address and the core cycles taken, or END. -/
inductive UNext where
  | go (pc cycles : Nat)
  | done
deriving DecidableEq, Repr

/-- One micro-operation at an open address (R150). -/
def uStep (e : UEnv) (m : Micro) (pc w : Nat) : M (Micro × UNext) := do
  let next (m : Micro) : M (Micro × UNext) := pure (m, .go (pc + 1) 1)
  let put (m : Micro) (v : TWord) : M (Micro × UNext) := do
    let m ← uWrite e m (uD w) v
    next m
  match uOp w with
  | 0x00 => customFault e (bits w 7 0)
  | 0x01 => pure (m, .done)
  | 0x02 => next m
  | 0x11 => put m ⟨immWord w, tgTag w⟩
  | 0x12 => do
    let a ← uRead e m (uA w)
    uTag e tagsArith a.tag
    put m ⟨(a.data <<< 16) ||| BitVec.ofNat 64 (uImm w), tgTag w⟩
  | 0x13 => do
    let a ← uRead e m (uA w)
    uTag e tagsWhole a.tag
    put m a
  | 0x14 => do
    let a ← uRead e m (uA w)
    put m (intWord (a.tag.setWidth 64))
  | 0x18 => do
    let (v, m) ← opRead e m (uX w)
    let m' ← uWrite e m (uD w) v
    next (match spFind m.loads (32 + uX w) with
      | some a => if uD w < 24 then { m' with loads := spPut m'.loads (uD w) (some a) } else m'
      | none => m')
  | 0x19 => do
    let a ← uRead e m (uA w)
    let m ← opWrite e m (uX w) a
    next m
  | 0x1A => do
    match e.slots[uX w - 1]? with
    | some (.mem long _ idx disp) => do
      let o ← uOffset e m long idx disp (fun g _ => g)
      put m (intWord (BitVec.ofNat 64 o))
    | _ => e.c.fail 0x0006 (uX w)
  | 0x1B => do
    let l ← uMem e m w .load .r
    let v ← readWord e.c l
    checkRead e.c l false tagsWhole v.tag
    let (at', m) := m.reading
    let m ← uWrite e m (uD w) v
    next (if uD w < 24 then { m with loads := spPut m.loads (uD w) (some at') } else m)
  | 0x1C => do
    let b ← uRead e m (uB w)
    let l ← uMem e m w .store .w
    (match tagFault false tagsWhole b.tag with
     | some code => e.c.fail code 4
     | none => pure ())
    checkPolicy e.c l b.tag
    let m ← hold e m { slot := 0, loc := l, w := b }
    next m
  | 0x20 => pure (m, .go (uT w) 2)
  | 0x21 => do
    let b := uCond e m (uD w)
    let m := if uD w / 2 = 6 then { m with irqs := m.irqs.drop 1 } else m
    if b then pure (m, .go (uT w) 2) else next m
  | 0x22 => do
    let a ← uRead e m (uA w)
    if a.tag.toNat = bits w 20 17 then pure (m, .go (uT w) 2) else next m
  | 0x23 => do
    guardM (decide (m.stack.length < 4)) (customFault e 0xFE)
    pure ({ m with stack := (pc + 1) :: m.stack }, .go (uT w) 2)
  | 0x24 => do
    match m.stack with
    | [] => customFault e 0xFE
    | t :: ts => pure ({ m with stack := ts }, .go t 2)
  | 0x25 => do
    let limit := bits w 26 15 + 1
    let k := m.waits.headD 0
    let m := { m with waits := m.waits.drop 1 }
    if 1 ≤ k ∧ k ≤ limit ∧ (uD w = 0 ∨ m.watch = true) then pure (m, .go (pc + 1) k) else pure (m, .go (uT w) limit)
  | 0x28 => do
    if uI w = 1 then next { m with cc := some (bits w 1 0) }
    else do
      let a ← uRead e m (uA w)
      uTag e tagsArith a.tag
      next { m with cc := some (ccSign a.data.toInt) }
  | 0x29 => do
    let s ← get
    let t := m.tod.getD (max s.tod (s.pu e.c.pu).lastTod)
    let m := { m with tod := some t }
    match uX w with
    | 0 => put m (intWord (BitVec.ofNat 64 (t / 2 ^ 64)))
    | 1 => put m (intWord (BitVec.ofNat 64 t))
    | _ => do
      let (v, s) := drawFree s
      set s
      put m (intWord v)
  | 0x2A => do
    let s ← get
    put m (intWord (puIdentity s e.c.pu))
  | o => do
    let a ← uRead e m (uA w)
    uTag e tagsArith a.tag
    let b ← (if uI w = 1 then pure (intWord (immWord w)) else uRead e m (uB w))
    uTag e tagsArith b.tag
    let (r, c, v) := uArith o a.data b.data
    let m := { m with z := decide (r = 0), n := r.msb, c := c, v := v }
    let m ← uWrite e m (uD w) ⟨r, tgTag w⟩
    next (if 0x0D ≤ o ∧ uD w < 24 then { m with ready := spPut m.ready (uD w) (some (m.cyc + 3)) } else m)

/-- A micro-operation begins once every source has arrived (R147). The cycles held for a memory read are not counted, and shorten
what is still to arrive; those held for a multiply are (R157). -/
def uBegin (e : UEnv) (m : Micro) (w : Nat) : Micro :=
  let src := uSources e m w
  let held := src.foldl (fun a r => max a (spGet 0 m.loads r - m.cyc)) 0
  let early (l : Sparse Nat) : Sparse Nat := l.map (fun x => (x.1, x.2 - held))
  let ready := early m.ready
  { m with ready := ready, loads := early m.loads, cyc := src.foldl (fun a r => max a (spGet 0 ready r)) m.cyc }

/-- The use a micro-operation makes of a slot. -/
def uUse (u : Uses) (w : Nat) : Uses :=
  match uOp w with
  | 0x18 => { u with rd := if u.rd.contains (uX w) then u.rd else u.rd ++ [uX w] }
  | 0x19 => { u with wr := if u.wr.contains (uX w) then u.wr else u.wr ++ [uX w] }
  | _ => u

/-- The microword at an open address, about to begin, within the open region and the budget of 16,384 core cycles (R157). -/
def uFetch (e : UEnv) (pc : Nat) (m : Micro) : M (Nat × Micro) := do
  guardM (decide (pc ≤ 0x1FFF)) (customFault e 0xFF)
  let w := (spGet 0 e.img.words pc).toNat
  let m := uBegin e { m with uses := uUse m.uses w } w
  guardM (decide (m.cyc < 16384)) (customFault e 0xFF)
  pure (w, m)

/-- Runs a micro-program from an open address to END, within the budget. -/
def uRun (e : UEnv) : Nat → Nat → Micro → M Micro
  | 0, _, _ => customFault e 0xFF
  | f + 1, pc, m => do
    let (w, m) ← uFetch e pc m
    let (m', nx) ← uStep e m pc w
    match nx with
    | .done => pure m'
    | .go pc' k => do
      guardM (decide (m'.cyc + k ≤ 16384)) (customFault e 0xFF)
      uRun e f pc' { m' with cyc := m'.cyc + k }

/-- The uses that a run from a state makes of its slots, as far as it goes. -/
def uUses (e : UEnv) : Nat → Nat → Micro → State → Uses
  | 0, _, m, _ => m.uses
  | f + 1, pc, m, s =>
    match uFetch e pc m s with
    | .error _ _ => m.uses
    | .ok (w, m1) s1 =>
      match uStep e m1 pc w s1 with
      | .error _ _ => m1.uses
      | .ok (m2, .done) _ => m2.uses
      | .ok (m2, .go pc' k) s2 => uUses e f pc' { m2 with cyc := m2.cyc + k } s2

/-- The plan of a run: the uses it makes of its slots under that very plan. Only the places of stack slots depend on it (R154). -/
def uPlan (s : State) (pc : Nat) (m : Micro) : Nat → UEnv → UEnv
  | 0, e => e
  | f + 1, e =>
    if !e.slots.any moves then e
    else
      let u := uUses e 16385 pc m s
      if u = e.plan then e else uPlan s pc m f { e with plan := u }

/-! ### The instruction -/

/-- The entry that binds a custom opcode at a PU (R161). -/
def binding (s : State) (n j : Nat) : Option (OpenImage × Word) :=
  let p := s.pu n
  if bit (p.ctlReg 8).toNat j then
    match spFind s.images (pswPart p.psw) with
    | none => none
    | some img =>
      let w := spGet 0 img.binds j
      if bit w.toNat 63 then some (img, w) else none
  else none

/-- Decoding of a custom instruction (R72): the custom-opcode exception at the second opcode byte, before the prefix
conflict. -/
def decodeCustom (h : Hdr) (bound : Option (OpenImage × Word)) (sp : List Spec) : M Ctx := do
  let s ← get
  let n := h.pu.val
  let c := encCtx s n
  checkPfx c 0 [] h.pfx
  let off := h.pfx.length
  fetchBytes c off 2
  guardM bound.isSome (encFail c 0x0007 (off + 1))
  guardM (!hasPfx h 1) (encFail c 0x0004 (off + 1))
  checkSpecs c false (hasPfx h 3) (off + 2) false false (sp.map (fun _ => (Cls.S, Use.rd))) sp
  pure { c with len := instrLen h 2 sp, relax := hasPfx h 2, narrow := hasPfx h 3, bank := pfxBank h, vote := h.vote }

/-- END (R156): every held narrow store is checked again, then registers, stack movement, condition code and stores. -/
def uEnd (e : UEnv) (m : Micro) : M Unit := do
  let c := e.c
  let (pops, pushes) := (e.popSlots.length, e.pushSlots.length)
  for t in m.stores do
    if t.loc.len < 8 then checkNarrow c t.loc
  let s ← get
  pushStores c (m.stores.map (fun t => storeOf s c.pu t.loc t.w))
  modify (fun s => s.modPu c.pu (fun p =>
    let p := m.g.foldl (fun p e => p.setReg e.1 e.2) p
    let p := if pops = 0 ∧ pushes = 0 then p
      else p.setReg 15 (intWord (BitVec.ofNat 64 ((p.reg 15).data.toNat + 8 * pops + 2 ^ 64 - 8 * pushes)))
    let p := match m.cc with | some k => p.setCC k | none => p
    let p := match m.tod with | some t => { p with lastTod := t + 1 } | none => p
    p.setIA c.next))

/-- A custom instruction 0xF0 0xC0+j (R72, R156): the slots its binding states are the first operands given. A command with fewer operands than slots describes no instruction and does nothing. -/
def execCustomInstruction (h : Hdr) (j : BitVec 6) (ops : List Spec) (run : MicroRun) (s : State) :
    Host.Outcome State Fault Refusal :=
  let b := binding s h.pu.val j.toNat
  let k := (b.map (fun x => bits x.2.toNat 62 61)).getD 0
  if ops.length < k then .next s
  else
    .next (runInstr h false (do
      let s ← get
      let c ← decodeCustom h b (ops.take k)
      let psw := (s.pu c.pu).psw
      match b with
      | none => waitFor
      | some (img, w) => do
        guardM (decide (pswPL psw ≤ bits w.toNat 49 48)) (c.fail 0x0002)
        guardM (!(c.relax && !pswTRP psw)) (c.fail 0x0016)
        let irq := (dueAsync s c.pu).isSome || (dueMc (s.pu c.pu)).isSome
        let s ← get
        let pc := bits w.toNat 12 0
        let m := Micro.start run
        let e := uPlan s pc m 8 { c := { c with relax := false }, slots := ops.take k, img := img, relax := c.relax, irq := irq,
                                  plan := ⟨[], []⟩ }
        let m ← uRun e 16385 pc m
        uEnd e m) s)

end Sys2Proof.Machine
end

