-- ==== Sys2Proof/Machine/Triad.lean ====
section
/-! DEFINITION. Triads at work (R176 to R192): missing bundles, resync, retake, voter self-checks, stand-in syncs, and the
PUCMD commands that move a checkstopped PU's work and test its cores. -/

namespace Sys2Proof.Machine

/-- MISSING_BUNDLE (R176, R178): the core in a role is treated as having dissented. A lead that runs alone is passed through
unvoted (R193). -/
def execMissingBundle (pu : Fin 60) (role : Role) (s : State) : Host.Outcome State Fault Refusal :=
  let n := pu.val
  if canRun s n && votes s n role && puMode s n != 2 then
    if fullTriad s n then .next (maskDissent s n role 1 (iaOf s n) 0)
    else .next (dissentRetake s n role 1 0 (atBoundary (s.pu n) && (dueEntry s n false).isSome))
  else .next s

/-! ### Voter self-check and scrub (R183, R184) -/

def voterst (n : Nat) : Nat := puReg n 0x30

/-- The self-check of voter k (0 VA, 1 VB): a voter in service that fails is fenced. -/
def checkVoter (s : State) (n k : Nat) (fails : Bool) : State :=
  if ccsFld s (voterst n) (63 - k) (63 - k) = 1 then s
  else
    let s := ccsSet s (voterst n) (57 - k) (57 - k) (b2n fails)
    if fails then logPend (ccsSet s (voterst n) (63 - k) (63 - k) 1) n 0x04 5 3 0 (iaOf s n) 0 .degr else s

def selfCheck (s : State) (n : Nat) (r : SelfCheck) : State :=
  let s := ccsAdd s (voterst n) 47 32 1
  let s := checkVoter s n 0 (r == .vaFail || r == .both)
  checkVoter s n 1 (r == .vbFail || r == .both)

/-- Neither voter is in service. -/
def noVoter (s : State) (n : Nat) : Bool := ccsFld s (voterst n) 63 62 == 3

/-- A value FPC can hold: reserved bits 0, RM not 0b101 to 0b111 (R119). -/
def fpcLegal (w : Word) : Word :=
  let x := w &&& 0xDF1F00001F07
  if 4 < bits x.toNat 2 0 then x &&& ~~~4 else x

/-- A register whose slate word is lost holds a value the spec leaves open. -/
def loseReg (w : TWord) (p : Pu) : SlateReg → Pu
  | .g n => p.setReg n.toNat w
  | .bankBase n => p.setBank n.toNat { p.bank n.toNat with base := w }
  | .bankAttr n => p.setBank n.toNat { p.bank n.toNat with attr := w }
  | .ctl n => p.setCtl n.toNat w.data
  | .rsp => { p with rsp := w.data &&& 0xFFFFFFFFFFFFFFF8 }
  | .fpc => { p with fpc := fpcLegal w.data }
  | .fpfia => { p with fpfia := w.data }
  | .busy => { p with busy := w.data.setWidth 6 }

/-- An immediate machine check becomes pending, the instruction in progress abandoned (R141, R183). -/
def mcNow (s : State) (n code event cause : Nat) (detail : Word) (pswv regv : Bool) : State :=
  let q := nextSeq s n
  (logEvent s n event cause 3 0 (iaOf s n) detail).modPu n (fun p =>
    { p with mcImm := some { code := code, seq := q, pswv := pswv, regv := regv }, latch := [], latchPos := 0, due := .none })

/-- What Scrub finds lost (R183). -/
def scrub (s : State) (n : Nat) : SlateLoss → State
  | .none => s
  | .entryPath => checkstop s n 6
  | .psw => mcNow s n 0x2000 0x0A 6 0 false true
  | .other r =>
    let (w, s) := drawFree s
    let (t, s) := drawFree s
    mcNow (s.modPu n (fun p => loseReg ⟨w, t.setWidth 4⟩ p r)) n 0x2000 0x0A 6 0 true false

/-- The pause of a resync, retake or insertion (PUSTAT.LASTPAUSE). -/
def setPause (s : State) (n pause : Nat) : State := ccsSet s (puReg n 0) 47 32 pause

/-! ### Resync and retirement (R180, R185, R186) -/

/-- The core in a role is retired: fenced, the PU duplex, a stand-in sync begun where a stand-in is free. -/
def retireCore (s : State) (n : Nat) (r : Role) (cause : BitVec 4) : State :=
  let core := roleCore s n r
  let free := freeStandIns s (n / 10)
  let s := logPend s n 0x05 cause.toNat (roleNum r) core (iaOf s n) (BitVec.ofNat 64 (free.headD 0x3F)) .degr
  let s := setMode (vacateRole s n r) n
  if free.isEmpty then logPend s n 0x07 cause.toNat (roleNum r) core (iaOf s n) 0 .degr else startSync s n r

/-- All cores have taken the slate (R180, R181): the L1s are empty, and a microword with bad parity is rewritten from a core of the
majority or the partner (R160); a masked core is back in step, one whose retirement was due is retired, and a PU
that left debug runs on all its cores again (R193). A retake does the same as the resync that is due (log entry 129). -/
def inStep (s : State) (n : Nat) : State :=
  let r := (s.pu n).resync
  let s := s.modPu n (fun p => { p.l1Clear with resync := none, microBad := [] })
  match r with
  | some (.dissent r cause true) => retireCore s n r cause
  | some .debugExit => logEvent (setMode s n) n 0x0D 8 3 0 (iaOf s n) 0
  | _ => s

/-- The voters' self-check and what Scrub finds, then what stops the PU at its boundary. -/
def settleCores (s : State) (n : Nat) (check : SelfCheck) (loss : SlateLoss) : State :=
  let s := selfCheck s n check
  if noVoter s n then checkstop s n 5
  else
    let s := scrub s n loss
    if puState s n = 3 then s else halts s n

/-- No retake is due and no re-execution awaited but that of an entry: the PU is at a boundary. -/
def steady (p : Pu) : Bool :=
  atBoundary p && (match p.due with | .none => true | .retaken _ _ _ e => e | .retake _ _ _ _ _ => false)

/-- RESYNC (R180): the resync that is due, before any interruption at the boundary (R134); in a locked-up PU it waits (R195). -/
def execResync (pu : Fin 60) (pause : Fin 1537) (check : SelfCheck) (loss : SlateLoss) (s : State) :
    Host.Outcome State Fault Refusal :=
  let n := pu.val
  if (s.pu n).resync.isSome && steady (s.pu n) && !puLocked s n then
    .next (settleCores (inStep (setPause s n pause.val) n) n check loss)
  else .next s

/-! ### Retake (R181 to R184) -/

/-- The latch entry a retake finds lost in both copies (R183). -/
def latchLost (s : State) (n : Nat) (e : LatchEnt) : State :=
  mcNow s n 0x2001 0x0B 7 (BitVec.ofNat 64 e.addr) true true

/-- RETAKE (R181): the retake that is due, begun and counted unless the self-check of a recurring disagreement checkstops the PU
first (R184); the instruction or unit then runs again from the slate. `lost` is the number of
a latched response found bad in both copies. -/
def execRetake (pu : Fin 60) (pause : Fin 1537) (check : SelfCheck) (loss : SlateLoss) (lost : Option (Fin 64)) (s : State) :
    Host.Outcome State Fault Refusal :=
  let n := pu.val
  match (s.pu n).due with
  | .retake cause voter again seq entry =>
    if puLocked s n || puState s n != 1 then .next s
    else
      let both := votersBoth s n
      let s := selfCheck s n check
      let s := if again && both && (noVoter s n || votersBoth s n) then s
        else setPause (ccsAdd s (puReg n 0x28) 47 32 1) n pause.val
      if noVoter s n || (again && both && votersBoth s n) then .next (checkstop s n 5)
      else
        let s := inStep (setDue s n (.retaken cause voter seq entry)) n
        if loss ≠ .none then .next (scrub s n loss)
        else match lost.bind (fun i => (s.pu n).latch[i.val]?) with
          | some e => .next (latchLost s n e)
          | none => .next s
  | _ => .next s

/-- DISSENT_WINDOW_EXPIRY (R185). -/
def execDissentWindowExpiry (pu : Fin 60) (role : Role) (s : State) : Host.Outcome State Fault Refusal :=
  .next (dissExpire s pu.val role)

/-! ### Stand-in syncs (R186, R187) -/

/-- STANDIN_SELFTEST_DONE (R186, R187): the copy begins, or the stand-in is retired and the next free one taken. -/
def execStandinSelftestDone (pu : Fin 60) (pass : Bool) (s : State) : Host.Outcome State Fault Refusal :=
  let n := pu.val
  match (s.pu n).standIn with
  | some y =>
    if y.phase ≠ 0 then .next s
    else if pass then .next (setSync s n (some { y with phase := 1 }))
    else .next (startSync (takeCore (abandonSync s n 0xA) (n / 10) y.core) n y.role)
  | none => .next s

/-- STANDIN_COPY_DONE (R186). No copy ends while the loader holds the PU's partition: it starts again after the command (R187). -/
def execStandinCopyDone (pu : Fin 60) (s : State) : Host.Outcome State Fault Refusal :=
  let n := pu.val
  match (s.pu n).standIn with
  | some y =>
    if y.phase = 1 ∧ s.loader.any (fun j => j.part == puPart s n) = false then .next (setSync s n (some { y with phase := 2 }))
    else .next s
  | none => .next s

/-- STANDIN_INSERTION (R186): at the first boundary after the copy the stand-in takes the vacated role through a resync. -/
def execStandinInsertion (pu : Fin 60) (pause : Fin 1537) (check : SelfCheck) (loss : SlateLoss) (s : State) :
    Host.Outcome State Fault Refusal :=
  let n := pu.val
  match (s.pu n).standIn with
  | some y =>
    if y.phase ≠ 2 ∨ steady (s.pu n) = false ∨ (s.pu n).resync.isSome = true ∨ puLocked s n = true then .next s
    else
      let s := takeCore (setSync s n none) (n / 10) y.core
      let s := setMode (fillRole s n y.role y.core) n
      let s := logPend s n 0x06 0xA (roleNum y.role) y.core (iaOf s n) (BitVec.ofNat 64 y.core) .degr
      .next (settleCores (setPause s n pause.val) n check loss)
  | none => .next s

/-! ### PUCMD (R191, R192) -/

def pucmdst (n : Nat) : Nat := puReg n 0x48

/-- A PUCMD command ends with a STATUS. -/
def puCmdEnd (s : State) (n status : Nat) : State :=
  let s := s.modPu n (fun p => { p with puJob := none })
  ccsSet (ccsSet s (pucmdst n) 63 63 0) (pucmdst n) 55 48 status

/-- A command takes PUCMDST.BUSY. -/
def puCmdStart (s : State) (n : Nat) (j : PuJob) : State :=
  ccsSet (s.modPu n (fun p => { p with puJob := some j })) (pucmdst n) 63 63 1

/-- The target a MOVESLATE may use: another PU, SPARE, triad or duplex. -/
def moveTargetOk (s : State) (n t : Nat) : Bool :=
  decide (t < 60) && t != n && puState s t == 0 && decide (puMode s t ≤ 1)

/-- The work a PAIRTEST with DISCARD gives up (R192). -/
def discardWork (s : State) (n : Nat) : State :=
  assignPart (s.modPu n (fun p =>
    { p with latch := [], latchPos := 0, unitHold := [], xcall := none, restart := none, due := .none, resync := none,
             job := none, devLoad := none, atomReq := none, prog := none, mcImm := none, resume := none, ioResv := none })) n 0

/-- A write of PUCMD (R191, R192): discarded while a command is in progress. -/
def puCmd (s : State) (n cmd target : Nat) (discard : Bool) : State :=
  if ccsFld s (pucmdst n) 63 63 = 1 then s
  else match cmd with
    | 1 =>
      if puState s n ≠ 3 then puCmdEnd s n 3
      else if moveTargetOk s n target then puCmdStart s n (.move target) else puCmdEnd s n 4
    | 2 =>
      if puState s n = 4 then setPuState (puCmdStart s n .test) n 5
      else if puState s n = 3 && discard then setPuState (puCmdStart (discardWork s n) n .test) n 5
      else puCmdEnd s n 3
    | _ => puCmdEnd s n 2

def execMoveslate (pu : Fin 60) (target : BitVec 6) (s : State) : Host.Outcome State Fault Refusal :=
  .next (puCmd s pu.val 1 target.toNat false)

def execPairtest (pu : Fin 60) (discard : Bool) (s : State) : Host.Outcome State Fault Refusal :=
  .next (puCmd s pu.val 2 0 discard)

/-- The slate, latch and unit hold of PU n copied into PU t, with its pending external call and restart and the status reserved for its
entry (R191, R320). Stores of a MOVL
unit that was released go on into the merging buffer of the target. -/
def moveWork (s : State) (n t : Nat) : State :=
  let a := s.pu n
  let s := s.modPu t (fun p => (if a.job.isNone then Pu.drain else id)
    { p with g := a.g, b := a.b, rsp := a.rsp, psw := a.psw, ctl := a.ctl, pfxArea := a.pfxArea, fpc := a.fpc,
             fpfia := a.fpfia, busy := a.busy, latch := a.latch, latchPos := 0, unitHold := a.unitHold, xcall := a.xcall,
             restart := a.restart, prog := a.prog, mcImm := a.mcImm, resume := a.resume, job := a.job,
             devLoad := a.devLoad, atomReq := a.atomReq, clkPend := a.clkPend, ioResv := a.ioResv, due := a.due, resync := none,
             tbMark := s.tbHist.length, lastTod := max p.lastTod a.lastTod })
  s.modPu n (fun p =>
    { p with latch := [], latchPos := 0, unitHold := [], xcall := none, restart := none, prog := none, mcImm := none,
             resume := none, job := none, devLoad := none, atomReq := none, ioResv := none, due := .none })

/-- MOVESLATE_COMPLETE (R191): the target retakes the work with the moved latch, the source is OFFLINE. -/
def execMoveslateComplete (pu : Fin 60) (s : State) : Host.Outcome State Fault Refusal :=
  let n := pu.val
  match (s.pu n).puJob with
  | some (.move t) =>
    if !moveTargetOk s n t then .next (puCmdEnd s n 4)
    else
      let s := moveWork (assignPart s t (puPart s n)) n t
      let s := setPuState (setPuState (dropHold s n) n 4) t 1
      let s := logPend s t 0x0E 0xA 3 0 (iaOf s t) (BitVec.ofNat 64 n) .degr
      .next (puCmdEnd s n 1)
  | _ => .next s

/-- The core that a PU has in a role for its paired test: that of the role, or the home core of a slot that formation left
OFFLINE (R192, R424). -/
def testCore (s : State) (n : Nat) (r : Role) : Option Nat :=
  let home := 3 * (n % 10) + roleNum r
  if roleFilled s n r then some (roleCore s n r)
  else if s.idleCores.contains (64 * (n / 10) + home) then some home
  else none

/-- A PU formed again from the good cores of its roles and free stand-ins (R192). With fewer than two good ones it stays OFFLINE,
and its good core joins the free stand-ins. -/
def reform (s : State) (n : Nat) (good : Role → Bool) : State :=
  let d := n / 10
  let keep := roles.filter good
  if keep.length < 2 then
    let cores := keep.filterMap (testCore s n)
    let s := setPuState (roles.foldl (fun s r => vacateRole s n r) s) n 4
    let s := { s with idleCores := s.idleCores.filter (fun c => c / 64 != d || c % 64 / 3 != n % 10) }
    cores.foldl (fun s c => freeCore s d c) s
  else
    let s := roles.foldl (fun s r => if keep.contains r then s else
      let s := vacateRole s n r
      match freeStandIns s d with
      | [] => s
      | c :: _ => takeCore (fillRole s n r c) d c) s
    setPuState (setMode s n) n 0

/-- PAIRTEST_COMPLETE (R192): GOOD names the good cores of the PU's roles, and the PU is formed again. -/
def execPairtestComplete (pu : Fin 60) (good : BitVec 3) (s : State) : Host.Outcome State Fault Refusal :=
  let n := pu.val
  match (s.pu n).puJob with
  | some .test =>
    let ok (r : Role) : Bool := (testCore s n r).isSome && good.getLsbD (2 - roleNum r)
    let g := 4 * b2n (ok .lead) + 2 * b2n (ok .trail2) + b2n (ok .trail4)
    let s := ccsSet (reform s n ok) (pucmdst n) 34 32 g
    .next (resupply (puCmdEnd s n 1) (n / 10))
  | _ => .next s

end Sys2Proof.Machine
end

