-- ==== Sys2Proof/Machine/Mute.lean ====
section
/-! DEFINITION. The Mute engine (R110, R364 to R382): MLOCK and MFREE, the parameter block and its checks, the units of
MSEAL and MOPEN, and engine checks. -/

namespace Sys2Proof.Machine

/-! ### Byte access of engine units -/

/-- The tags a Bellows or Mute unit accepts in its source words (R358). -/
def tagsEngine : List Tag := [tagUninit, tagInt, tagBfp, tagDec, tagBytes, tagPtr, tagCustom]

/-- The parts of k bytes at a virtual address that lie in one page each: (offset, length). -/
def pageParts (va k : Nat) : Nat → Nat → List (Nat × Nat)
  | 0, _ => []
  | f + 1, i => if k ≤ i then []
      else (i, min (toBoundary (va + i)) (k - i)) :: pageParts va k f (i + min (toBoundary (va + i)) (k - i))

/-- A word part of an operand: its offset, absolute address and length. -/
abbrev Part := Nat × Nat × Nat

/-- The word parts of a page part at an absolute address. -/
def partsAt (i a len : Nat) : List Part := (chunksOf a len).map (fun p => (i + p.1, a + p.1, p.2))

/-- Runs a check on every word part. -/
def eachPart (f : Part → M Unit) : List Part → M Unit
  | [] => pure ()
  | p :: ps => do
    f p
    eachPart f ps

/-- A line that a unit writes through its engine, of the PU's die, is waited for until the write can be served (R236, R242). -/
def needFree (n a : Nat) : M Unit := do
  let s ← get
  guardM (ownAs s (n / 10) (a / 64)) waitFor

/-- A line that a unit reads through its engine, and that a guest may hold newer, is waited for (R236). -/
def needHome (a : Nat) : M Unit := do
  let s ← get
  guardM (!guestOwns s (a / 64)) waitFor

/-- Steps 6 to 10 of R54 page by page: the word parts. -/
def pagesM (c : Ctx) (o : PairOp) (k : Kind) (root va : Nat) (f : Part → M Unit) : List (Nat × Nat) → M (List Part)
  | [] => pure []
  | (i, len) :: ps => do
    let a ← xlate c o.slot o.bank k root (va + i) len .memory
    let cs := partsAt i a len
    eachPart (fun p => do
      if k.stores then needFree c.pu p.2.1
      f p) cs
    let r ← pagesM c o k root va f ps
    pure (cs ++ r)

/-- All steps of R54 for k bytes of an engine operand: its virtual address and word parts. -/
def spanM (c : Ctx) (o : PairOp) (n : Nat) (k : Kind) (need : Right) (f : Nat → Part → M Unit) : M (Nat × List Part) := do
  let (va, root) ← bankAddr c o.slot o.bank o.off n k.acc need
  let ps ← pagesM c o k root va (f va) (pageParts va n (n / 4096 + 2) 0)
  pure (va, ps)

def partPlace (o : PairOp) (va acc : Nat) (p : Part) : MLoc :=
  { slot := o.slot, bank := o.bank, va := va + p.1, abs := p.2.1, len := p.2.2, acc := acc }

/-- The source of a unit: checked under R358. -/
def sourceSpan (c : Ctx) (o : PairOp) (n : Nat) : M (Nat × List Part) :=
  spanM c o n .load .r (fun va p => do
    needHome p.2.1
    let s ← get
    checkRead c (partPlace o va Kind.load.acc p) c.relax tagsEngine (puView s c.pu (p.2.1 / 8)).tag)

/-- The destination of a unit: whole words take a tag, all others pass R37. -/
def targetSpan (c : Ctx) (o : PairOp) (n : Nat) (tagAt : Nat → Nat → Tag) : M (Nat × List Part) :=
  spanM c o n .store .w (fun va p =>
    let m := partPlace o va Kind.store.acc p
    if p.2.2 = 8 then checkPolicy c m (tagAt va p.1) else checkNarrow c m)

/-- The bytes of word parts. -/
def partBytes (s : State) (n : Nat) (ps : List Part) : List Byte :=
  (ps.map (fun p => bytesBE p.2.2 (extract (puView s n (p.2.1 / 8)).data p.2.1 p.2.2).toNat)).flatten

/-- The held stores of bytes into word parts. -/
def partStores (va : Nat) (tagAt : Part → Option Tag) : List Part → List Byte → List HeldStore
  | [], _ => []
  | p :: ps, b =>
    { abs := p.2.1, va := va + p.1, len := p.2.2, data := BitVec.ofNat 64 (ofBE (b.take p.2.2)), tag := tagAt p }
      :: partStores va tagAt ps (b.drop p.2.2)

/-- BYTES for whole words, R37 for all others. -/
def bytesTag (p : Part) : Option Tag := if p.2.2 = 8 then some tagBytes else none

/-- A unit posted to an engine: the PU waits, at a unit boundary (R145), until the engine serves it (R363, R374); what the engine
found is its answer. -/
def engineUnit (c : Ctx) (h : Hdr) (kind : UnitKind) (cont : Bool) (ops : List Spec) : M Nat := do
  let r ← latched c .engine 0 (do
    modify (fun s => s.modPu c.pu (fun p =>
      { p with latch := p.latch ++ [{ kind := .engine, addr := 0, resp := none }]
               job := some { kind := kind, cont := cont, pfx := h.pfx, ops := ops }, resume := some c.len }))
    waitFor)
  pure (r.headD uninitWord).data.toNat

/-- An effect of a unit outside the PU that a retake does not repeat. -/
def engineOnce (c : Ctx) (f : State → List TWord × State) : M (List TWord) :=
  latched c .engine 0 (do
    let s ← get
    let (r, s') := f s
    set s'
    pure r)

/-! ### Engine checks (R362, R380, R381) -/

/-- The times of an engine's checks that are still in the window; engine k of `engTimes`. -/
def recentChecks (s : State) (k : Nat) : List Nat :=
  (spGet [] s.engTimes k).filter (fun t => decide (shCount s < t + 2 ^ 20))

/-- One engine check: counted; the third in the window fences the engine, and the executing PU reports. `err` is the
engine's error register, `ev` the event of the check, `fence` what fencing does. -/
def engineCheck (s : State) (n k err stat ev fencesHi : Nat) (fence : State → State) : State :=
  let ts := recentChecks s k
  let s := logOutside (ccsAdd s err 63 48 1) n ev 0 .recv
  if 2 ≤ ts.length then
    logOutside (fence (ccsAdd { s with engTimes := spSet [] s.engTimes k ts } err fencesHi (fencesHi - 15) 1)) n (ev + 1) 0
      .degr
  else
    ccsSet { s with engTimes := spSet [] s.engTimes k (ts ++ [shCount s]) } stat 41 40 (ts.length + 1)

def muteCheck (s : State) (n : Nat) : State :=
  let e := engineOf n
  engineCheck s n (12 + e) (mutReg e 0x10) (mutReg e 0) 0x13 47 (fun s => setMut s e 2 0x3F)

/-- ENGINE_CHECK_WINDOW_EXPIRY (R362, R381): old check times leave the window of a Bellows or Mute engine. -/
def execEngineCheckWindowExpiry (e : Fin 12) (mute : Bool) (s : State) : Host.Outcome State Fault Refusal :=
  let k := if mute then 12 + e.val else e.val
  let stat := if mute then mutReg e.val 0 else belReg e.val 0
  let ts := recentChecks s k
  .next (ccsSet { s with engTimes := spSet [] s.engTimes k ts } stat 41 40 ts.length)

/-! ### MLOCK and MFREE (R110) -/

/-- The engine is stopped for entropy and acts as frozen (R382). -/
def mutEnt (s : State) (e : Nat) : Bool := ccsFld s (mutReg e 0) 61 61 == 1

/-- A fenced, frozen or stopped engine. -/
def mutDown (s : State) (e : Nat) : Bool := decide (2 ≤ mutState s e) || mutEnt s e

/-- The answer to an MLOCK: op1 and the condition code, and the engine's new state. -/
def mlock (s : State) (n : Nat) : List TWord × State :=
  let e := engineOf n
  let ans (v cc : Nat) : List TWord := [intWord (BitVec.ofNat 64 v), intWord (BitVec.ofNat 64 cc)]
  if mutDown s e then (ans (2 ^ 64 - 1) 3, s)
  else if mutState s e = 0 then (ans n 0, setMut s e 1 n)
  else if mutOwner s e = n then (ans n 1, s)
  else (ans (mutOwner s e) 2, s)

def execMlock (h : Hdr) (op1 : Spec) (s : State) : Host.Outcome State Fault Refusal :=
  let i : OpInfo := { opLen := 1, slots := [(.R, .wr)], o := false, a := false, n := false, pl := 3, t4 := false }
  instr h i [op1] (fun c => do
    let r ← latched c .mlock 0 (do
      let s ← get
      let (r, s') := mlock s c.pu
      set s'
      pure r)
    let cc := (r.getD 1 uninitWord).data.toNat
    commitTo c i [op1] (.reg (regNum op1)) (r.headD uninitWord) (fun p => p.setCC cc)) s

def execMfree (h : Hdr) (s : State) : Host.Outcome State Fault Refusal :=
  let i : OpInfo := { opLen := 1, slots := [], o := false, a := false, n := false, pl := 3, t4 := false }
  instr h i [] (fun c => do
    let r ← latched c .mfree 0 (do
      let s ← get
      let held := holdsMute s c.pu
      set (dropHold s c.pu)
      pure [intWord (if held then 0 else 1)])
    commit c i [] [] (fun p => p.setCC (r.headD uninitWord).data.toNat)) s

/-! ### The cipher state of a message (R371) -/

/-- A key in use: algorithm 0 AES-256-GCM, 1 ChaCha20-Poly1305, and the 96-bit nonce. -/
structure MKey where
  alg : Nat
  key : BitVec 256
  iv  : List Byte
deriving DecidableEq, Repr

/-- The engine's words of a parameter block. -/
structure MState where
  acc    : Nat
  pend   : List Byte
  aadc   : Bool
  fin    : Nat
  aadtot : Nat
  paytot : Nat
deriving DecidableEq, Repr

/-- Whole 16-byte blocks taken into the accumulator. -/
def absorbBlocks (k : MKey) (acc : Nat) (bs : List (List Byte)) : Nat :=
  if k.alg = 0 then (ghash (gcmH (roundKeys k.key)) (BitVec.ofNat 128 acc) bs).toNat
  else polyBlocks (polyKey k.key k.iv).1 acc bs

/-- Bytes taken into the accumulator, an incomplete block left pending. -/
def absorb (k : MKey) (m : MState) (d : List Byte) : MState :=
  let b := m.pend ++ d
  let q := b.length / 16
  { m with acc := absorbBlocks k m.acc (pieces 16 q (b.take (16 * q))), pend := b.drop (16 * q) }

/-- The pending block padded with zeros and taken in. -/
def closePend (k : MKey) (m : MState) : MState :=
  if m.pend.isEmpty then m
  else { m with acc := absorbBlocks k m.acc [fillTo 16 m.pend], pend := [] }

/-- The AAD is closed (R374). -/
def closeAad (k : MKey) (m : MState) : MState := if m.aadc then m else { closePend k m with aadc := true }

/-- Payload bytes at a position of the message, encrypted or decrypted. -/
def crypt (k : MKey) (pos : Nat) (d : List Byte) : List Byte :=
  if k.alg = 0 then
    (gcmCtr (roundKeys k.key) k.iv (2 + pos / 16) (List.replicate (pos % 16) 0 ++ d)).drop (pos % 16)
  else (chachaXor k.key k.iv (1 + pos / 64) (List.replicate (pos % 64) 0 ++ d)).drop (pos % 64)

/-- The message ends: the last accumulator and the tag. -/
def finishTag (k : MKey) (m : MState) : MState × List Byte :=
  let m := closePend k (closeAad k m)
  if k.alg = 0 then
    let m := { m with acc := absorbBlocks k m.acc [lenBlock m.aadtot m.paytot] }
    (m, xorBytes (bytesBE 16 m.acc) (aesEncrypt (roundKeys k.key) (ctrBlock k.iv 1)))
  else
    let m := { m with acc := absorbBlocks k m.acc [bytesLE 8 m.aadtot ++ bytesLE 8 m.paytot] }
    (m, bytesLE 16 ((m.acc + (polyKey k.key k.iv).2) % 2 ^ 128))

/-! ### The parameter block (R371, R372) -/

def ctlAlg (w : Nat) : Nat := bits w 63 62
def ctlFin (w : Nat) : Bool := bit w 61
def ctlLd (w : Nat) : Bool := bit w 60
def ctlNg (w : Nat) : Bool := bit w 59
def ctlDir (w : Nat) : Nat := bits w 58 58
def ctlPhase (w : Nat) : Nat := bits w 57 56
def ctlVerdict (w : Nat) : Bool := bit w 55
def ctlSlot (w : Nat) : Nat := bits w 37 32

/-- A word of the block by its number, offset / 8. -/
def blk (ws : List TWord) (i : Nat) : Nat := (ws.getD i uninitWord).data.toNat

/-- The engine's state in a block; a new operation starts from nothing. -/
def blockState (ws : List TWord) : MState :=
  if ctlPhase (blk ws 0) = 0 then { acc := 0, pend := [], aadc := false, fin := 0, aadtot := 0, paytot := 0 }
  else
    let st := blk ws 11
    { acc := bits st 63 62 * 2 ^ 128 + blk ws 9 * 2 ^ 64 + blk ws 10
      pend := (bytesBE 8 (blk ws 12) ++ bytesBE 8 (blk ws 13)).take (bits st 59 56)
      aadc := bit st 60, fin := bits st 39 0, aadtot := blk ws 7, paytot := blk ws 8 }

/-- A block with one word's data replaced, its tag kept. -/
def setBlk (ws : List TWord) (i v : Nat) : List TWord :=
  ws.set i { ws.getD i uninitWord with data := BitVec.ofNat 64 v }

/-- The block with the engine's state in it. -/
def putState (ws : List TWord) (m : MState) : List TWord :=
  let p := fillTo 16 m.pend
  let st := bits m.acc 129 128 * 2 ^ 62 + b2n m.aadc * 2 ^ 60 + m.pend.length * 2 ^ 56 + m.fin % 2 ^ 40
  let ws := setBlk (setBlk ws 7 m.aadtot) 8 m.paytot
  let ws := setBlk (setBlk ws 9 (m.acc / 2 ^ 64)) 10 m.acc
  let ws := setBlk (setBlk (setBlk ws 11 st) 12 (ofBE (p.take 8))) 13 (ofBE (p.drop 8))
  ws

/-- CHK of a block under the state key (R372), CTL taken with FIN 0, which a program sets in a later invocation (R375). -/
def blockChk (s : State) (ws : List TWord) (gen part : Nat) : Word :=
  let ds := (ws.take 15).map (·.data)
  Config.chk (Config.noise s.stateKey) (wordSet (ds.headD 0) 61 61 0 :: ds.drop 1) gen part

/-- The nonce of a block. -/
def blockIv (ws : List TWord) : List Byte := bytesBE 8 (blk ws 3) ++ bytesBE 4 (blk ws 4 / 2 ^ 32)

/-! ### The checks of R373 -/

/-- A parameter block as one invocation works on it. -/
structure PBlock where
  slot : Nat
  bank : Nat
  off  : Nat
  ms   : List MLoc
  ws   : List TWord
deriving DecidableEq, Repr

/-- Steps 5 and 6 of R83 for a parameter block at a bank offset: its 16 words, AADOFF INT or PTR, the rest INT. -/
def readBlock (c : Ctx) (slot bank off : Nat) : M PBlock := do
  let ms ← longLoc c slot bank off 16 16 .rmw .rw
  let w0 ← readPair c tagsInt (ms.take 1)
  let w1 ← readPair c tagsIntPtr ((ms.drop 1).take 1)
  let w2 ← readPair c tagsInt (ms.drop 2)
  ms.forM (fun m => needFree c.pu m.abs)
  pure { slot := slot, bank := bank, off := off, ms := ms, ws := w0 ++ w1 ++ w2 }

/-- The wrapped key behind a block whose LD is 1, at the first unit of an invocation. -/
def readWrap (c : Ctx) (b : PBlock) (first : Bool) : M (List TWord) :=
  if first && ctlLd (blk b.ws 0) then do
    let ms ← longLoc c 4 b.bank (b.off + 0x80) 5 8 .load .r
    readPair c tagsInt ms
  else pure []

/-- Checks 1 and 2, and the layout of AADLEN. -/
def ctlOk (b : PBlock) (isOpen : Bool) : Bool :=
  let w := blk b.ws 0
  bits w 54 38 == 0 && bits w 31 0 == 0 && decide (ctlAlg w < 2) && !(ctlNg w && (isOpen || ctlPhase w != 0))
    && lenOk (b.ws.getD 2 uninitWord).data

/-- Checks 6 to 8 of R373 on the slot: its key. -/
def slotChecks (c : Ctx) (b : PBlock) (wrap : List TWord) (first own : Bool) : M SlotKey := do
  let s ← get
  let e := engineOf c.pu
  let k := ctlSlot (blk b.ws 0)
  let part := pswPart (s.pu c.pu).psw
  guardM (!own || slotOwner s e k == part) (c.fail 0x0060)
  if first && ctlLd (blk b.ws 0) then do
    let r ← engineOnce c (fun s =>
      match (spFind s.keks part).bind (fun kek => keyUnwrap kek (wrapBytes (wrap.map (·.data)))) with
      | some v => ([intWord 1], setSlot s e k (some { key := v, alg := ctlAlg (blk b.ws 0) }))
      | none => ([intWord 0], ccsAdd s (mutReg e 0x10) 31 16 1))
    guardM ((r.headD uninitWord).data == 1) (c.fail 0x0063)
  let s ← get
  match spFind s.slotKeys (64 * e + k) with
  | none => c.fail 0x0060
  | some v =>
    guardM (v.alg == ctlAlg (blk b.ws 0)) (c.fail 0x0060)
    pure v

/-- Check 9 of R373. -/
def stateOk (s : State) (n : Nat) (b : PBlock) (isOpen : Bool) (dst : Option PairOp) : Bool :=
  let w := blk b.ws 0
  let ob := blk b.ws 14
  let gen := slotGenOf s (engineOf n) (ctlSlot w)
  match ctlPhase w with
  | 0 => true
  | 3 => false
  | _ =>
    blockChk s b.ws gen (pswPart (s.pu n).psw) == (b.ws.getD 15 uninitWord).data
      && ctlDir w == b2n isOpen
      && (!isOpen || (match dst with
          | some d => d.bank == bits ob 63 61 && d.off == bits ob 32 0 + (blockState b.ws).paytot
          | none => true))
      && !(bits (blk b.ws 2) 32 0 != 0 && (blockState b.ws).aadc)

/-- Check 10 of R373 for a payload of `len` bytes. -/
def lengthOk (b : PBlock) (len : Nat) : Bool :=
  let m := blockState b.ws
  let gcm := ctlAlg (blk b.ws 0) == 0
  decide (m.paytot + len ≤ (if gcm then 2 ^ 36 - 32 else (2 ^ 32 - 1) * 64))
    && decide (m.aadtot + bits (blk b.ws 2) 32 0 ≤ (if gcm then 2 ^ 61 - 1 else 2 ^ 64 - 1))

/-- The block as its operation starts: the nonce drawn under NG, DIR, OUTBASE and PHASE of a new operation. -/
def openBlock (c : Ctx) (b : PBlock) (isOpen : Bool) (outbase : Nat) : M (List TWord) := do
  let w := blk b.ws 0
  if ctlPhase w ≠ 0 then pure b.ws
  else do
    let ws ← (if ctlNg w then do
        let r ← engineOnce c (fun s =>
          let (v, s') := drawNoise s
          ([intWord (v.setWidth 64), intWord ((v >>> 64).setWidth 64)], s'))
        pure (setBlk (setBlk b.ws 3 (blk r 0)) 4 (blk r 1 / 2 ^ 32 * 2 ^ 32))
      else pure b.ws)
    let w' := setBits (setBits (setBits (setBits w 59 59 0) 58 58 (b2n isOpen)) 57 56 1) 55 55 0
    pure (putState (setBlk (setBlk ws 0 w') 14 outbase) (blockState b.ws))

/-- The held stores that write a block back, CHK with it (R372). -/
def writeBack (s : State) (n : Nat) (b : PBlock) (ws : List TWord) : List HeldStore :=
  let gen := slotGenOf s (engineOf n) (ctlSlot (blk ws 0))
  let ws := setBlk ws 15 (blockChk s ws gen (pswPart (s.pu n).psw)).toNat
  ((b.ms.zip ws).zip b.ws).filterMap (fun p =>
    if p.1.2 = p.2 then none
    else some { abs := p.1.1.abs, va := p.1.1.va, len := 8, data := p.1.2.data, tag := some p.1.2.tag })

/-- The release of a unit: the pairs move, the block and the output wait for the completing bundle. -/
def endMute (c : Ctx) (b : PBlock) (ws : List TWord) (out : List HeldStore) (last : Bool) (cc : Nat) (f : Pu → Pu) : M Unit := do
  let s ← get
  let held := out ++ writeBack s c.pu b ws
  endUnit c last cc (fun p => { f p with unitHold := held })

/-! ### The units of MSEAL and MOPEN (R374 to R377) -/

/-- Every word a MOPEN unit writes becomes SEALED; a partly covered one must be of a tag R376 lists. -/
def sealedSpan (c : Ctx) (o : PairOp) (n : Nat) : M (Nat × List Part) :=
  spanM c o n .store .w (fun va p => do
    let m := partPlace o va Kind.store.acc p
    let s ← get
    guardM (p.2.2 == 8 || ([tagUninit, tagInt, tagBfp, tagDec, tagBytes, tagPtr, tagSealed].contains
      (puView s c.pu (p.2.1 / 8)).tag)) (c.raise 0x0015 m.va m.slot m.bank m.acc)
    checkPolicy c m tagSealed)

/-- One AAD unit. -/
def aadUnit (c : Ctx) (b : PBlock) (ws : List TWord) (k : MKey) (lastIfDone : Bool) : M Unit := do
  let w := blk ws 2
  let o : PairOp := { slot := 4, n := 0, off := blk ws 1, bank := bits w 63 61, len := bits w 32 0 }
  let s ← get
  let n := min o.len (toBoundary (o.va s c.pu))
  let (_, ps) ← sourceSpan c o n
  let s ← get
  let m := absorb k (blockState ws) (partBytes s c.pu ps)
  let ws := putState ws { m with aadtot := m.aadtot + n }
  let ws := setBlk (setBlk ws 1 (o.off + n)) 2 (o.bank * 2 ^ 61 + (o.len - n))
  endMute c b ws [] (lastIfDone && n == o.len) 0 id

/-- One payload unit: source read before the destination is written. -/
def payUnit (c : Ctx) (b : PBlock) (ws : List TWord) (k : MKey) (isOpen : Bool) (d r : PairOp) : M Unit := do
  let s ← get
  let n := min r.len (min (toBoundary (d.va s c.pu)) (toBoundary (r.va s c.pu)))
  let (_, src) ← sourceSpan c r n
  let (va, dst) ← (if isOpen then sealedSpan c d n else targetSpan c d n (fun _ _ => tagBytes))
  let s ← get
  let inp := partBytes s c.pu src
  let m := closeAad k (blockState ws)
  let out := crypt k m.paytot inp
  let m := absorb k m (if isOpen then inp else out)
  let ws := putState ws { m with paytot := m.paytot + n }
  let held := partStores va (fun p => if isOpen then some tagSealed else bytesTag p) dst out
  endMute c b ws held (n == r.len && !ctlFin (blk ws 0)) 0 (fun p => r.advance n (d.advance n p))

/-- The tag of MSEAL, or MOPEN's comparison with TAG (R374, R377). -/
def tagUnit (c : Ctx) (b : PBlock) (ws : List TWord) (k : MKey) (isOpen : Bool) : M Unit :=
  let (m, t) := finishTag k (blockState ws)
  let w := blk ws 0
  if isOpen then
    let ok := t == bytesBE 8 (blk ws 5) ++ bytesBE 8 (blk ws 6)
    let done := m.paytot == 0
    let ws := putState (setBlk ws 0 (setBits (setBits w 55 55 (b2n ok)) 57 56 (if done then 3 else 2))) m
    endMute c b ws [] done (if ok then 0 else 1) id
  else
    let ws := setBlk (setBlk ws 5 (ofBE (t.take 8))) 6 (ofBE (t.drop 8))
    endMute c b (putState (setBlk ws 0 (setBits w 57 56 3)) m) [] true 0 id

/-- The stores of a finishing unit: each word still SEALED becomes BYTES, or its plaintext bytes 0 and UNINIT. -/
def finishStores (s : State) (va : Nat) (ok : Bool) (ps : List Part) : List HeldStore :=
  ps.filterMap (fun p =>
    let w := homeWord s (p.2.1 / 8)
    if w.tag = tagSealed then
      some { abs := p.2.1, va := va + p.1, len := p.2.2, data := if ok then extract w.data p.2.1 p.2.2 else 0
             tag := some (if ok then tagBytes else tagUninit) }
    else none)

/-- One finishing unit of MOPEN (R377). -/
def finishUnit (c : Ctx) (b : PBlock) (ws : List TWord) : M Unit := do
  let m := blockState ws
  let ob := blk ws 14
  let ok := ctlVerdict (blk ws 0)
  let o : PairOp := { slot := 1, n := 0, off := bits ob 32 0 + m.fin, bank := bits ob 63 61, len := m.paytot - m.fin }
  let s ← get
  let n := min o.len (toBoundary (o.va s c.pu))
  let (va, ps) ← spanM c o n .store .w (fun va p =>
    checkPolicy c (partPlace o va Kind.store.acc p) (if ok then tagBytes else tagUninit))
  let s ← get
  let done := n == o.len
  let ws := putState (if done then setBlk ws 0 (setBits (blk ws 0) 57 56 3) else ws) { m with fin := m.fin + n }
  endMute c b ws (finishStores s va ok ps) done (if ok then 0 else 1) id

def opMute : OpInfo :=
  { opLen := 1, slots := [(.P, .rw), (.P, .rw), (.M, .rw)], o := true, a := false, n := false, pl := 3, t4 := false }

/-- MSEAL and MOPEN: the checks of R373 and one unit. `cont`: the invocation goes on from an earlier unit. -/
def muteBody (isOpen cont : Bool) (h : Hdr) (op1 op2 op3 : Spec) (c : Ctx) : M Unit := do
  let (d, w1) ← pairOp c 1 op1
  let (r, w2) ← pairOp c 2 op2
  let (bank, off) ← specAddr c (place opMute [op1, op2, op3] 3) op3
  let b ← readBlock c 3 bank off
  let wrap ← readWrap c b (!cont)
  guardM (lenOk w1) (c.fail 0x0006 1)
  guardM (lenOk w2) (c.fail 0x0006 2)
  guardM (ctlOk b isOpen) (c.fail 0x0006)
  guardM (decide (r.len ≤ d.len)) (c.fail 0x0006)
  let s ← get
  let e := engineOf c.pu
  if mutDown s e then endUnit c true 3 id
  else if !holdsMute s c.pu then endUnit c true 2 id
  else do
    if storesPending (s.pu c.pu) then waitStores c
    let v ← engineUnit c h (if isOpen then .opening else .sealing) cont [op1, op2, op3]
    if v ≠ 0 then do
      let _ ← engineOnce c (fun s => ([], muteCheck s c.pu))
      endUnit c true 3 id
    else do
      let key ← slotChecks c b wrap (!cont) (!cont)
      let s ← get
      guardM (cont || stateOk s c.pu b isOpen (some d)) (c.fail 0x0061)
      guardM (cont || lengthOk b r.len) (c.fail 0x0062)
      let ws ← openBlock c b isOpen (if isOpen then d.bank * 2 ^ 61 + d.off % 2 ^ 33 else 0)
      let k : MKey := { alg := key.alg, key := key.key, iv := blockIv ws }
      let w := blk ws 0
      if ctlPhase w = 2 then finishUnit c b ws
      else if bits (blk ws 2) 32 0 ≠ 0 then aadUnit c b ws k (r.len == 0 && !ctlFin w)
      else if r.len ≠ 0 then payUnit c b ws k isOpen d r
      else if ctlFin w then tagUnit c b ws k isOpen
      else endMute c b ws [] true 0 id

/-- The instruction goes on from a unit of its invocation that has ended. -/
def continues (h : Hdr) (s : State) : Bool :=
  match (s.pu h.pu.val).job with
  | some j => j.cont
  | none => (s.pu h.pu.val).resume.isSome

def execMseal (h : Hdr) (op1 op2 op3 : Spec) (s : State) : Host.Outcome State Fault Refusal :=
  instr h opMute [op1, op2, op3] (muteBody false (continues h s) h op1 op2 op3) s

def execMopen (h : Hdr) (op1 op2 op3 : Spec) (s : State) : Host.Outcome State Fault Refusal :=
  instr h opMute [op1, op2, op3] (muteBody true (continues h s) h op1 op2 op3) s

/-! ### The engine serves a unit -/

/-- The engine's answer to the unit that waits in a PU's latch. -/
def answerUnit (s : State) (n v : Nat) : State :=
  s.modPu n (fun p => { p with latch := p.latch.map (fun l =>
    if l.kind = .engine ∧ l.resp = none then { l with resp := some [intWord (BitVec.ofNat 64 v)] } else l) })

/-- A unit of one of two kinds waits at its engine, its PU able to go on. -/
def waitsFor (s : State) (n : Nat) (a b : UnitKind) : Bool :=
  canRun s n && (s.pu n).latch.any (fun l => l.kind == .engine && l.resp.isNone)
    && (match (s.pu n).job with | some j => j.kind == a || j.kind == b | none => false)

/-- The PUs of a cluster, by slot. -/
def clusterPus (e : Nat) : List (Fin 60) :=
  (List.range 60).filterMap (fun n => if h : n < 60 then (if engineOf n = e then some ⟨n, h⟩ else none) else none)

/-- MUTE_UNIT (R374): the engine processes the waiting unit of its holder; `check`: an engine check befalls it. -/
def execMuteUnit (e : Fin 12) (vote : Vote) (check : Bool) (s : State) : Host.Outcome State Fault Refusal :=
  match (clusterPus e.val).find? (fun n => waitsFor s n.val .sealing .opening) with
  | none => .next s
  | some n =>
    match (s.pu n.val).job with
    | some ⟨k, _, pfx, [op1, op2, op3]⟩ =>
      let h : Hdr := { pu := n, pfx := pfx, vote := vote }
      instr h opMute [op1, op2, op3] (muteBody (k == .opening) (continues h s) h op1 op2 op3) (answerUnit s n.val (b2n check))
    | _ => .next s

end Sys2Proof.Machine
end

