-- ==== Sys2Proof/Machine/Bellows.lean ====
section
/-! DEFINITION. CMPB and EXPB (R357 to R361), chaining to the Mute engine (R364, R379), the Bellows engine and its checks
(R362, R363). -/

namespace Sys2Proof.Machine

/-! ### The engine -/

def belDown (s : State) (e : Nat) : Bool := ccsFld s (belReg e 0) 63 62 == 2

/-- BELLOG and BELLOGA (R362, R356). -/
def belLog (s : State) (n kind reason a : Nat) : State :=
  let e := engineOf n
  let s := ccsPut s (belReg e 0x18) (BitVec.ofNat 64 (kind * 2 ^ 60 + reason * 2 ^ 56 + n * 2 ^ 48))
  ccsPut s (belReg e 0x20) (BitVec.ofNat 64 (a % 2 ^ 52))

/-- An engine check at a block whose first input byte is at a. -/
def belCheck (s : State) (n a : Nat) : State :=
  let e := engineOf n
  engineCheck (belLog s n 1 0 a) n e (belReg e 0x10) (belReg e 0) 0x11 31 (fun s => ccsSet s (belReg e 0) 63 62 2)

/-- BELCMD TEST (R362): discarded unless fenced. -/
def execBelcmdTest (e : Fin 12) (pass : Bool) (s : State) : Host.Outcome State Fault Refusal :=
  if !belDown s e.val then .next s
  else if pass then
    let s := { s with engTimes := spErase s.engTimes e.val }
    let s := ccsSet (ccsSet s (belReg e.val 0) 41 40 0) (belReg e.val 0) 39 32 1
    .next (ccsSet s (belReg e.val 0) 63 62 0)
  else .next (ccsSet s (belReg e.val 0) 39 32 2)

/-! ### Chaining (R364, R379) -/

/-- The parameter block of a chained unit, checked under R373 except check 3: the ciphertext that replaces the block, and
the stores that write the parameter block back. -/
def chainSeal (c : Ctx) (ctl : Nat) (first : Bool) (block : List Byte) : M (List Byte × List HeldStore) := do
  let b ← readBlock c 4 (bits ctl 63 61) (bits ctl 55 24)
  let wrap ← readWrap c b first
  guardM (ctlOk b false && bits (blk b.ws 2) 32 0 == 0) (c.fail 0x0006)
  let key ← slotChecks c b wrap first true
  let s ← get
  guardM (stateOk s c.pu b false none) (c.fail 0x0061)
  guardM (lengthOk b block.length) (c.fail 0x0062)
  let ws ← openBlock c b false 0
  let k : MKey := { alg := key.alg, key := key.key, iv := blockIv ws }
  let m := closeAad k (blockState ws)
  let out := crypt k m.paytot block
  let m := absorb k m out
  let s ← get
  pure (out, writeBack s c.pu b (putState ws { m with paytot := m.paytot + block.length }))

/-! ### CMPB (R357 to R359) -/

def opCmpb : OpInfo :=
  { opLen := 1, slots := [(.P, .rw), (.P, .rw), (.S, .rd)], o := false, a := false, n := false, pl := 3, t4 := false }

/-- The control word's own checks (R357). -/
def cmpCtlOk (w va : Nat) : Bool :=
  bits w 60 56 == 0 && bits w 23 4 == 0 && (bit w 3 || (bits w 63 61 == 0 && bits w 55 24 == 0))
    && !(bit w 2 && va % 8 != 0)

/-- The tags of a source's 8-byte groups; the address is a multiple of 8. -/
def groupTags (s : State) (n : Nat) (ps : List Part) : List Tag := ps.map (fun p => (puView s n (p.2.1 / 8)).tag)

/-- What stops a Bellows instruction before its unit (R359, R360): the condition code. -/
def belStop (s : State) (n : Nat) (len : Nat) (chained : Bool) : Option Nat :=
  let e := engineOf n
  if len = 0 then some 0
  else if chained && !holdsMute s n then some 2
  else if belDown s e || (chained && mutDown s e) then some 3
  else none

/-- CMPB: one unit. The engine's answer has bit 0 for a Bellows check and bit 1 for a check of the Mute engine, which befalls
only a block that reaches it. -/
def cmpbBody (cont : Bool) (h : Hdr) (op1 op2 op3 : Spec) (c : Ctx) : M Unit := do
  let (d, w1) ← pairOp c 1 op1
  let (r, w2) ← pairOp c 2 op2
  let t ← source c (place opCmpb [op1, op2, op3] 3) 8 tagsInt op3
  let ctl := t.data.toNat
  let s ← get
  guardM (lenOk w1) (c.fail 0x0006 1)
  guardM (lenOk w2) (c.fail 0x0006 2)
  guardM (cmpCtlOk ctl (r.va s c.pu)) (c.fail 0x0006)
  let chained := bit ctl 3
  match belStop s c.pu r.len chained with
  | some cc => endUnit c true cc id
  | none => do
    if storesPending (s.pu c.pu) then waitStores c
    let v ← engineUnit c h .compress cont [op1, op2, op3]
    let (_, src) ← sourceSpan c r (min r.len 4096)
    let s ← get
    if bit v 0 then do
      let _ ← engineOnce c (fun s => ([], belCheck s c.pu ((src.headD (0, 0, 0)).2.1)))
      endUnit c true 3 id
    else do
      let z := compressBlock (bits ctl 1 0) (bit ctl 2) (partBytes s c.pu src) (groupTags s c.pu src)
      let size := classSize z.cls
      if d.len < size then endUnit c true 1 id
      else do
        let (va, dst) ← targetSpan c d size (fun _ _ => tagBytes)
        if chained && bit v 1 then do
          let _ ← engineOnce c (fun s => ([], muteCheck s c.pu))
          endUnit c true 3 id
        else do
          let (out, back) ← (if chained then chainSeal c ctl (!cont) z.bytes else pure (z.bytes, []))
          let held := partStores va bytesTag dst out ++ back
          endUnit c (z.ilen == r.len) 0
            (fun p => { r.advance z.ilen (d.advance size p) with unitHold := held })

def execCmpb (h : Hdr) (op1 op2 op3 : Spec) (s : State) : Host.Outcome State Fault Refusal :=
  instr h opCmpb [op1, op2, op3] (cmpbBody (continues h s) h op1 op2 op3) s

/-! ### EXPB (R356, R358, R360) -/

def opExpb : OpInfo :=
  { opLen := 1, slots := [(.P, .rw), (.P, .rw)], o := false, a := false, n := false, pl := 3, t4 := false }

/-- EXPB ends with cc2 at a block: counted and logged (R356, R360). -/
def expFail (c : Ctx) (reason a : Nat) : M Unit := do
  let _ ← engineOnce c (fun s => ([], belLog (ccsAdd s (belReg (engineOf c.pu) 0x10) 47 32 1) c.pu 2 reason a))
  endUnit c true 2 id

/-- The tag of a whole destination word of EXPB (R358). -/
def expTag (kt : Bool) (tags : List Tag) (va i : Nat) : Tag :=
  let t := tags.getD (i / 8) tagBytes
  if kt && va % 8 == 0 && [tagUninit, tagInt, tagBfp, tagDec, tagBytes, tagCustom, tagPoison].contains t then t else tagBytes

/-- EXPB: one unit. -/
def expbBody (cont : Bool) (h : Hdr) (op1 op2 : Spec) (c : Ctx) : M Unit := do
  let (d, w1) ← pairOp c 1 op1
  let (r, w2) ← pairOp c 2 op2
  guardM (lenOk w1) (c.fail 0x0006 1)
  guardM (lenOk w2) (c.fail 0x0006 2)
  let s ← get
  match belStop s c.pu r.len false with
  | some cc => endUnit c true cc id
  | none => do
    if storesPending (s.pu c.pu) then waitStores c
    let v ← engineUnit c h .expand cont [op1, op2]
    let (_, src) ← sourceSpan c r (min r.len 16)
    let s ← get
    let a := (src.headD (0, 0, 0)).2.1
    if bit v 0 then do
      let _ ← engineOnce c (fun s => ([], belCheck s c.pu a))
      endUnit c true 3 id
    else if r.len < 16 then expFail c 1 a
    else match readHeader (partBytes s c.pu src) with
      | none => expFail c 2 a
      | some hd =>
        let size := classSize hd.cls
        if r.len < size then expFail c 1 a
        else if d.len < hd.ilen then endUnit c true 1 id
        else do
          let (_, src) ← sourceSpan c r size
          let s ← get
          match expandBlock hd (partBytes s c.pu src) with
          | .error reason => expFail c reason a
          | .ok (out, tags) => do
            let (va, dst) ← targetSpan c d hd.ilen (expTag hd.kt tags)
            let held := partStores va (fun p => if p.2.2 = 8 then some (expTag hd.kt tags va p.1) else none) dst out
            endUnit c (size == r.len) 0 (fun p => { r.advance size (d.advance hd.ilen p) with unitHold := held })

def execExpb (h : Hdr) (op1 op2 : Spec) (s : State) : Host.Outcome State Fault Refusal :=
  instr h opExpb [op1, op2] (expbBody (continues h s) h op1 op2) s

/-! ### The engine serves a unit (R363) -/

/-- The slots of a cluster after the one last served, cyclically. -/
def slotOrder (last : Nat) : List Nat := (List.range 5).map (fun i => (last + 1 + i) % 5)

/-- BELLOWS_UNIT (R363): the waiting unit of the first slot after the one last served; the checks that befall it. -/
def execBellowsUnit (e : Fin 12) (vote : Vote) (belCheck muteCheck : Bool) (s : State) : Host.Outcome State Fault Refusal :=
  let ps := clusterPus e.val
  match (slotOrder (spGet 4 s.belLast e.val)).findSome? (fun k =>
      (ps[k]?).bind (fun n => if waitsFor s n.val .compress .expand then some (k, n) else none)) with
  | none => .next s
  | some (k, n) =>
    let v := b2n belCheck + 2 * b2n muteCheck
    let t := answerUnit { s with belLast := spSet 4 s.belLast e.val k } n.val v
    match (s.pu n.val).job with
    | some ⟨.compress, _, pfx, [op1, op2, op3]⟩ =>
      let h : Hdr := { pu := n, pfx := pfx, vote := vote }
      instr h opCmpb [op1, op2, op3] (cmpbBody (continues h s) h op1 op2 op3) t
    | some ⟨.expand, _, pfx, [op1, op2]⟩ =>
      let h : Hdr := { pu := n, pfx := pfx, vote := vote }
      instr h opExpb [op1, op2] (expbBody (continues h s) h op1 op2) t
    | _ => .next s

end Sys2Proof.Machine
end

