-- ==== Sys2Proof/Machine/Caches.lean ====
section
/-! DEFINITION. Caches, main memory and device accesses (R201 to R229): the merging buffer's memory entries, L2 commands,
L2 disabling, patrol scrub, device timeouts, and register writes that take effect at a tick. -/

namespace Sys2Proof.Machine

/-! ### Register writes that take effect (R59, R211, R223) -/

/-- The waiting writes of some registers that have reached their tick come into force. -/
def ripen (s : State) (names : List RegName) : State :=
  { s with pend := s.pend.filter (fun p => !(p.ticks == 0 &&
      (match regAt p.addr with | some (r, _) => names.contains r.name | none => false))) }

/-- ZONE_EFFECT (R59). -/
def execZoneEffect (s : State) : Host.Outcome State Fault Refusal := .next (ripen s [.pzorg, .pzend])

/-- DEVICE_REGION_EFFECT (R223). -/
def execDeviceRegionEffect (s : State) : Host.Outcome State Fault Refusal :=
  .next (ripen s [.pregorg, .pregend, .pdevctl])

/-- The range of a die is valid (R211). -/
def rangeValid (s : State) (d : Nat) : Bool :=
  let (v, g, b, z) := mapOf s d
  v == 1 && bit g d && decide (1 ≤ z) && decide (z ≤ 1024) && !bit b 21
    && decide (b * 2 ^ 30 + groupSize g * z * 2 ^ 30 ≤ 2 ^ 51)
    && (List.range 6).all (fun k => !bit g k ||
        (mapOf s k == mapOf s d && decide (z ≤ ccsFld s (dieReg k 0x200008) 10 0)))

/-- Two dies configure ranges that overlap. -/
def rangesMeet (s : State) (d e : Nat) : Bool :=
  let (_, g, b, z) := mapOf s d
  let (_, h, c, y) := mapOf s e
  mapOf s d != mapOf s e && decide (b < c + groupSize h * y) && decide (c < b + groupSize g * z)

/-- ACTIVE and MAPERR of every die (R211). -/
def mapEval (s : State) : State :=
  (List.range 6).foldl (fun t d =>
    let v := (mapOf s d).1 == 1
    let ok := rangeValid s d && (List.range 6).all (fun e => !(rangeValid s e && rangesMeet s d e))
    ccsSet t (dieReg d 0x200008) 63 62 (2 * b2n ok + b2n (v && !ok))) s

/-- MEMMAP_EFFECT (R211). -/
def execMemmapEffect (s : State) : Host.Outcome State Fault Refusal := .next (mapEval (ripen s [.memmap]))

/-! ### The merging buffer (R201, R202) -/

/-- The entry that may be performed next: the oldest waiting one, unless a STRICT device store before it still awaits its
agent (R201, R224). -/
def nextEntry : List MbEntry → Option MbEntry
  | [] => none
  | e :: es =>
    match e.phase with
    | .waiting => some e
    | .sent _ => if e.strict then none else nextEntry es
    | .lost _ => nextEntry es

/-- The buffer with its oldest waiting entry removed or replaced. -/
def replaceEntry (r : Option MbEntry) : List MbEntry → List MbEntry
  | [] => []
  | e :: es => if e.phase = .waiting then r.toList ++ es else e :: replaceEntry r es

/-- The first byte of a write in its word. -/
def firstByte (w : WordWrite) : Nat := ((List.range 8).find? (fun k => w.mask.getLsbD k)).getD 0

/-- The words of an entry written, by a cache (`put` is `cachePut`) or to memory; the offset of the first byte that R37 refused.
Words whose both copies are bad are performed as POISON. -/
def performWords (put : State → Nat → TWord → State) (base : Nat) (bad : BitVec 8) :
    Sparse WordWrite → State → State × Option Nat
  | [], s => (s, none)
  | (i, w) :: ws, s =>
    if bad.getLsbD i then performWords put base bad ws (put s (base + i) poisonWord)
    else match applyWrite? (memGet s (base + i)) w with
      | some v => performWords put base bad ws (put s (base + i) v)
      | none => ((performWords put base bad ws s).1, some (8 * i + firstByte w))

/-- A memory entry may be performed: the L2 holds the line in M or E or may take it, or makes a non-caching request. -/
def mayPerform (s : State) (n line : Nat) : Bool := if l2On s n then mayOwn s n line else ownAs s (n / 10) line

/-- The line of an entry in the L2, or no copy anywhere when the L2 is not enabled (R207). -/
def takeLine (s : State) (n line : Nat) : State := if l2On s n then takeOwn s n line else dropCopies s line

/-- How the words of an entry are written: by the L2, or to memory. -/
def entryPut (s : State) (n : Nat) : State → Nat → TWord → State := if l2On s n then cachePut else memPut

/-- External damage that no log entry names becomes pending (R201). -/
def damage (s : State) (n : Nat) : State :=
  let (w, s) := drawFree s
  mcPend s n .extd (w.toNat % 2 ^ 32)

/-- The oldest memory entry performed as one act (R201, R202). -/
def performMem (s : State) (n : Nat) (e : MbEntry) (bad : BitVec 8) : State :=
  if !mayPerform s n (e.line / 64) then s
  else
    let (s, refused) := performWords (entryPut s n) (e.line / 8) bad e.words (takeLine s n (e.line / 64))
    let left := refused.map (fun o => { e with phase := .lost 0x0052, vline := e.vline + o, words := [] })
    let s := s.modPu n (fun p => { p with mb := replaceEntry left p.mb }.drain)
    if e.words.any (fun w => bad.getLsbD w.1) then damage s n else s

/-! ### L2 commands (R203 to R206) -/

def l2Reg (n off : Nat) : Nat := puReg n (0x1000 + off)

def l2CmdEnd (s : State) (n status : Nat) : State :=
  let s := s.modPu n (fun p => { p with l2cmd := none })
  ccsSet (ccsSet s (l2Reg n 0x28) 63 63 0) (l2Reg n 0x28) 55 48 status

def plWays (s : State) (n : Nat) : Nat := ccsFld s (l2Reg n 8) 15 0

def popCount (w k : Nat) : Nat := ((List.range k).filter (fun i => bit w i)).length

/-- A write of L2CMD: discarded while a command runs. -/
def l2Cmd (s : State) (n cmd : Nat) : State :=
  let a := ccsFld s (l2Reg n 0x18) 50 6
  let k := ccsFld s (l2Reg n 0x20) 16 0
  if ccsFld s (l2Reg n 0x28) 63 63 = 1 then s
  else if cmd = 0 ∨ 4 < cmd then l2CmdEnd s n 2
  else if cmd = 3 then
    l2CmdEnd (ccsSet (s.modPu n (fun p => { p with l2resv := [] })) (l2Reg n 8) 31 16 0) n 1
  else if !l2On s n then l2CmdEnd s n 3
  else if cmd = 2 then
    if plWays s n = 0 ∨ 12 < popCount (plWays s n) 16 then l2CmdEnd s n 4
    else l2CmdEnd (ccsSet s (l2Reg n 8) 31 16 (plWays s n)) n 1
  else if k = 0 ∨ 65536 < k ∨ ccsFld s (l2Reg n 0x18) 51 51 = 1 ∨ 2 ^ 45 < a + k then l2CmdEnd s n 5
  else ccsSet (s.modPu n (fun p => { p with l2cmd := some (cmd, a, k) })) (l2Reg n 0x28) 63 63 1

def execPreload (pu : Fin 60) (s : State) : Host.Outcome State Fault Refusal := .next (l2Cmd s pu.val 1)

def execLock (pu : Fin 60) (s : State) : Host.Outcome State Fault Refusal := .next (l2Cmd s pu.val 2)

def execUnlock (pu : Fin 60) (s : State) : Host.Outcome State Fault Refusal := .next (l2Cmd s pu.val 3)

def execRangeinv (pu : Fin 60) (s : State) : Host.Outcome State Fault Refusal := .next (l2Cmd s pu.val 4)

/-- The way a PRELOAD fill goes to: the lowest-numbered one of PLWAYS in its set that the command has not filled (R204), unless the
set holds a reserved way, which the next fill takes (R206). -/
def preloadWay (s : State) (n line ways : Nat) (filled : List (Nat × Nat)) : Option Nat :=
  let set := l2Set line
  match (List.range 16).find? (fun w => (s.pu n).l2resv.contains (set, w)) with
  | some w => if ((s.pu n).l2Line line).isSome then (List.range 16).find? (fun w => bit ways w && !filled.contains (set, w)) else some w
  | none => (List.range 16).find? (fun w => bit ways w && !filled.contains (set, w))

/-- One line brought into a way (R204): what the way held is given up, and a copy in another way moves. -/
def preloadLine (s : State) (n line way : Nat) : State :=
  let (s, st) := match (s.pu n).l2Line line with
    | some l => (s.modPu n (fun p => { p with l2 := p.l2.filter (fun x => x.line != line) }), l.state)
    | none => shareLine s (n / 10) line
  let s := match (s.pu n).l2.find? (fun l => l.way == way && l2Set l.line == l2Set line) with
    | some v => l2Evict s n v.line
    | none => s
  trkUse (l2Place s n line way st) (n / 10) line

/-- A line that PRELOAD reads can be brought in now. -/
def mayPreload (s : State) (n line : Nat) : Bool :=
  dieHolds s (n / 10) line
    || (mayRead s n line && !lineOpen s line && !homeWaits s line && roomNow s line && (trkVictim s (n / 10) line).isSome)

/-- PRELOAD over a range (R204): the state, the lines skipped and the status; none while a line must be waited for. `filled` are the
(set, way) pairs this command has filled. -/
def preloadRun (n ways : Nat) : Nat → Nat → List (Nat × Nat) → Nat → State → Option (State × Nat × Nat)
  | 0, _, _, skip, s => some (s, skip, 1)
  | k + 1, line, filled, skip, s =>
    if !installed s (64 * line) then some (s, skip, 6)
    else match preloadWay s n line ways filled with
      | none => preloadRun n ways k (line + 1) filled (skip + 1) s
      | some w =>
        if mayPreload s n line then preloadRun n ways k (line + 1) ((l2Set line, w) :: filled) skip (preloadLine s n line w)
        else none

/-- L2_COMMAND_COMPLETE (R204, R206). -/
def execL2CommandComplete (pu : Fin 60) (s : State) : Host.Outcome State Fault Refusal :=
  let n := pu.val
  match (s.pu n).l2cmd with
  | none => .next s
  | some (cmd, a, k) =>
    if cmd = 1 then
      .next (match preloadRun n (plWays s n) k a [] 0 s with
        | none => s
        | some (t, skip, st) => ccsSet (l2CmdEnd t n st) (l2Reg n 0x28) 31 16 (min skip 0xFFFF))
    else
      let ls := ((s.pu n).l2.map (·.line)).filter (fun l => decide (a ≤ l) && decide (l < a + k))
      .next (l2CmdEnd (ls.foldl (fun s l => l2Evict s n l) s) n 1)

/-! ### Disabling the L2 (R207) -/

/-- A write of L2CTL.EN: discarded with DROP while draining or while a command runs. A drain begins with empty L1s. -/
def l2Ctl (s : State) (n en : Nat) : State :=
  let st := ccsFld s (l2Reg n 0) 63 62
  if st = 1 ∨ ccsFld s (l2Reg n 0x28) 63 63 = 1 then ccsSet s (l2Reg n 0) 61 61 1
  else
    let s := ccsSet s (l2Reg n 0) 0 0 en
    if en = 0 ∧ st = 0 then ccsSet (s.modPu n Pu.l1Clear) (l2Reg n 0) 63 62 1
    else if en = 1 ∧ st = 2 then ccsSet s (l2Reg n 0) 63 62 0
    else s

def execL2Drain (pu : Fin 60) (s : State) : Host.Outcome State Fault Refusal := .next (l2Ctl s pu.val 0)

def execL2Enable (pu : Fin 60) (s : State) : Host.Outcome State Fault Refusal := .next (l2Ctl s pu.val 1)

/-- Every line of an L2 written back and invalidated, its locks and marks cleared. -/
def l2Empty (s : State) (n : Nat) : State :=
  let s := ccsSet s (l2Reg n 8) 31 16 0
  let s := ((s.pu n).l2.map (·.line)).foldl (fun s l => l2Evict s n l) s
  s.modPu n (fun p => { p with l2resv := [] })

/-- L2_DRAIN_COMPLETE (R207). -/
def execL2DrainComplete (pu : Fin 60) (s : State) : Host.Outcome State Fault Refusal :=
  let n := pu.val
  if ccsFld s (l2Reg n 0) 63 62 = 1 then .next (ccsSet (l2Empty s n) (l2Reg n 0) 63 62 2) else .next s

/-! ### Patrol scrub (R213 to R215) -/

/-- DRAM holds other words of a line than it did: the words of `mem` too where no cache holds the line. -/
def dramBecomes (s : State) (line : Nat) (ws : List TWord) : State :=
  ((ws.take 8).zipIdx).foldl (fun s (v, i) =>
    if (dirFind s line).isNone then memPut s (8 * line + i) v
    else { s with dram := spPut s.dram (8 * line + i) (if v = memGet s (8 * line + i) then none else some v) }) s

/-- A controller reads a line of DRAM (R213 to R215): an error confined to one device is corrected, and one that the code takes for
such an error is changed into other words; both are counted as corrected and rewritten. Any other error leaves the line as POISON in
DRAM, counted and its address kept. -/
def dramRead (s : State) (line : Nat) (found : DramResult) : State :=
  let a := dieReg ((homeOf s (64 * line)).getD 0) (0x200100 + 0x100 * (line / 4 % 2))
  match found with
  | .clean => s
  | .corrected => ccsAdd s a 15 0 1
  | .miscorrected ws => dramBecomes (ccsAdd s a 15 0 1) line ws
  | .lost =>
    dramBecomes (ccsPut (ccsAdd s a 31 16 1) (a + 8) (BitVec.ofNat 64 (64 * line))) line (List.replicate 8 poisonWord)

/-- PATROL_SCRUB_READ (R213 to R215): no copy in a cache changes. -/
def execPatrolScrubRead (die : Fin 6) (mc : Fin 2) (line : BitVec 45) (found : DramResult) (s : State) :
    Host.Outcome State Fault Refusal :=
  let l := line.toNat
  if ccsFld s (dieReg die.val 0x200010) 31 0 = 0 ∨ homeOf s (64 * l) ≠ some die.val ∨ l / 4 % 2 ≠ mc.val then .next s
  else .next (dramRead s l found)

/-! ### Errors of a cache that reads a line (R208, R251) -/

def l2Err (n : Nat) : Nat := l2Reg n 0x30
def l3Err (d : Nat) : Nat := dieReg d 0x100010

/-- Bad parity in an L2's copy of a line (R208). A clean line is invalidated and refetched. Of a dirty one each failing word is
corrected from the side code, or becomes POISON; the line is written back and invalidated, then refetched. -/
def l2Parity (s : State) (n line : Nat) (words : List (Fin 8 × Bool)) : State :=
  let d := n / 10
  match (s.pu n).l2Line line with
  | none => s
  | some l =>
    if l.state = .M ∨ l.state = .O then
      let lost := words.filter (fun w => w.2)
      let s := ccsAdd (ccsAdd s (l2Err n) 47 32 (words.length - lost.length)) (l2Err n) 31 16 lost.length
      let s := lost.foldl (fun s w => memPut s (8 * line + w.1.val) poisonWord) s
      let s := dieLeft (memWritten (l2Inval s n line false) line) d line true
      if dieHolds s d line then
        let s := match dirFind s line with
          | some e => if e.st = .O ∧ e.owner = d then setDir s line (some { e with st := .S, owner := 0 }) else s
          | none => s
        l2Fill (trkPut s d line (some .S)) n line .S
      else if mayShare s n line then (let t := shareLine s d line; l2Fill t.1 n line t.2) else s
    else
      let s := l2Inval (ccsAdd s (l2Err n) 63 48 1) n line false
      l2Fill (if dieHolds s d line then s else memFalls s line) n line l.state

/-- An ECC error of an L3's copy of a line (R208, R251). Of a dirty line the failing word is written back as POISON. -/
def l3Ecc (s : State) (d line : Nat) (word : Option (Fin 8)) : State :=
  match l3Get s d line with
  | none => s
  | some m =>
    match word with
    | none => ccsAdd s (l3Err d) 63 48 1
    | some i =>
      let s := ccsAdd s (l3Err d) 47 32 1
      if m = .M ∨ m = .O then memPut (ccsAdd s (l3Err d) 31 16 1) (8 * line + i.val) poisonWord
      else if (dieStates (l3Put s d line none) d line).isEmpty then memFalls s line else s

/-- What the codes find where a cache of a die reads a line. -/
def copyRead (s : State) (d line : Nat) (e : CopyErr) : State :=
  match e with
  | .none => s
  | .l2 pu words => if pu.val / 10 = d then l2Parity s pu.val line words else s
  | .l3One => l3Ecc s d line none
  | .l3Two w => l3Ecc s d line (some w)

/-! ### Guest ports and device timeouts (R226, R229, R297) -/

def GPort.reset : GPort where
  since := 0
  trained := false
  quiet := false
  back := 0
  snpCrd := 0
  devCrd := 0
  opens := []
  devs := []
  nextTxn := 0
  rxSeq := 0
  nak := false
  txSeq := 1
  replay := []
  txWait := []
  txOff := 0
  nakDue := false
  shutDue := false
  replays := 0
  replayAt := 0
  rxBytes := []
  descs := []
  recsP := []
  recsC := []

def State.gp (s : State) (k : Nat) : GPort := spGet GPort.reset s.gports k

def State.setGp (s : State) (k : Nat) (g : GPort) : State := { s with gports := spSet GPort.reset s.gports k g }

def State.modGp (s : State) (k : Nat) (f : GPort → GPort) : State := s.setGp k (f (s.gp k))

/-- A port being quiesced reads QUIESCED once no request is open and no device access outstanding (R297). -/
def settlePort (s : State) (k : Nat) : State :=
  let g := s.gp k
  if g.quiet && ccsFld s (gpReg k 8) 63 60 == 4 && g.opens.isEmpty && g.devs.isEmpty then
    (ccsSet s (gpReg k 8) 63 60 5).modGp k (fun g => { g with quiet := false, since := shCount s })
  else s

def settlePorts (s : State) : State := (List.range 4).foldl settlePort s

def eraseFirst {α : Type} (f : α → Bool) : List α → List α
  | [] => []
  | x :: xs => if f x then xs else x :: eraseFirst f xs

/-- A device access is no longer outstanding at its agent. -/
def dropDev (s : State) (n : Nat) (write : Bool) (abs : Nat) : State :=
  let mine (d : GDev) : Bool := d.pu == n && d.write == write && d.abs == abs
  (List.range 4).foldl (fun s k =>
    if (s.gp k).devs.any mine then settlePort (s.modGp k (fun g => { g with devs := eraseFirst mine g.devs })) k else s) s

/-- The oldest device store that awaits its agent becomes a lost record, when it passes a test. -/
def loseStore (code : Nat) (pick : Nat → Bool) : List MbEntry → List MbEntry
  | [] => []
  | e :: es =>
    match e.phase with
    | .sent t => if pick t then { e with phase := .lost code } :: es else e :: loseStore code pick es
    | _ => e :: loseStore code pick es

/-- A device store whose timer has ended. -/
def MbEntry.late (e : MbEntry) : Bool :=
  match e.phase with
  | .sent t => t == 0
  | _ => false

/-- DEVICE_STORE_TIMEOUT (R226). -/
def execDeviceStoreTimeout (pu : Fin 60) (s : State) : Host.Outcome State Fault Refusal :=
  match (s.pu pu.val).mb.find? MbEntry.late with
  | none => .next s
  | some e =>
    .next (dropDev (s.modPu pu.val (fun p => { p with mb := loseStore 0x0050 (· == 0) p.mb })) pu.val true e.line)

/-- A device load is lost (R229): its instruction is nullified, and the interruption with code 0x0053 is due. -/
def loadLost (s : State) (n : Nat) : State :=
  match (s.pu n).devLoad with
  | none => s
  | some d =>
    let e : Exc := { cls := 1, code := 0x0053, fail := BitVec.ofNat 64 d.va, ia := iaOf s n, ilen := d.ilen, slot := d.slot,
                     unit := d.unit, acc := 1, param := 0 }
    s.modPu n (fun p => { p with devLoad := none, latch := [], latchPos := 0, prog := some e })

/-- DEVICE_LOAD_TIMEOUT (R229). -/
def execDeviceLoadTimeout (pu : Fin 60) (s : State) : Host.Outcome State Fault Refusal :=
  match (s.pu pu.val).devLoad with
  | some d => .next (if d.ticks = 0 then dropDev (loadLost s pu.val) pu.val false d.abs else s)
  | none => .next s

end Sys2Proof.Machine
end

