-- ==== Sys2Proof/Machine/Port.lean ====
section
/-! DEFINITION. What a guest port sends and what becomes of it when its link goes down (R281 to R284, R290, R296): records,
the replay buffer, outstanding device accesses. -/

namespace Sys2Proof.Machine

/-- The die of a guest port (R275). -/
def gpDie : Nat → Nat
  | 0 => 0
  | 1 => 2
  | 2 => 3
  | _ => 5

/-- GPSTAT.LSTATE: 0 DOWN, 1 TRAIN, 2 SPEED, 3 INIT, 4 ACTIVE, 5 QUIESCED, 6 RETRAIN, 7 FLUSHING. -/
def lstate (s : State) (k : Nat) : Nat := ccsFld s (gpReg k 8) 63 60

/-- The link enters a state (R277). -/
def setLstate (s : State) (k v : Nat) : State :=
  (ccsSet s (gpReg k 8) 63 60 v).modGp k (fun g => { g with since := shCount s })

/-- GPSTAT.CACHING. -/
def gpCaching (s : State) (k : Nat) : Bool := ccsFld s (gpReg k 8) 59 59 == 1

def gpDrop (s : State) (k : Nat) : State := ccsSet s (gpReg k 8) 58 58 1

/-! ### Records (R283) -/

/-- TAGS of a line. -/
def tagsOf (line : List TWord) : Nat := (line.take 8).foldl (fun a w => a * 16 + w.tag.toNat) 0 * 16 ^ (8 - (line.take 8).length)

def mkRec (opc txn st aux data addr len tags : Nat) : Nat :=
  opc * 2 ^ 122 + txn % 4096 * 2 ^ 110 + st * 2 ^ 106 + aux * 2 ^ 98 + data * 2 ^ 97 + addr % 2 ^ 52 * 2 ^ 44 + len * 2 ^ 37 + tags

def recOpc (r : BitVec 128) : Nat := bits r.toNat 127 122
def recTxn (r : BitVec 128) : Nat := bits r.toNat 121 110
def recSt (r : BitVec 128) : Nat := bits r.toNat 109 106
def recAux (r : BitVec 128) : Nat := bits r.toNat 105 98
def recData (r : BitVec 128) : Bool := bit r.toNat 97
def recAddr (r : BitVec 128) : Nat := bits r.toNat 95 44
def recLen (r : BitVec 128) : Nat := bits r.toNat 43 37
def recTag (r : BitVec 128) (k : Nat) : Tag := BitVec.ofNat 4 (bits r.toNat (31 - 4 * k) (28 - 4 * k))

/-- A line of memory. -/
def lineOf (s : State) (line : Nat) : List TWord := (List.range 8).map (fun i => homeWord s (8 * line + i))

/-- The words of a line written by `put`, each already with its tag. -/
def putLine (put : State → Nat → TWord → State) (s : State) (line : Nat) (ws : List TWord) : State :=
  ((ws.take 8).zipIdx).foldl (fun s (w, i) => put s (8 * line + i) w) s

/-- The tag a whole word from an agent keeps (R293): TAGMODE as written. -/
def agentTag (mode : Nat) (t : Tag) : Tag :=
  if t = tagPoison then t
  else match mode with
    | 1 => if [tagUninit, tagInt, tagBfp, tagDec, tagBytes, tagCustom].contains t then t else tagBytes
    | 2 => if t = tagRetaddr ∨ (11 ≤ t.toNat ∧ t.toNat ≤ 14) then tagBytes else t
    | _ => tagBytes

def tagMode (s : State) (k : Nat) : Nat := ccsFld s (gpReg k 0) 59 58

/-- The words of an agent's line under TAGMODE. -/
def agentLine (s : State) (k : Nat) (ws : List TWord) : List TWord := ws.map (fun w => ⟨w.data, agentTag (tagMode s k) w.tag⟩)

/-! ### Flits sent (R278 to R281) -/

/-- The stream of a message of the port: C for snoops and INIT, and for DATA that answers a snoop (R284); P for all else. -/
def streamOf (answer : Bool) (record : Nat) : Nat :=
  let opc := record / 2 ^ 122
  b2n ((decide (0x10 ≤ opc) && decide (opc ≤ 0x14)) || opc == 0x3F || (opc == 0x18 && answer))

/-- The link control of a flit (R278): SEQ, ACKSEQ, NAK, NULL, SHUT, LCMD. The port returns no credits. -/
def linkControl (g : GPort) (seq : Nat) (null : Bool) (lcmd : Nat) : Nat :=
  seq * 2 ^ 38 + g.rxSeq * 2 ^ 28 + b2n g.nakDue * 2 ^ 27 + b2n null * 2 ^ 26 + b2n g.shutDue * 2 ^ 25 + lcmd * 2 ^ 8

/-- Bytes 0 to 249 of a flit: payload, descriptors, link control, CRC (R278, R279). -/
def flitBody (payload descs : List (BitVec 8)) (control : Nat) : List (BitVec 8) :=
  let b := payload ++ descs ++ bytesBE 6 control
  b ++ bytesBE 8 (crc64 b).toNat

/-- A flit leaves the port: with the current ACKSEQ, with the NAK and the SHUT that are due, which later flits do not carry. -/
def sendFlit (s : State) (k seq : Nat) (null : Bool) (lcmd : Nat) (payload descs : List (BitVec 8)) : State :=
  let g := s.gp k
  send (s.setGp k { g with nakDue := false, shutDue := false }) .guest [k, ofBE (flitBody payload descs (linkControl g seq null lcmd))]

/-- A null flit (R278). -/
def sendNull (s : State) (k lcmd : Nat) : State :=
  sendFlit s k 0 true lcmd (List.replicate 232 0) (List.replicate 4 0)

/-- The chunks of a message, each with its descriptor (R280): a header chunk of one record, and the data chunk that belongs to it. -/
def msgChunks (stream : Nat) : List Nat → List (Nat × List (BitVec 8))
  | [] => []
  | r :: ws =>
    (0x40 + stream * 0x20, bytesBE 16 r ++ List.replicate 48 0)
      :: (if ws.isEmpty then [] else [(0x80 + stream * 0x20, (ws.map (bytesBE 8)).flatten)])

/-- The flit that carries a message behind the last bytes of an idle chunk (R280, R282): its payload, its descriptors, and how many
bytes of its last idle chunk are left for the next flit. -/
def packMsg (off : Nat) (chunks : List (Nat × List (BitVec 8))) : List (BitVec 8) × List (BitVec 8) × Nat :=
  let n := (232 - off + 63) / 64
  let all := (chunks ++ List.replicate 4 (0xC0, List.replicate 64 0)).take n
  (((List.replicate off 0 ++ (all.map (·.2)).flatten).take 232),
   ((all.map (fun c => BitVec.ofNat 8 c.1)) ++ List.replicate 4 0).take 4, off + 64 * n - 232)

/-- A sequenced flit with a message leaves and stays in the replay buffer. The message: its stream, the record, the data words. -/
def sendMsg (s : State) (k : Nat) (m : List Nat) : State :=
  let g := s.gp k
  let (payload, descs, off) := packMsg g.txOff (msgChunks (m.headD 0) (m.drop 1))
  let f : TxFlit := { seq := g.txSeq, payload := payload, descs := descs }
  sendFlit (s.setGp k { g with replay := g.replay ++ [f], txSeq := (g.txSeq + 1) % 1024, txOff := off }) k f.seq false 0 payload descs

/-- The transmit stage takes no new chunk: the replay buffer is full, or the link retrains (R281, R282). -/
def txBusy (s : State) (k : Nat) : Bool := lstate s k == 6 || decide (64 ≤ (s.gp k).replay.length)

/-- A message goes to the transmit stage: sent in one sequenced flit, or waiting. -/
def transmit (s : State) (k : Nat) (m : List Nat) : State :=
  if txBusy s k || !(s.gp k).txWait.isEmpty then s.modGp k (fun g => { g with txWait := g.txWait ++ [m] }) else sendMsg s k m

/-- The waiting messages leave as far as the replay buffer has room. -/
def drainTx (k : Nat) : Nat → State → State
  | 0, s => s
  | f + 1, s =>
    match (s.gp k).txWait with
    | [] => s
    | m :: ms => if txBusy s k then s else drainTx k f (sendMsg (s.modGp k (fun g => { g with txWait := ms })) k m)

/-- A record with its data chunk leaves for the agent, `answer` as the data of a snooped owner; a link that carries no flits takes
nothing. -/
def gsendAs (s : State) (k : Nat) (answer : Bool) (record : Nat) (line : List TWord) : State :=
  if lstate s k < 3 then s else transmit s k (streamOf answer record :: record :: line.map (fun w => w.data.toNat))

def gsend (s : State) (k : Nat) (record : Nat) (line : List TWord) : State := gsendAs s k false record line

/-- A number for a message of the port (R284): the next that none of its outstanding messages has, device accesses and snoops. -/
def portTxn (s : State) (k : Nat) : Nat × State :=
  let g := s.gp k
  let used (i : Nat) : Bool := g.devs.any (fun d => d.txn == i)
    || s.txns.any (fun t => t.snoops.any (fun x => x.node == 6 + k && x.ans.isSome && x.txn == i))
  let i := ((List.range 4096).find? (fun i => !used ((g.nextTxn + i) % 4096))).getD 0
  let n := (g.nextTxn + i) % 4096
  (n, s.setGp k { g with nextTxn := (n + 1) % 4096 })

/-! ### Going down (R296) -/

/-- The oldest store to an address that awaits its agent is accepted (`code` none) or becomes a lost record (R222, R226). -/
def endStore (abs : Nat) (code : Option Nat) : List MbEntry → List MbEntry
  | [] => []
  | e :: es =>
    match e.phase with
    | .sent _ =>
      if e.line = abs then (match code with | some c => { e with phase := .lost c } :: es | none => es)
      else e :: endStore abs code es
    | _ => e :: endStore abs code es

/-- A device access outstanding at the agent becomes lost (R226, R229). -/
def devLost (s : State) (d : GDev) : State :=
  if d.write then s.modPu d.pu (fun p => { p with mb := endStore d.abs (some 0x0051) p.mb }) else loadLost s d.pu

/-- The port absorbs the answers of requests that an agent no longer waits for. -/
def absorbReq (k : Nat) (r : HomeReq) : HomeReq := if r.who = .guest (Fin.ofNat 4 k) then { r with txn := 4096 } else r

/-- The link goes DOWN with a CAUSE; from a state of service its device accesses are lost, its admitted requests go on to their homes,
and their answers are absorbed. -/
def portDown (s : State) (k cause : Nat) : State :=
  if lstate s k = 0 then s
  else
    let g := s.gp k
    let s := if lstate s k ≤ 3 then s else g.devs.foldl devLost s
    let fresh : GPort := { GPort.reset with trained := true, nextTxn := g.nextTxn
                                            opens := (g.opens.filter (fun q => !q.gone)).map (fun q => { q with dead := true }) }
    let s := ccsSet (setLstate (s.setGp k fresh) k 0) (gpReg k 8) 55 48 cause
    { s with homeQ := s.homeQ.map (absorbReq k)
             txns := s.txns.map (fun t => { t with req := absorbReq k t.req })
             cmps := s.cmps.map (fun c => if c.who = .guest (Fin.ofNat 4 k) then { c with txn := 4096 } else c) }

end Sys2Proof.Machine
end

