-- ==== Sys2Proof/Machine/Coherence.lean ====
section
/-! DEFINITION. Coherence and directory (R230 to R251): requests at the homes in order of age, snoops and their answers,
completion, writebacks, stashing, far atomics, the home timeout and failed nodes. -/

namespace Sys2Proof.Machine

/-! ### Nodes and homes -/

/-- The node that a request is made for (R230): a guest's agent is one when it reads to hold the line. -/
def nodeOf (op : HomeOp) : Requester → Option Nat
  | .pu n => some (n.val / 10)
  | .guest k => if op = .rdnc ∨ op = .wrnc then none else some (6 + k.val)
  | .other => none

/-- The node that a request is made for has failed (R250): nothing is sent to it. -/
def reqDead (s : State) (op : HomeOp) (who : Requester) : Bool := (nodeOf op who).any (nodeFailed s)

/-- The die is fenced (R250). -/
def dieFenced (s : State) (d : Nat) : Bool := ccsFld s (dieReg d 0) 63 63 == 1

def homeNode (s : State) (line : Nat) : Nat := (homeOf s (64 * line)).getD 0

def dirStat (h : Nat) : Nat := dieReg h 0x100000
def dirErr (h : Nat) : Nat := dieReg h 0x100008

/-- DIRLOGA and DIRLOGT of a home (R249, R251). -/
def dirLog (s : State) (h kind node line : Nat) : State :=
  ccsPut (ccsPut s (dieReg h 0x100020) (BitVec.ofNat 64 (kind * 2 ^ 60 + node * 2 ^ 56 + line * 64 % 2 ^ 52)))
    (dieReg h 0x100028) (todMid s)

/-! ### Failed nodes (R250) -/

/-- A compute die is fenced: its caches are lost and its PUs checkstop. -/
def fenceDie (s : State) (d : Nat) : State :=
  let s := ccsSet s (dieReg d 0) 63 63 1
  let s := (diePus d).foldl (fun s n => checkstop (s.modPu n (fun p => { p.l1Clear with l2 := [], l2resv := [] })) n 9) s
  { s with l3 := s.l3.filter (fun e => e.1 / 2 ^ 46 != d)
           trk := s.trk.filter (fun e => e.1 / 2 ^ 46 != d) }

/-- One node marked failed on all six dies. The requests of a die that no home has taken up are gone (a guest's complete, R296),
nothing on its way to it arrives, and its transactions that await no snoop are closed; what it owned becomes POISON when a request
first reaches the line (`reached`). -/
def markFailed (s : State) (node : Nat) : State :=
  let s := (List.range 6).foldl (fun s d => ccsSet s (dirStat d) (38 + node) (38 + node) 1) s
  let its (op : HomeOp) (w : Requester) : Bool := nodeOf op w == some node
  { s with homeQ := s.homeQ.filter (fun r => !its r.op r.who || decide (6 ≤ node))
           atNode := s.atNode.filter (fun r => !its r.op r.who)
           txns := s.txns.filter (fun t => !(t.done && its t.req.op t.req.who))
           cmps := s.cmps.filter (fun c => !its c.op c.who) }

/-- A node fails: a guest's port takes its link down; a die is fenced, and with it goes the guest port on it. -/
def failNode (s : State) (node : Nat) : State :=
  if nodeFailed s node then s
  else if 6 ≤ node then portDown (markFailed s node) (node - 6) 6
  else
    let s := fenceDie (markFailed s node) node
    match (List.range 4).find? (fun k => gpDie k == node) with
    | none => s
    | some k =>
      let c := gpCaching s k && decide (lstate s k ≠ 0)
      let s := portDown s k 8
      if c && !nodeFailed s (6 + k) then markFailed s (6 + k) else s

/-! ### Taking requests up (R236 to R241) -/

/-- The snoops the home sends (R237, R241, R246). -/
def snoopsOf (s : State) (home : Nat) (op : HomeOp) (node : Option Nat) (e : DirEnt) : List (Nat × SnoopKind) :=
  let owned := e.st != .S
  let rest := (vecNodes s e).filter (fun k => !(owned && k == e.owner))
  let others := (vecNodes s e).filter (fun k => node != some k)
  let kill (own : SnoopKind) (ls : List Nat) := (if owned then [(e.owner, own)] else []) ++ ls.map (fun k => (k, .snpi))
  match op with
  | .rds => if owned then [(e.owner, .snps)] else []
  | .rdx => kill .snpx (if owned then rest else others)
  | .upg => others.map (fun k => (k, .snpi))
  | .rdnc => if owned then [(e.owner, .snpn)] else []
  | .wrnc => kill .snpr rest
  | .atom => if e.st == .X && e.owner == home then [] else kill .snpr rest
  | .evict => (vecNodes s e).map (fun k => (k, .snpr))
  | .recover => []

/-- The request is answered with DATA. -/
def HomeOp.wantsData : HomeOp → Bool
  | .rds => true
  | .rdx => true
  | .rdnc => true
  | _ => false

/-- Opens a transaction; a failed node is sent no snoop (R250). -/
def openTxn (s : State) (r : HomeReq) (snoops : List (Nat × SnoopKind)) : State :=
  let e := dirFind s r.line
  let src := match e with | some e => if r.op.wantsData && e.st != .S then some e.owner else none | none => none
  let t : Txn :=
    { req := r
      snoops := (snoops.filter (fun x => !nodeFailed s x.1)).map (fun x => { node := x.1, kind := x.2, ticks := 0, ans := none, txn := 0 })
      src := src, dirty := false, held := false
      grant := match r.op with
        | .rds => if e.isNone then .E else .S
        | .rdx => .M
        | .upg => .M
        | _ => .I
      alone := true, got := !r.op.wantsData, done := false }
  { s with txns := s.txns ++ [t] }

/-- A transaction of the home's own: an eviction (R241) or a recovery (R251). -/
def ownReq (op : HomeOp) (line part : Nat) : HomeReq :=
  { op := op, who := .other, line := line, wr := [], stash := none, part := part, txn := 4096
    found := { dir := .clean, dram := .clean }, cycle := 0, port := 0 }

/-- What the home reads to serve a request: of a line that no node owns, or whose owner has failed, the line in DRAM (R213, R237,
R250). -/
def homeReads (s : State) (r : HomeReq) : State :=
  if ownerLost s r.line then reached s r.line
  else if (ownerOf s r.line).isSome ∨ r.op = .upg then s
  else reached (dramRead s r.line r.found.dram) r.line

/-- The home takes a request up: the directory entry's ECC first (R251), then the table of R237. -/
def takeUp (s : State) (r : HomeReq) : State :=
  let h := homeNode s r.line
  let s := { s with homeQ := s.homeQ.erase r }
  let isUpg (e : Option DirEnt) : Bool := match e, nodeOf r.op r.who with | some e, some k => bit e.vec k | _, _ => false
  let go (s : State) : State :=
    let s := homeReads s (if r.op = .upg && !isUpg (dirFind s r.line) then { r with op := .rdx } else r)
    let e := dirFind s r.line
    let r := if r.op = .upg && !isUpg e then { r with op := .rdx } else r
    openTxn s r (match e with | some e => snoopsOf s h r.op (nodeOf r.op r.who) e | none => [])
  if (dirFind s r.line).isNone then go s
  else match r.found.dir with
    | .clean => go s
    | .corrected => go (ccsAdd s (dirErr h) 63 48 1)
    | .lost =>
      let s := dirLog (ccsAdd s (dirErr h) 47 32 1) h 3 0 r.line
      let nodes := (List.range 10).filter (fun k => ccsFld s (dirStat h) (22 + k) (22 + k) == 1)
      openTxn { s with homeQ := { r with found := { r.found with dir := .clean } } :: s.homeQ } (ownReq .recover r.line 0)
        (nodes.map (fun k => (k, .snpr)))

/-- The oldest waiting request that may be acted on: its line is not open, and no older request waits for the same line or
the same set (R240). -/
def firstReady (s : State) : List HomeReq → List HomeReq → Option (HomeReq × Room)
  | _, [] => none
  | older, r :: rs =>
    if !lineOpen s r.line && !older.any (fun o => o.line == r.line || sameSet s o.line r.line) && roomFor s r.line != .wait
    then some (r, roomFor s r.line)
    else firstReady s (older ++ [r]) rs

/-! ### Completion (R236, R237, R246 to R248) -/

def closeTxn (s : State) (line : Nat) : State := { s with txns := s.txns.filter (fun t => t.req.line != line) }

/-- The stash target is eligible (R247). -/
def stashOk (s : State) (part : Nat) : Stash → Bool
  | .l2 pu => puPart s pu.val == part && (puState s pu.val == 1 || puState s pu.val == 2) && l2On s pu.val
  | .l3 d => !nodeFailed s d.val

/-- The line goes to the stash target in E, after the write; a hint that is not honoured and a target without a place are
counted, and the home state stays I (R247, R248). -/
def stashLine (s : State) (h line part : Nat) : Option Stash → State
  | none => s
  | some t =>
    let dropped := ccsAdd s (dirErr h) 15 0 1
    if !stashOk s part t then dropped
    else
      let own (s : State) (d : Nat) :=
        setDir (trkPut (trkRoom s d line) d line (some .E)) line (some { st := .X, owner := d, vec := 2 ^ d, used := 0 })
      match t with
      | .l2 pu =>
        if (fillWay s pu.val line).isNone || (trkVictim s (pu.val / 10) line).isNone then dropped
        else l2Fill (own s (pu.val / 10)) pu.val line .E
      | .l3 d => if (trkVictim s d.val line).isNone then dropped else l3Add (own s d.val) d.val line .E

/-- The home performs a far atomic: the line rests in M in its L3, and the answer goes with CMP (R246). -/
def homeAtomic (s : State) (h line n : Nat) : State × List TWord :=
  match (s.pu n).atomReq with
  | none => (s, [])
  | some r =>
    let ans := atomAnswer (atomApply r (memGet s (r.abs / 8)))
    let s := (atomStore s r).modPu n (fun p => { p with atomReq := some { r with done := true } })
    let s := (diePus h).foldl (fun s m => l2Inval s m line true) s
    let s := trkPut (l3Add (trkRoom s h line) h line .M) h line (some .M)
    (setDir s line (some { st := .X, owner := h, vec := 2 ^ h, used := 0 }), ans)

/-- The directory entry after an RDS (R237). -/
def sharedEntry (t : Txn) (node : Nat) (e : Option DirEnt) : DirEnt :=
  if t.grant = .E then { st := .X, owner := node, vec := 2 ^ node, used := 0 }
  else
    let e := e.getD { st := .S, owner := 0, vec := 0, used := 0 }
    let v := if e.st != .S && !t.held then setBits e.vec e.owner e.owner 0 else e.vec
    let o := t.dirty && e.st != .S
    { e with st := if o then .O else .S, owner := if o then e.owner else 0, vec := setBits v node node 1 }

/-- The bytes of a WRNC as writes of its words. -/
def wrWrites (ws : List WordMask) : Sparse WordWrite :=
  ((ws.take 8).zipIdx.filter (fun p => p.1.mask != 0)).map (fun p =>
    (p.2, ⟨p.1.mask, p.1.word.data, if p.1.mask = 0xFF then some p.1.word.tag else none⟩))

/-- Every snoop has its ACK: the table's new state, and CMP on its way. -/
def complete (s : State) (t : Txn) : State :=
  let r := t.req
  let h := homeNode s r.line
  let e := dirFind s r.line
  let node := nodeOf r.op r.who
  let lost := reqDead s r.op r.who
  let (s, ans, refused) : State × List TWord × Bool :=
    match r.op with
    | .rds => match node with
      | some k => (setDir s r.line (some (sharedEntry t k e)), [], false)
      | none => (s, [], false)
    | .rdnc => (s, [], false)
    | .wrnc =>
      let (s, refused) := performWords memPut (8 * r.line) 0 (wrWrites r.wr) s
      (stashLine (setDir (memWritten s r.line) r.line none) h r.line r.part r.stash, [], refused.isSome)
    | .atom => match r.who with
      | .pu n => let (s, ans) := homeAtomic s h r.line n.val; (s, ans, false)
      | _ => (s, [], false)
    | .evict => (dirFree s r.line, [], false)
    | .recover => (dirFree s r.line, [], false)
    | _ => match node with
      | some k => (setDir s r.line (some { st := .X, owner := k, vec := 2 ^ k, used := 0 }), [], false)
      | none => (s, [], false)
  if r.op = .evict ∨ r.op = .recover ∨ lost then closeTxn s r.line
  else
    let c : Cmp := { op := r.op, who := r.who, line := r.line, txn := r.txn, grant := t.grant, needs := !t.got, ans := ans,
                     alone := t.alone, refused := refused, part := r.part }
    let s := { s with cmps := s.cmps ++ [c] }
    if r.op = .rdnc ∨ r.op = .wrnc then closeTxn s r.line
    else { s with txns := s.txns.map (fun u => if u.req.line = r.line then { u with done := true } else u) }

/-- The homes act until nothing more can be done without an answer. -/
def runHomes : Nat → State → State
  | 0, s => s
  | f + 1, s =>
    match s.txns.find? (fun t => t.snoops.isEmpty && !t.done) with
    | some t => runHomes f (complete s t)
    | none =>
      match firstReady s [] s.homeQ with
      | none => s
      | some (r, .evict v) =>
        let s := if ownerLost s v then reached s v else s
        match dirFind s v with
        | some e => runHomes f (openTxn s (ownReq .evict v r.part) (snoopsOf s 0 .evict none e))
        | none => runHomes f s
      | some (r, _) => runHomes f (takeUp s r)

/-! ### Requests arrive (R239, R242) -/

/-- The fabric cycle, counted from power-up (R19, R254). -/
def cycleNow (s : State) : Nat := (ccsGet s 0x50000).toNat

/-- The port of a home through which a requester's requests come (R239): the link from a die, the home's own mesh, the link from the
I/O die, or the home die's guest port. -/
def portOf (h : Nat) : Requester → Nat
  | .pu n => n.val / 10
  | .guest k => if gpDie k.val = h then 7 else gpDie k.val
  | .other => 6

/-- A request takes its place behind those that arrived before it, and in its cycle behind those of lower ports (R239). -/
def insertReq (r : HomeReq) : List HomeReq → List HomeReq
  | [] => [r]
  | q :: qs => if q.cycle = r.cycle ∧ r.port < q.port then r :: q :: qs else q :: insertReq r qs

/-- A request reaches its home with a credit. -/
def queueAt (s : State) (h : Nat) (r : HomeReq) : State :=
  { s with homeQ := insertReq { r with cycle := cycleNow s, port := portOf h r.who } s.homeQ }

/-- A request that waits at its node has a credit now. -/
def credited (s : State) (r : HomeReq) : Bool :=
  match homeOf s (64 * r.line) with | some h => creditLeft s h (creditHolder r.who) | none => false

/-- Requests that wait at their nodes leave as credits return, oldest first (R242). -/
def feedHomes : Nat → State → State
  | 0, s => s
  | f + 1, s =>
    match s.atNode.find? (credited s) with
    | some r => feedHomes f (queueAt { s with atNode := s.atNode.erase r } (homeNode s r.line) r)
    | none => s

/-- The homes act, and what they finish lets waiting requests come. -/
def homesGo (s : State) : State :=
  let go (s : State) := runHomes (8 * s.homeQ.length + 2 * s.txns.length + 8) s
  let s := go s
  if s.atNode.any (credited s) then go (feedHomes s.atNode.length s) else s

/-- A request for a home: without a credit it waits at its own node. -/
def arrive (s : State) (r : HomeReq) : State :=
  match homeOf s (64 * r.line) with
  | none => s
  | some h =>
    if !creditLeft s h (creditHolder r.who) then { s with atNode := s.atNode ++ [r] }
    else
      let s := queueAt s h r
      let n := (homeLoad s h).length
      homesGo (if ccsFld s (dirStat h) 12 0 < n then ccsSet s (dirStat h) 12 0 (min n 4096) else s)

/-- The requester waits for an answer about the line already. -/
def asked (s : State) (w : Requester) (line : Nat) : Bool :=
  let mine (r : HomeReq) : Bool := r.who == w && r.line == line
  s.atNode.any mine || s.homeQ.any mine || s.txns.any (fun t => mine t.req)
    || s.cmps.any (fun c => c.who == w && c.line == line)

/-- A request of the module; a guest's own arrives by GUEST_REQUEST_DISPATCH. -/
def ask (s : State) (op : HomeOp) (who : Requester) (line : Nat) (found : Found) (wr : List WordMask) (stash : Option Stash)
    (part : Nat) (ok : Bool) : State :=
  let live := match who with
    | .pu n => !dieFenced s (n.val / 10) && !asked s who line && decide (missRegs s n.val < 48)
    | .guest _ => false
    | .other => true
  if live && ok then
    arrive s { op := op, who := who, line := line, wr := wr, stash := stash, part := part, txn := 0, found := found, cycle := 0
               port := 0 }
  else s

/-- The partition that a requester's request is charged to (R261). -/
def chargedTo (s : State) : Requester → Nat
  | .pu n => pswPart (s.pu n.val).psw
  | _ => 0

/-- The state a requester's L2 holds the line in; none for no L2. -/
def l2StateOf (s : State) (who : Requester) (line : Nat) : Option Moesi :=
  match who with
  | .pu n => if l2On s n.val then some ((((s.pu n.val).l2Line line).map (·.state)).getD .I) else none
  | _ => none

/-- An L2 reads a line its die holds (R208, R233): what the codes find, then a copy from the die's caches. -/
def localRead (s : State) (n line : Nat) (err : CopyErr) : State :=
  fillLine n (copyRead s (n / 10) line err) (false, line)

/-- RDS (R233, R237): an L2 read miss; of a line the die does not hold, a request to the home. -/
def execRds (who : Requester) (line : BitVec 45) (met : Met) (s : State) : Host.Outcome State Fault Refusal :=
  let l := line.toNat
  .next (if (l2StateOf s who l).isNone then s
    else match who with
      | .pu n =>
        if dieFenced s (n.val / 10) then s
        else if dieHolds s (n.val / 10) l then localRead s n.val l met.err
        else ask s .rds who l met.found [] none (chargedTo s who) true
      | _ => s)

/-- RDX (R233, R237): an L2 write to a line it does not hold. -/
def execRdx (who : Requester) (line : BitVec 45) (found : Found) (s : State) : Host.Outcome State Fault Refusal :=
  .next (ask s .rdx who line.toNat found [] none (chargedTo s who) (l2StateOf s who line.toNat == some .I))

/-- UPG (R237): an L2 write to a line it holds in S or O. -/
def execUpg (who : Requester) (line : ReqLine) (s : State) : Host.Outcome State Fault Refusal :=
  let st := l2StateOf s who line.line.toNat
  .next (ask s .upg who line.line.toNat line.found [] none (chargedTo s who) (st == some .S || st == some .O))

/-- RDNC (R237). -/
def execRdnc (who : Requester) (line : ReqLine) (s : State) : Host.Outcome State Fault Refusal :=
  .next (ask s .rdnc who line.line.toNat line.found [] none (chargedTo s who) true)

/-- WRNC (R237, R247). -/
def execWrnc (who : Requester) (line : ReqLine) (wr : List WordMask) (stash : Option Stash) (part : Fin 32) (s : State) :
    Host.Outcome State Fault Refusal :=
  .next (ask s .wrnc who line.line.toNat line.found wr stash part.val true)

/-- ATOM (R245, R246): the far atomic a PU has outstanding reaches its home, whose L3 may find an error in the line (R251). -/
def execAtom (a : FarAtom) (s : State) : Host.Outcome State Fault Refusal :=
  let pu := a.pu
  match (s.pu pu.val).atomReq with
  | some r =>
    let l := r.abs / 64
    let s := if r.done then s else copyRead s (homeNode s l) l a.met.err
    .next (ask s .atom (.pu pu) l a.met.found [] none (chargedTo s (.pu pu)) (!r.done))
  | none => .next s

/-! ### Snoops and their answers (R235, R237, R238, R263) -/

def txnOf (s : State) (line : Nat) : Option Txn := s.txns.find? (fun t => t.req.line == line)

def setTxn (s : State) (t : Txn) : State :=
  { s with txns := s.txns.map (fun u => if u.req.line = t.req.line then t else u) }

/-- The lines whose snoops from a home to a node have left: the oldest four unanswered (R263). -/
def leftTo (s : State) (h node : Nat) : List Nat :=
  ((s.txns.filter (fun t => homeNode s t.req.line == h && t.snoops.any (fun x => x.node == node))).map (·.req.line)).take 4

def hasLeft (s : State) (node line : Nat) : Bool := (leftTo s (homeNode s line) node).contains line

def setSnoop (t : Txn) (x : Snoop) : Txn :=
  { t with snoops := t.snoops.map (fun y => if y.node = x.node then x else y) }

/-- The OPC of a snoop record (R284). -/
def SnoopKind.opc : SnoopKind → Nat
  | .snps => 0x10
  | .snpx => 0x11
  | .snpn => 0x12
  | .snpi => 0x13
  | .snpr => 0x14

/-- The snoop that reaches a node next from a home: the first that has left and not arrived (R235). -/
def nextSnoop (s : State) (h node : Nat) : Option Nat :=
  (leftTo s h node).find? (fun l => (txnOf s l).any (fun t => t.snoops.any (fun x => x.node == node && x.ans.isNone)))

/-- The ACK of a die that reaches a home next: dies answer in the order of the snoops (R235). -/
def nextAck (s : State) (h node : Nat) : Option Nat :=
  (leftTo s h node).find? (fun l => (txnOf s l).any (fun t => t.snoops.any (fun x => x.node == node && x.ans.isSome)))

/-- A snoop reaches its node: a die reads and acts at once on the caches its tracker names, and a dirty line an SNPR makes it send is
in memory; a guest's port passes the snoop on while it holds a credit of the agent (R286). -/
def snoop (k : SnoopKind) (node : Nat) (line : Nat) (err : CopyErr) (s : State) : State :=
  match txnOf s line with
  | none => s
  | some t =>
    match t.snoops.find? (fun x => x.node == node && x.kind == k && x.ans.isNone) with
    | none => s
    | some x =>
      if nextSnoop s (homeNode s line) node ≠ some line ∨ nodeFailed s node = true then s
      else if 6 ≤ node then
        if (s.gp (node - 6)).snpCrd = 0 then s else
        let (n, s) := portTxn s (node - 6)
        let s := s.modGp (node - 6) (fun g => { g with snpCrd := g.snpCrd - 1 })
        setTxn (gsend s (node - 6) (mkRec k.opc n 0 0 0 (64 * line) 64 0) []) (setSnoop t { x with ans := some (true, false), txn := n })
      else
        let s := copyRead s node line err
        let a := (dieHolds s node line, dieDirty s node line)
        let s := match k with
          | .snps => dieShare s node line
          | .snpn => s
          | .snpr => if a.2 then memWritten (dieInval s node line true) line else dieInval s node line true
          | _ => dieInval s node line true
        setTxn s (setSnoop t { x with ans := some a })

def execSnps (node : Fin 10) (line : HeldLine) (s : State) : Host.Outcome State Fault Refusal :=
  .next (snoop .snps node.val line.line.toNat line.err s)

def execSnpx (node : Fin 10) (line : HeldLine) (s : State) : Host.Outcome State Fault Refusal :=
  .next (snoop .snpx node.val line.line.toNat line.err s)

def execSnpn (node : Fin 10) (line : HeldLine) (s : State) : Host.Outcome State Fault Refusal :=
  .next (snoop .snpn node.val line.line.toNat line.err s)

def execSnpi (node : Fin 10) (line : BitVec 45) (s : State) : Host.Outcome State Fault Refusal :=
  .next (snoop .snpi node.val line.toNat .none s)

def execSnpr (node : Fin 10) (line : HeldLine) (s : State) : Host.Outcome State Fault Refusal :=
  .next (snoop .snpr node.val line.line.toNat line.err s)

/-- The answer of a node leaves its transaction: HELD and DIRTY. -/
def answered (s : State) (t : Txn) (x : Snoop) (held dirty : Bool) : State :=
  let main := x.kind != .snpi
  homesGo (setTxn s
    { t with snoops := t.snoops.filter (fun y => y.node != x.node)
             src := if main && !held then none else t.src
             held := t.held || (main && held), dirty := t.dirty || (main && dirty)
             alone := t.alone && !(held && x.node != homeNode s t.req.line) })

/-- ACK (R235, R237, R238): a die's answer is what it found; a guest's answer, and the dirty line an SNPR made it send to
the home, come from its agent. Nothing is accepted after the fabric cycle of the fourth tick (R249). -/
def ackIn (s : State) (node line : Nat) (held dirty : Bool) (data : List TWord) : State :=
  match txnOf s line with
  | none => s
  | some t =>
    match t.snoops.find? (fun x => x.node == node) with
    | none => s
    | some x =>
      match x.ans with
      | none => s
      | some (h, d) =>
        if 4 < x.ticks ∨ (x.ticks = 4 ∧ cycleNow s % 2048 ≠ 0) ∨ nodeFailed s node = true then s
        else if 6 ≤ node then
          let s := if x.kind = .snpr ∧ dirty then memWritten (putLine memPut s line (agentLine s (node - 6) data)) line else s
          answered s t x held dirty
        else if nextAck s (homeNode s line) node = some line then answered s t x h d
        else s

def execAck (node : Fin 10) (line : BitVec 45) (held dirty : Bool) (data : List TWord) (s : State) :
    Host.Outcome State Fault Refusal := .next (ackIn s node.val line.toNat held dirty data)

/-- WB (R237, R238): only the owner's data is written; a transaction that awaited the owner is served from it. -/
def wbIn (s : State) (node line : Nat) (data : List TWord) (err : CopyErr) : State :=
  if nodeFailed s node then s
  else if node < 6 then
    let s := copyRead s node line err
    if dieDirty s node line then dieDrop s node line else s
  else if ownerOf s line ≠ some node ∨ ownerLost s line = true then s
  else
    let s := nodeGone (putLine memPut s line (agentLine s (node - 6) data)) node line true
    match txnOf s line with
    | some t => if t.src = some node then setTxn s { t with src := none } else s
    | none => s

def execWb (node : Fin 10) (line : HeldLine) (data : List TWord) (s : State) : Host.Outcome State Fault Refusal :=
  .next (wbIn s node.val line.line.toNat data line.err)

/-- EVC (R237): a die that held X clean gives the line up; a guest's agent that did, or any other node, leaves the entry. -/
def evcIn (s : State) (node line : Nat) : State :=
  if nodeFailed s node then s
  else if node < 6 then
    if ownerOf s line = some node ∧ dieHolds s node line = true ∧ dieDirty s node line = false then dieDrop s node line else s
  else match dirFind s line with
    | none => s
    | some e =>
      if e.dead s then s
      else if e.st = .X ∧ e.owner = node then dirFree s line
      else
        let v := setBits e.vec node node 0
        setDir s line (if v = 0 then none else some { e with vec := v })

def execEvc (node : Fin 10) (line : BitVec 45) (s : State) : Host.Outcome State Fault Refusal :=
  .next (evcIn s node.val line.toNat)

/-! ### The requester's side (R236) -/

/-- Closes a transaction whose CMP its requester has received; a request that the port itself has answered is over (R288). -/
def cmpackIn (s : State) (who : Requester) (line : Nat) : State :=
  match s.txns.find? (fun t => t.req.who == who && t.req.line == line && t.done) with
  | none => match who with
    | .guest k => s.modGp k.val (fun g => { g with opens := g.opens.filter (fun q => !(q.answered && recAddr q.record / 64 == line)) })
    | _ => s
  | some t =>
    if s.cmps.any (fun c => c.who == who && c.line == line) then s
    else
      let s := match who with
        | .guest k => s.modGp k.val (fun g => { g with opens := g.opens.filter (fun q => q.dead || recTxn q.record != t.req.txn) })
        | _ => s
      homesGo (closeTxn s line)

/-- CMPACK (R236). -/
def execCmpack (who : Requester) (line : BitVec 45) (s : State) : Host.Outcome State Fault Refusal :=
  .next (settlePorts (cmpackIn s who line.toNat))

/-- The number a granted state has in DATA and CMP (R284). -/
def Moesi.granted : Moesi → Nat
  | .S => 1
  | .E => 2
  | .M => 3
  | _ => 0

/-- The address and length a response to an agent's request echoes (R283). -/
def echoOf (s : State) (k txn line : Nat) : Nat × Nat :=
  match (s.gp k).opens.find? (fun q => !q.dead && recTxn q.record == txn) with
  | some q => (recAddr q.record, recLen q.record)
  | none => (64 * line, 64)

/-- DATA reaches a requester: an L2 that reads for sharing holds the line from now on; a guest's port passes it on. -/
def dataTo (s : State) (who : Requester) (op : HomeOp) (line txn : Nat) (grant : Moesi) (answer : Bool) : State :=
  match who with
  | .pu n =>
    let d := n.val / 10
    if op = .rds ∧ l2On s n.val then
      dieLeft (l2Fill (trkPut (trkRoom s d line) d line (some grant)) n.val line grant) d line false
    else s
  | .guest k =>
    if txn = 4096 then s
    else
      let (a, l) := echoOf s k.val txn line
      gsendAs s k.val answer (mkRec 0x18 txn grant.granted 0 1 a l (tagsOf (lineOf s line))) (lineOf s line)
  | .other => s

/-- DATA (R236): the line from memory as the module holds it, or as a guest that owned it sends it. -/
def dataIn (s : State) (who : Requester) (line : Nat) (data : List TWord) : State :=
  match s.txns.find? (fun t => t.req.who == who && t.req.line == line && !t.got && !reqDead s t.req.op who) with
  | some t =>
    let ready := match t.src with
      | some k => match t.snoops.find? (fun x => x.node == k) with | some x => x.ans.isSome | none => true
      | none => true
    if !ready then s
    else
      let s := match t.src with
        | some k => if 6 ≤ k then putLine cachePut s line (agentLine s (k - 6) data) else s
        | none => s
      let s := setTxn s { t with got := true }
      let s := { s with cmps := s.cmps.map (fun c => if c.who = who ∧ c.line = line then { c with needs := false } else c) }
      dataTo s who t.req.op line t.req.txn t.grant t.src.isSome
  | none =>
    match s.cmps.find? (fun c => c.who == who && c.line == line && c.needs) with
    | none => s
    | some c =>
      dataTo { s with cmps := s.cmps.map (fun x => if x = c then { x with needs := false } else x) } who c.op line c.txn c.grant false

def execData (who : Requester) (line : BitVec 45) (data : List TWord) (s : State) : Host.Outcome State Fault Refusal :=
  .next (dataIn s who line.toNat data)

/-- CMP reaches a requester: an L2 holds the line in M alone in its die, a far atomic is answered, an agent is told. -/
def cmpTo (s : State) (c : Cmp) : State :=
  match c.who with
  | .pu n =>
    let d := n.val / 10
    match c.op with
    | .atom =>
      s.modPu n.val (fun p =>
        { (if c.alone then predDown p c.line else p) with
          atomReq := none
          latch := p.latch.map (fun l => if l.kind = .farAtomic ∧ l.resp = none then { l with resp := some c.ans } else l) })
    | .rds => s
    | .rdnc => s
    | .wrnc => s
    | _ =>
      let s := (diePus d).foldl (fun s m => if m = n.val then s else l2Inval s m c.line true) (l3Put s d c.line none)
      if l2On s n.val then l2Fill (trkPut (trkRoom s d c.line) d c.line (some .M)) n.val c.line .M else s
  | .guest k =>
    if c.txn = 4096 then cmpackIn s c.who c.line
    else
      let (a, l) := echoOf s k.val c.txn c.line
      let s := gsend s k.val (mkRec 0x19 c.txn c.grant.granted (b2n c.refused) 0 a l 0) []
      if c.op = .rdnc ∨ c.op = .wrnc then
        s.modGp k.val (fun g => { g with opens := g.opens.filter (fun q => q.dead || recTxn q.record != c.txn) })
      else s
  | .other => s

/-- CMP_RESPONSE (R236): DATA comes first where the request asks for it. -/
def cmpIn (s : State) (who : Requester) (line : Nat) : State :=
  match s.cmps.find? (fun c => c.who == who && c.line == line) with
  | none => s
  | some c => if c.needs then s else settlePorts (cmpTo { s with cmps := s.cmps.erase c } c)

/-! ### The home timeout (R249) -/

/-- HOME_SNOOP_TIMEOUT (R249): a snoop that has left and found no answer by the fourth tick. -/
def execHomeSnoopTimeout (node : Fin 10) (line : BitVec 45) (s : State) : Host.Outcome State Fault Refusal :=
  let l := line.toNat
  match txnOf s l with
  | none => .next s
  | some t =>
    match t.snoops.find? (fun x => x.node == node.val && decide (4 ≤ x.ticks)) with
    | none => .next s
    | some x =>
      let h := homeNode s l
      let owner := x.kind != .snpi && ownerOf s l == some node.val
      let s := dirLog (ccsAdd s (dirErr h) 31 16 1) h (if owner then 1 else 2) node.val l
      let s := failNode s node.val
      let s := if owner then reached s l else s
      match txnOf s l with
      | some t => .next (answered s t x false false)
      | none => .next (homesGo s)

end Sys2Proof.Machine
end

