-- ==== Sys2Proof/Machine/Parcel.lean ====
section
/-! DEFINITION. Parcels (R40, R41) and the parity of stored microwords (R160): the form in which the complex holds words, and what a
unit that reads one checks. -/

namespace Sys2Proof.Machine

/-- The number of ones in a number of k bits. -/
def ones (x k : Nat) : Nat := ((List.range k).filter (fun i => bit x i)).length

/-- The parity bit that makes the number of ones even. -/
def evenBit (x k : Nat) : Nat := ones x k % 2

/-- Data and tag bit of parcel k of a word: bits 16:0 of the parcel (R40). -/
def parcelBody (w : TWord) (k : Nat) : Nat :=
  bits w.data.toNat (16 * k + 15) (16 * k) + b2n (bit w.tag.toNat k) * 2 ^ 16

/-- Parcel k of a word: data bits 16k+15 to 16k, tag bit k in bit 16, even parity in bit 17 (R40). -/
def parcel (w : TWord) (k : Nat) : BitVec 18 := BitVec.ofNat 18 (parcelBody w k + evenBit (parcelBody w k) 17 * 2 ^ 17)

/-- A stored word: parcels 3, 2, 1 and 0 from the most significant end (R40). -/
def stored (w : TWord) : BitVec 72 := parcel w 3 ++ parcel w 2 ++ parcel w 1 ++ parcel w 0

/-- Parcel k of a stored word. -/
def storedParcel (x : BitVec 72) (k : Nat) : Nat := bits x.toNat (18 * k + 17) (18 * k)

/-- The parity of a parcel is even (R41). -/
def parcelOk (p : Nat) : Bool := ones p 18 % 2 == 0

/-- What a unit reads from a stored word: none where the parity of a parcel is odd (R41). -/
def readStored (x : BitVec 72) : Option TWord :=
  if (List.range 4).all (fun k => parcelOk (storedParcel x k)) then
    some ⟨BitVec.ofNat 64 (((List.range 4).map (fun k => bits (storedParcel x k) 15 0 * 2 ^ (16 * k))).foldl (· + ·) 0),
          BitVec.ofNat 4 (((List.range 4).map (fun k => bits (storedParcel x k) 16 16 * 2 ^ k)).foldl (· + ·) 0)⟩
  else none

/-- What a unit reads from SRAM of the I/O die, which holds each word twice (R41). -/
def readMirrored (x y : BitVec 72) : Option TWord := (readStored x).or (readStored y)

/-- A stored microword (R160): its 40 bits, and above them two even-parity bits, bit 41 over bits 39:20 and bit 40 over bits 19:0. -/
def storedMicro (w : Nat) : Nat := w % 2 ^ 40 + evenBit (bits w 39 20) 20 * 2 ^ 41 + evenBit (bits w 19 0) 20 * 2 ^ 40

/-- A core's fetch of a stored microword: none at a parity error (R160). -/
def fetchMicro (x : Nat) : Option Nat :=
  if evenBit (bits x 39 20) 20 = bits x 41 41 ∧ evenBit (bits x 19 0) 20 = bits x 40 40 then some (x % 2 ^ 40) else none

end Sys2Proof.Machine
end

