-- ==== Sys2Proof/Machine/Fabric.lean ====
section
/-! DEFINITION. The fabric's slots (R253 to R273): the flits of messages and their sending queues, slot tables and their commits,
arbitration of one slot, make-good claims, the best-effort pointer, and the counts of a shutter. -/

namespace Sys2Proof.Machine

def FabLink.reset : FabLink where
  queue := []
  source := []
  next := 0
  claims := []
  ptr := 0
  ctl := 0
  guar := 0
  be := 0
  disp := 0
  won := none
  commit := none

/-! ### Links (R253, R255) -/

/-- The dies with a guest port. -/
def hasGuestPort (d : Nat) : Bool := d == 0 || d == 2 || d == 3 || d == 5

/-- The links of a node and their directions that have a table (R255). -/
def linkExists (node l r : Nat) : Bool :=
  if node = 6 then (decide (l < 3)) || (decide (0x10 ≤ l) && decide (l < 0x16) && r == 0)
  else
    decide (l < 0x0F) || (l == 0x0F && hasGuestPort node)
      || (decide (0x10 ≤ l) && decide (l < 0x16) && l != 0x10 + node && r == 0) || (l == 0x16 && r == 0)
      || (l == 0x18 && hasGuestPort node)

/-- Slots per shutter (R253). -/
def linkSlots (l : Nat) : Nat := if l < 0x10 then 2048 else if l = 0x18 then 1792 else 4096

def fabBase (node : Nat) : Nat := if node = 6 then 0x0200300000 else dieReg node 0x300000

def slotCmt (node l r : Nat) : Nat := fabBase node + 0x100 + 0x10 * l + 8 * r

def lnkUse (node l r : Nat) : Nat := fabBase node + 0x400 + 0x10 * l + 8 * r

/-- The entry of a slot in a bank (R257). -/
def slotEntry (s : State) (node l r b j : Nat) : Nat :=
  let k := j % 8
  ccsFld s (fabBase node + 0x10000 + 0x4000 * l + 0x2000 * r + 0x1000 * b + 8 * (j / 8)) (8 * k + 7) (8 * k)

def activeBank (s : State) (node l r : Nat) : Nat := ccsFld s (slotCmt node l r) 63 63

def fabKey (node l r : Nat) : Nat := 64 * node + 2 * l + r

def State.fabLink (s : State) (key : Nat) : FabLink := spGet FabLink.reset s.fab key

def State.setFab (s : State) (key : Nat) (f : FabLink) : State := { s with fab := spSet FabLink.reset s.fab key f }

/-! ### Flits (R254, R260, R261) -/

/-- The kind of a message's flits (R260); partition flits are responses or requests (R267). -/
def kindOf : FabType → FlitKind
  | .ioReply | .abortReply => .urgentReply
  | .ioRequest | .abort => .urgentRequest
  | .snoop | .ack | .answerData | .answerWb => .coherence
  | .tbPurge | .sigpu | .sigpuAnswer | .presentation | .loaderOrder | .control => .general
  | .data | .cmp | .cmpack | .wb | .evc => .response
  | .request => .request

/-- The partition a source's flits are charged to (R261). -/
def chargedPart (s : State) : FabSource → Nat
  | .pu n => pswPart (s.pu n.val).psw
  | .l2Victim n => puPart s n.val
  | .l3Victim p => p.val
  | .answer who line =>
    match s.txns.find? (fun t => t.req.who == who && t.req.line == line.toNat) with
    | some t => t.req.part
    | none => ((s.cmps.find? (fun c => c.who == who && c.line == line.toNat)).map (·.part)).getD 0
  | .stash p => p.val
  | .channel q => ioqPart s q.toNat
  | .guest k => (gpBound s k.val).getD 0
  | .service => 0

/-- The flit of a message: only partition flits carry a partition. -/
def flitFor (s : State) (m : FabMsg) : Flit :=
  let k := kindOf m.type
  { kind := k, part := if k = .response ∨ k = .request then chargedPart s m.src else 0, snoop := m.type == .snoop
    line := m.line, returns := m.returns, nacks := m.nacks }

/-- The words of a flit as the fabric carries them (R40, R254). -/
def Flit.image (f : Flit) : List (BitVec 72) := f.line.map stored

/-- A flit enters the sending queue; a general-control flit that finds 64 of its kind there waits at its source (R273). -/
def enqueue (f : FabLink) (x : Flit) : FabLink :=
  if x.kind = .general ∧ (64 ≤ (f.queue.filter (fun y => y.kind == .general)).length ∨ !f.source.isEmpty) then
    { f with source := f.source ++ [x] }
  else { f with queue := f.queue ++ [x] }

/-- The winner of a slot leaves the queue; a flit that waits at its source takes the place of a general-control flit. -/
def dequeue (f : FabLink) (x : Flit) : FabLink :=
  match x.kind, f.source with
  | .general, y :: ys => { f with queue := f.queue.erase x ++ [y], source := ys }
  | _, _ => { f with queue := f.queue.erase x }

/-- Urgent and general control never cross a guest link (R260). -/
def crosses (guest : Bool) (x : Flit) : Bool :=
  !guest || (x.kind != .urgentReply && x.kind != .urgentRequest && x.kind != .general)

/-! ### The kinds of slot (R256) and the order of candidates (R264) -/

inductive SlotKind where
  | control
  | reserve
  | granted (p : Nat)
  | best
deriving DecidableEq, Repr

def slotKind (j entry : Nat) : SlotKind :=
  if j < 64 then .control
  else if j % 4 = 3 then .reserve
  else if bit entry 7 then .granted (entry % 32)
  else .best

/-- A column of R264. -/
inductive Cand where
  | kind (k : FlitKind)
  | own (p : Nat)
  | claim
  | best
deriving DecidableEq, Repr

def candOrder (j : Nat) : SlotKind → List Cand
  | .granted p => [.kind .urgentReply, .kind .urgentRequest, .own p, .claim, .kind .coherence, .kind .general, .best]
  | _ =>
    if 60 ≤ j ∧ j ≤ 63 then
      [.kind .general, .kind .urgentReply, .kind .urgentRequest, .claim, .kind .coherence, .best]
    else [.kind .urgentReply, .kind .urgentRequest, .claim, .kind .coherence, .kind .general, .best]

/-- The first flit of a partition: responses before requests, oldest first (R267). -/
def flitOf (w : List Flit) (p : Nat) : Option Flit :=
  match w.find? (fun f => f.kind == .response && f.part == p) with
  | some f => some f
  | none => w.find? (fun f => f.kind == .request && f.part == p)

/-- The first flit of a kind; on a guest link snoop records rank ahead of DATA (R282). -/
def flitKind (w : List Flit) (guest : Bool) (k : FlitKind) : Option Flit :=
  match (if guest then w.find? (fun f => f.kind == k && f.snoop) else none) with
  | some f => some f
  | none => w.find? (fun f => f.kind == k)

/-- The oldest claim whose partition has a flit waiting (R266). -/
def claimFor (cs : List Nat) (w : List Flit) : Option (Nat × Flit) :=
  cs.findSome? (fun p => (flitOf w p).map (fun f => (p, f)))

/-- The flit the pointer gives a best-effort slot to (R267). -/
def bestFor (ptr : Nat) (w : List Flit) : Option Flit :=
  (List.range 32).findSome? (fun i => flitOf w ((ptr + i) % 32))

/-- The flit a column offers. -/
def candFlit (f : FabLink) (guest : Bool) (w : List Flit) : Cand → Option Flit
  | .kind k => flitKind w guest k
  | .own p => flitOf w p
  | .claim => (claimFor f.claims w).map (·.2)
  | .best => bestFor f.ptr w

/-- The first column that offers a flit. -/
def winner (f : FabLink) (guest : Bool) (w : List Flit) (cs : List Cand) : Option (Cand × Flit) :=
  cs.findSome? (fun c => (candFlit f guest w c).map (fun x => (c, x)))

/-- What a slot leaves of its link: counts, claims, pointer, winner. -/
def afterSlot (f : FabLink) (j : Nat) (k : SlotKind) (w : List Flit) (win : Option (Cand × Flit)) : FabLink :=
  let f := { f with next := j + 1, won := win.map (·.2) }
  match win with
  | none => f
  | some (.kind q, _) =>
    let claim := match k with
      | .granted p => if (q = .urgentReply ∨ q = .urgentRequest) ∧ (flitOf w p).isSome then [p] else []
      | _ => []
    { f with ctl := f.ctl + 1, claims := f.claims ++ claim }
  | some (.own _, _) => { f with guar := f.guar + 1 }
  | some (.claim, x) => { f with disp := f.disp + 1, claims := f.claims.erase x.part }
  | some (.best, x) => { f with be := f.be + 1, ptr := (x.part + 1) % 32 }

/-- The guest port of a die takes no chunk: its transmit stage is busy or its link carries none (R281, R282). -/
def portBusy (s : State) (node : Nat) : Bool :=
  ((List.range 4).filter (fun k => gpDie k == node)).any (fun k => txBusy s k || decide (lstate s k < 3))

/-- SLOT_ARBITRATION (R264 to R267, R273): `arriving` enters the queue, then the slot is given; the winner leaves the queue. Slots go by
in order; on the r = 1 direction of a guest link the agent chooses. -/
def execSlotArbitration (node : Fin 7) (link : BitVec 5) (r : Fin 2) (slot : Fin 4096) (arriving : List FabMsg) (s : State) :
    Host.Outcome State Fault Refusal :=
  let n := node.val
  let l := link.toNat
  let guest := l == 0x18
  let f := s.fabLink (fabKey n l r.val)
  if !linkExists n l r.val || decide (linkSlots l ≤ slot.val) || decide (slot.val < f.next) || (guest && r.val == 1) then .next s
  else
    let f := ((arriving.map (flitFor s)).filter (crosses guest)).foldl enqueue f
    let k := slotKind slot.val (slotEntry s n l r.val (activeBank s n l r.val) slot.val)
    let win := if guest && portBusy s n then none else winner f guest f.queue (candOrder slot.val k)
    let g := afterSlot f slot.val k f.queue win
    let s := s.setFab (fabKey n l r.val) (match win with | some (_, x) => dequeue g x | none => g)
    .next (match win with
      | some (.kind _, _) => s
      | some (_, x) => { s with served := spSet 0 s.served x.part (spGet 0 s.served x.part + 1) }
      | none => s)

/-! ### Commits (R258, R259) -/

/-- An entry is malformed for its slot. -/
def badEntry (j e : Nat) : Bool :=
  if j < 64 ∨ j % 4 = 3 then e != 0 else bits e 6 5 != 0 || (!bit e 7 && e % 32 != 0)

/-- The entry grants a sealed partition. -/
def grantsSealed (s : State) (e : Nat) : Bool := bit e 7 && partSealed s (e % 32)

/-- What a slot of the bank to be committed fails: 2 BADTAB, 3 SEALED. -/
def slotFault (s : State) (node l r j : Nat) : Option Nat :=
  let b := activeBank s node l r
  let old := slotEntry s node l r b j
  let new := slotEntry s node l r (1 - b) j
  if badEntry j new then some 2
  else if new != old && (grantsSealed s old || grantsSealed s new) then some 3
  else none

/-- A write of 1 to SLOTCMT.COMMIT. -/
def commitSlots (s : State) (node l r : Nat) : State :=
  let a := slotCmt node l r
  match (List.range (linkSlots l)).findSome? (fun j => (slotFault s node l r j).map (fun c => (j, c))) with
  | some (j, c) => ccsSet (ccsSet s a 55 48 c) a 43 32 j
  | none =>
    let f := s.fabLink (fabKey node l r)
    ccsSet (ccsSet (s.setFab (fabKey node l r) { f with commit := some 2 }) a 55 48 1) a 62 62 1

/-- COMMIT (R258). -/
def execCommit (node : Fin 7) (link : BitVec 5) (r : Fin 2) (s : State) : Host.Outcome State Fault Refusal :=
  .next (if linkExists node.val link.toNat r.val then commitSlots s node.val link.toNat r.val else s)

/-- A write of a SLOTTAB register: the active bank, and the other while a commit waits, take none (R258). -/
def slotWrite (s : State) (node l r b a : Nat) (v : Word) : State :=
  if activeBank s node l r = b ∨ ccsFld s (slotCmt node l r) 62 62 = 1 then ccsSet s (slotCmt node l r) 61 61 1
  else ccsPut s a v

/-- The two banks of a link exchange roles. -/
def exchange (s : State) (node l r : Nat) : State :=
  let a := slotCmt node l r
  let f := s.fabLink (fabKey node l r)
  ccsSet (ccsSet (s.setFab (fabKey node l r) { f with commit := none }) a 63 63 (1 - activeBank s node l r)) a 62 62 0

/-- SLOT_BANK_EXCHANGE (R258): every commit whose second tick has come. -/
def execSlotBankExchange (s : State) : Host.Outcome State Fault Refusal :=
  .next ((s.fab.filter (fun e => e.2.commit == some 0)).foldl (fun s e => exchange s (e.1 / 64) (e.1 % 64 / 2) (e.1 % 2)) s)

/-! ### The tick (R271, R272) -/

/-- Every link direction with a table. -/
def allLinks : List (Nat × Nat × Nat) :=
  ((List.range 7).flatMap (fun n => (List.range 0x19).flatMap (fun l => [(n, l, 0), (n, l, 1)]))).filter
    (fun x => linkExists x.1 x.2.1 x.2.2)

/-- LNKUSE of one link loaded and its counts begun anew. -/
def loadUse (s : State) (x : Nat × Nat × Nat) : State :=
  let (n, l, r) := x
  let f := s.fabLink (fabKey n l r)
  let idle := linkSlots l - (f.ctl + f.guar + f.be + f.disp)
  let w := f.ctl * 2 ^ 51 + f.guar * 2 ^ 38 + f.be * 2 ^ 25 + idle * 2 ^ 12 + f.disp
  ccsPut (s.setFab (fabKey n l r)
    { f with next := 0, ctl := 0, guar := 0, be := 0, disp := 0, commit := f.commit.map (· - 1) }) (lnkUse n l r) (BitVec.ofNat 64 w)

/-- PFLAST and the totals of one partition; `d` of its flits and requests are deferred. -/
def loadPart (d : Nat) (s : State) (p : Nat) : State :=
  let sv := spGet 0 s.served p
  let rf := spGet 0 s.refused p
  let df := min d (2 ^ 21 - 1)
  let s := ccsPut s (partReg p 0x500) (BitVec.ofNat 64 (sv * 2 ^ 42 + df * 2 ^ 21 + rf % 2 ^ 21))
  let add (s : State) (o n : Nat) := ccsAdd s (partReg p o) 63 0 n
  add (add (add s 0x508 sv) 0x510 df) 0x518 rf

/-- The partition that a request waiting for a home credit is of: at its own node, or in a port's ingress queue (R269). -/
def waitingParts (s : State) : List Nat :=
  s.atNode.map (·.part)
    ++ (List.range 4).flatMap (fun k =>
      ((s.gp k).opens.filter (fun q => !q.gone)).map (fun _ => (gpBound s k).getD 0))

/-- The partition flits that wait in the sending queues. -/
def queuedParts (s : State) : List Nat :=
  (s.fab.flatMap (fun e => e.2.queue)).filterMap (fun x => if x.kind = .response ∨ x.kind = .request then some x.part else none)

/-- The fabric at a tick: the counts of the shutter just ended; DEFERRED is what waits at the tick (R269, R271). -/
def fabricTick (s : State) : State :=
  let ds := queuedParts s ++ waitingParts s
  let s := allLinks.foldl loadUse s
  let s := (List.range 32).foldl (fun s p => loadPart (ds.count p) s p) s
  { s with served := [], refused := [] }

end Sys2Proof.Machine
end

