-- ==== Sys2Proof/Machine/Guest.lean ====
section
/-! DEFINITION. Guest ports (R275 to R297): link states, the INIT exchange, flits and their records, admission of an agent's
requests, device accesses, credits, quiescing and binding. -/

namespace Sys2Proof.Machine

/-! ### Link states (R277) -/

/-- The link goes DOWN; from a state of service a caching agent's node fails with it (R296). -/
def linkDown (s : State) (k cause : Nat) : State :=
  let failing := gpCaching s k && decide (4 ≤ lstate s k)
  let s := portDown s k cause
  if failing then failNode s (6 + k) else s

/-- DOWN passes to TRAIN with EN set: at once after reset, otherwise 1,024 shutters after entering DOWN. -/
def tryTrain (s : State) (k : Nat) : State :=
  let g := s.gp k
  if lstate s k = 0 ∧ ccsFld s (gpReg k 0) 63 63 = 1 ∧ (g.trained = false ∨ 1024 ≤ shCount s - g.since) then
    setLstate (s.modGp k (fun g => { g with trained := true })) k 1
  else s

/-- A write of GPCTL.EN. -/
def gpEn (s : State) (k en : Nat) : State :=
  let s := ccsSet s (gpReg k 0) 63 63 en
  if en = 0 then linkDown s k 1 else tryTrain s k

/-- GPCTL_EN (R277, R297): discarded while flushing. -/
def execGpctlEn (k : Fin 4) (en : Bool) (s : State) : Host.Outcome State Fault Refusal :=
  .next (if lstate s k.val = 7 then gpDrop s k.val else gpEn s k.val (b2n en))

/-- LINK_DOWN_RETRY (R277). -/
def execLinkDownRetry (k : Fin 4) (s : State) : Host.Outcome State Fault Refusal := .next (tryTrain s k.val)

/-- TRAIN_COMPLETE (R277). -/
def execTrainComplete (k : Fin 4) (result : TrainResult) (s : State) : Host.Outcome State Fault Refusal :=
  if lstate s k.val ≠ 1 then .next s
  else .next (match result with
    | .up => setLstate s k.val 2
    | .refused => linkDown s k.val 2
    | .timeout => linkDown s k.val 3)

/-- The port's INIT record (R284). -/
def portInit (k : Nat) : Nat := mkRec 0x3F 0 k 32 0 (24 * 2 ^ 44) 0 0xB1C75E27

/-- SPEED_COMPLETE (R277): in INIT the port sends its INIT record, and sends it again at every tick until it leaves INIT. -/
def execSpeedComplete (k : Fin 4) (up : Bool) (s : State) : Host.Outcome State Fault Refusal :=
  if lstate s k.val ≠ 2 then .next s
  else if up then .next (gsend (setLstate s k.val 3) k.val (portInit k.val) [])
  else .next (linkDown s k.val 3)

/-- DIRSTAT.CACHING of every home for a guest node. -/
def setCaching (s : State) (k v : Nat) : State :=
  (List.range 6).foldl (fun s d => ccsSet s (dirStat d) (28 + k) (28 + k) v) s

/-- The agent's INIT is checked (R285). -/
def initIn (s : State) (k : Nat) (r : BitVec 128) : State :=
  if lstate s k ≠ 3 then s
  else
    let caching := bit (recSt r) 0
    let snp := recAux r
    let dev := bits r.toNat 95 88
    if (if caching then decide (24 ≤ snp) && !nodeFailed s (6 + k) else snp == 0) && decide (1 ≤ dev) then
      let s := ccsSet (ccsSet (ccsSet s (gpReg k 8) 59 59 (b2n caching)) (gpReg k 8) 47 40 snp) (gpReg k 8) 39 32 dev
      let s := ccsSet s (gpReg k 8) 31 0 (bits r.toNat 31 0)
      let s := setCaching (setLstate s k 4) k (b2n caching)
      s.modGp k (fun g => { g with snpCrd := snp, devCrd := dev })
    else linkDown s k 4

/-- INIT (R285). -/
def execInit (k : Fin 4) (record : BitVec 128) (s : State) : Host.Outcome State Fault Refusal :=
  .next (if recOpc record = 0x3F then initIn s k.val record else s)

/-- INIT_TIMEOUT (R277). -/
def execInitTimeout (k : Fin 4) (s : State) : Host.Outcome State Fault Refusal :=
  .next (if lstate s k.val = 3 ∧ 16 ≤ shCount s - (s.gp k.val).since then linkDown s k.val 3 else s)

/-- RETRAIN_END (R277): back to the earlier state within 64 shutters, otherwise DOWN. -/
def execRetrainEnd (k : Fin 4) (up : Bool) (s : State) : Host.Outcome State Fault Refusal :=
  let g := s.gp k.val
  if lstate s k.val ≠ 6 then .next s
  else if up ∧ shCount s - g.since ≤ 64 then
    let s := setLstate s k.val g.back
    .next (settlePort (drainTx k.val g.txWait.length s) k.val)
  else .next (linkDown s k.val 5)

/-- GUEST_LINK_DOWN (R296), for a cause of R277. -/
def execGuestLinkDown (k : Fin 4) (cause : Fin 9) (s : State) : Host.Outcome State Fault Refusal :=
  .next (if cause.val = 0 then s else linkDown s k.val cause.val)

/-! ### Credits (R286) and quiescing (R297) -/

def creditReturn (s : State) (k kind count : Nat) : State :=
  s.modGp k (fun g =>
    if kind = 1 then { g with snpCrd := g.snpCrd + count } else if kind = 2 then { g with devCrd := g.devCrd + count } else g)

/-- CREDIT_RETURN (R286). -/
def execCreditReturn (k : Fin 4) (kind : Fin 3) (count : BitVec 8) (s : State) : Host.Outcome State Fault Refusal :=
  .next (creditReturn s k.val kind.val count.toNat)

/-- A command of GPCTL.CMD: QUIESCE, RESUME, FLUSH (R297). -/
def gpCmd (s : State) (k cmd : Nat) : State :=
  let st := lstate s k
  if cmd = 1 ∧ st = 4 then settlePort (s.modGp k (fun g => { g with quiet := true })) k
  else if cmd = 2 ∧ st = 5 then setLstate s k 4
  else if cmd = 3 ∧ st = 5 ∧ gpCaching s k then sendNull (setLstate s k 7) k 1
  else gpDrop s k

def execQuiesce (k : Fin 4) (s : State) : Host.Outcome State Fault Refusal := .next (gpCmd s k.val 1)

def execGpResume (k : Fin 4) (s : State) : Host.Outcome State Fault Refusal := .next (gpCmd s k.val 2)

def execFlush (k : Fin 4) (s : State) : Host.Outcome State Fault Refusal := .next (gpCmd s k.val 3)

/-- The home of a line treats the vector bit of a node as clear; a line that the node still owns is a failed owner's (R297). -/
def disown (node : Nat) (s : State) (line : Nat) : State :=
  match dirFind s line with
  | none => s
  | some e =>
    let v := setBits e.vec node node 0
    let mine := e.st != .S && e.owner == node
    if v = 0 ∧ mine = false then dirFree s line
    else { s with dir := spPut s.dir line (some { e with vec := v, lost := e.lost || mine }) }

/-- The agent has given up its lines (R297): LCMD FLUSHED. -/
def flushed (s : State) (k : Nat) : State :=
  if lstate s k ≠ 7 then s
  else
    let s := (s.dir.map (·.1)).foldl (disown (6 + k)) (setCaching s k 0)
    setLstate (ccsSet s (gpReg k 8) 59 59 0) k 5

/-- FLUSHED (R297). -/
def execFlushed (k : Fin 4) (s : State) : Host.Outcome State Fault Refusal := .next (flushed s k.val)

/-! ### Binding (R289) -/

/-- The state in which binding may change: DOWN, or QUIESCED with nothing outstanding. -/
def gpIdle (s : State) (k : Nat) : Bool :=
  lstate s k == 0 || (lstate s k == 5 && (s.gp k).opens.isEmpty && (s.gp k).devs.isEmpty)

/-- The port's partition: 0 while unbound (R18). -/
def gpPart (s : State) (k : Nat) : Nat := (gpBound s k).getD 0

/-- Windows and TAGMODE may be written. -/
def gpOpen (s : State) (k : Nat) : Bool := !partSealed s (gpPart s k) || gpIdle s k

/-- A write of GPBIND. -/
def gpBind (s : State) (k : Nat) (v : Word) : State :=
  if gpIdle s k then ccsPut s (gpReg k 0x10) (v &&& 0x800000000000001F) else gpDrop s k

/-- GPBIND_WRITE (R289). -/
def execGpbindWrite (k : Fin 4) (v : Word) (s : State) : Host.Outcome State Fault Refusal := .next (gpBind s k.val v)

/-- A write of a window register takes effect at the second tick (R290). -/
def gpWindowWrite (s : State) (k a : Nat) (v : Word) : State := if gpOpen s k then delayWrite s a v 2 else gpDrop s k

/-- A write of GPCTL: discarded while flushing; EN, then TAGMODE, then a command. -/
def gpCtlWrite (s : State) (k : Nat) (v : Word) : State :=
  if lstate s k = 7 then gpDrop s k
  else
    let mode := bits v.toNat 59 58
    let s := if mode = tagMode s k then s else if gpOpen s k then ccsSet s (gpReg k 0) 59 58 mode else gpDrop s k
    let en := bits v.toNat 63 63
    let s := if en = ccsFld s (gpReg k 0) 63 63 then s else gpEn s k en
    if bits v.toNat 7 0 = 0 then s else gpCmd s k (bits v.toNat 7 0)

/-! ### Admission (R287) -/

/-- The window right a request needs: R, W or CACHE. -/
def rightBit (opc : Nat) : Nat := if opc = 4 then 62 else if opc = 5 then 61 else 60

/-- An inbound window of the port permits the request at an address. -/
def inboundOk (s : State) (k opc a : Nat) : Bool :=
  (List.range 8).any (fun w => gpWinHas s k 0x100 w a && forceFld s (gpReg k (0x100 + 16 * w)) (rightBit opc) (rightBit opc) == 1)

/-- The access checks at admission and again on leaving the queue (R287, R288). -/
def accessOk (s : State) (k opc a : Nat) : Bool :=
  decide (a < 2 ^ 51) && inboundOk s k opc a && zoneOk s (gpPart s k) a && installed s a

/-- The bytes of a range in a line, as a mask of one word. -/
def rangeMask (o len i : Nat) : BitVec 8 :=
  BitVec.ofNat 8 (((List.range 8).filter (fun b => decide (o ≤ 8 * i + b) && decide (8 * i + b < o + len))).foldl (fun m b => m + 2 ^ b) 0)

/-- The layout of a request is wrong (R287). -/
def malformed (s : State) (k : Nat) (r : BitVec 128) : Bool :=
  let opc := recOpc r
  let a := recAddr r
  let l := recLen r
  let aux := recAux r
  bit r.toNat 96 || bits r.toNat 36 32 != 0 || recSt r != 0
    || (if opc = 5 then !bit aux 7 && aux != 0 else aux != 0)
    || recData r != (opc == 5) || l == 0 || decide (64 < l) || decide (64 < a % 64 + l)
    || (decide (opc ≤ 3) && (a % 64 != 0 || l != 64 || !gpCaching s k))
    || (opc == 5 && (List.range 8).any (fun i => rangeMask (a % 64) l i == 0 && recTag r i != 0))

/-- The first check that refuses a request: its NACK reason. -/
def nackReason (s : State) (k : Nat) (r : BitVec 128) : Option Nat :=
  let g := s.gp k
  if (gpBound s k).isNone then some 3
  else if lstate s k = 5 ∨ lstate s k = 7 ∨ g.quiet = true then some 2
  else if malformed s k r then some 5
  else if g.opens.any (fun q => !q.dead && recTxn q.record == recTxn r) then some 6
  else if !accessOk s k (recOpc r) (recAddr r) then some 4
  else if 32 ≤ (g.opens.filter (fun q => !q.gone)).length then some 1
  else none

/-- A line's words as an agent sends them, with the tags of their record. -/
def recLine (r : BitVec 128) (data : List Word) : List TWord := data.zipIdx.map (fun p => ⟨p.1, recTag r p.2⟩)

/-- The bytes a WRNC carries, under TAGMODE. -/
def recBytes (s : State) (k : Nat) (r : BitVec 128) (data : List Word) : List WordMask :=
  (agentLine s k (recLine r data)).zipIdx.map (fun p => ⟨rangeMask (recAddr r % 64) (recLen r) p.2, p.1⟩)

/-- A complete request of an agent is admitted or refused with a NACK (R270, R287). -/
def requestIn (s : State) (k : Nat) (r : BitVec 128) (data : List Word) : State :=
  if recOpc r = 0 ∨ 5 < recOpc r ∨ ¬ (4 ≤ lstate s k) then s
  else match nackReason s k r with
    | some c =>
      let s := { s with refused := spSet 0 s.refused (gpPart s k) (spGet 0 s.refused (gpPart s k) + 1) }
      gsend s k (mkRec 0x1A (recTxn r) 0 c 0 (recAddr r) (recLen r) 0) []
    | none => s.modGp k (fun g => { g with opens := g.opens ++ [⟨r, recBytes s k r data, false, false, false⟩] })

/-- GUEST_REQUEST (R287). -/
def execGuestRequest (k : Fin 4) (record : BitVec 128) (data : List Word) (s : State) : Host.Outcome State Fault Refusal :=
  .next (requestIn s k.val record data)

/-- The stash hint of a WRNC; a target that does not exist counts as dropped. -/
def stashOf (r : BitVec 128) : Option Stash :=
  let n := recAux r % 64
  if !bit (recAux r) 7 then none
  else if bit (recAux r) 6 then (if h : n < 6 then some (.l3 ⟨n, h⟩) else none)
  else (if h : n < 60 then some (.l2 ⟨n, h⟩) else none)

def reqOp : Nat → HomeOp
  | 1 => .rds
  | 2 => .rdx
  | 3 => .upg
  | 4 => .rdnc
  | _ => .wrnc

/-- An admitted request closes in the port. -/
def dropReq (s : State) (k : Nat) (q : GReq) : State := s.modGp k (fun g => { g with opens := g.opens.erase q })

/-- CMP with AUX 0x02 answers a request that nothing was done for (R284, R288); an RDS, RDX or UPG stays open until its CMPACK
(R287). What an agent no longer waits for ends unanswered (R296). -/
def refuseReq (s : State) (k : Nat) (q : GReq) : State :=
  let r := q.record
  if q.dead then settlePort (dropReq s k q) k
  else
    let s := gsend s k (mkRec 0x19 (recTxn r) 0 2 0 (recAddr r) (recLen r) 0) []
    if recOpc r ≤ 3 then s.modGp k (fun g =>
      { g with opens := g.opens.map (fun x => if x = q then { q with gone := true, answered := true } else x) })
    else settlePort (dropReq s k q) k

/-- GUEST_REQUEST_DISPATCH (R287, R288): the i-th request of the ingress queue leaves it with a home credit, after the zone
and window are checked again; `found` is what the home's ECC will find. -/
def execGuestRequestDispatch (k : Fin 4) (i : Fin 32) (found : Found) (s : State) : Host.Outcome State Fault Refusal :=
  let n := k.val
  match ((s.gp n).opens.filter (fun q => !q.gone))[i.val]? with
  | none => .next s
  | some q =>
    let r := q.record
    let a := recAddr r
    if !accessOk s n (recOpc r) a then .next (refuseReq s n q)
    else match homeOf s a with
      | none => .next s
      | some h =>
        if nodeFailed s h then .next (refuseReq s n q)
        else if !creditLeft s h (creditHolder (.guest k)) then .next s
        else
          let s :=
            if q.dead then dropReq s n q
            else s.modGp n (fun g => { g with opens := g.opens.map (fun x => if x = q then { q with gone := true } else x) })
          let bad := bit (recAux r) 7 && (stashOf r).isNone
          let s := if bad then ccsAdd s (dirErr h) 15 0 1 else s
          .next (arrive s { op := reqOp (recOpc r), who := .guest k, line := a / 64, wr := q.wr, stash := stashOf r, part := gpPart s n
                            txn := if q.dead then 4096 else recTxn r, found := found, cycle := 0, port := 0 })

/-! ### Device accesses (R290, R292) -/

/-- A device access routed to the port fails as unreachable (R296, R297). -/
def unreachable (s : State) (k : Nat) : Bool :=
  let st := lstate s k
  decide (st < 4) || st == 5 || st == 7 || (s.gp k).quiet

/-- The line of a device write: the bytes at their offset, and their word's tag. -/
def deviceLine (a : Nat) (w : WordWrite) : List TWord :=
  (List.range 8).map (fun i => if i = a / 8 % 8 then ⟨w.data, w.tag.getD tagInt⟩ else ⟨0, 0⟩)

/-- Registers an access at its agent: a device credit and the port's number for it. -/
def devOpen (s : State) (k n : Nat) (write : Bool) (abs len : Nat) : Nat × State :=
  let (t, s) := portTxn s k
  (t, s.modGp k (fun g =>
    { g with devCrd := g.devCrd - 1, devs := g.devs ++ [{ txn := t, pu := n, write := write, abs := abs, len := len }] }))

/-- DRD (R290). -/
def execDrd (pu : Fin 60) (s : State) : Host.Outcome State Fault Refusal :=
  let n := pu.val
  match (s.pu n).devLoad with
  | none => .next s
  | some d =>
    if d.sent then .next s
    else match outPort s (pswPart (s.pu n).psw) d.abs with
      | none => .next (loadLost s n)
      | some k =>
        if unreachable s k then .next (loadLost s n)
        else if lstate s k = 6 ∨ (s.gp k).devCrd = 0 then .next s
        else
          let (t, s) := devOpen s k n false d.abs d.len
          let s := s.modPu n (fun p => { p with devLoad := some { d with sent := true } })
          .next (gsend s k (mkRec 0x1C t 0 0 0 d.abs d.len 0) [])

/-- DWR (R290): the PU's oldest waiting store, when it is a device store, leaves the merging buffer with port acceptance; a word that
is `bad` in both copies leaves as data 0 with tag POISON, with a damage machine check (R41, R201). -/
def execDwr (d : DevStore) (s : State) : Host.Outcome State Fault Refusal :=
  let n := d.pu.val
  match nextEntry (s.pu n).mb with
  | none => .next s
  | some e =>
    if !e.device || inWindow e.line then .next s
    else
      let phase (s : State) (x : MbPhase) := s.modPu n (fun p => { p with mb := replaceEntry (some { e with phase := x }) p.mb }.drain)
      match outPort s e.part e.line with
      | none => .next (phase s (.lost 0x0051))
      | some k =>
        if unreachable s k then .next (phase s (.lost 0x0051))
        else if lstate s k = 6 ∨ (s.gp k).devCrd = 0 then .next s
        else
          let (t, s) := devOpen s k n true e.line e.len
          let s := if d.bad then damage s n else s
          let w := (e.words.head?.map (·.2)).getD ⟨0, 0, none⟩
          let line := deviceLine e.line (if d.bad then { w with data := 0, tag := some tagPoison } else w)
          .next (gsend (phase s (.sent (devTimeout s e.part))) k (mkRec 0x1D t 0 0 1 e.line e.len (tagsOf line)) line)

/-- The access a response answers is still waited for. -/
def devWaits (s : State) (d : GDev) : Bool :=
  if d.write then (s.pu d.pu).mb.any (fun e => e.line == d.abs && (match e.phase with | .sent _ => true | _ => false))
  else match (s.pu d.pu).devLoad with
    | some l => l.sent && l.abs == d.abs
    | none => false

/-- The bytes of a device's answer, in the low bytes. -/
def devWord (s : State) (k : Nat) (d : GDev) (r : BitVec 128) (data : List Word) : TWord :=
  let i := d.abs / 8 % 8
  let w := (agentLine s k (recLine r data)).getD i uninitWord
  if d.len = 8 then w else ⟨extract w.data d.abs d.len, w.tag⟩

/-- A device response (R292). -/
def drspIn (s : State) (k : Nat) (r : BitVec 128) (data : List Word) : State :=
  match (s.gp k).devs.find? (fun d => d.txn == recTxn r) with
  | none => ccsAdd s (gpReg k 0x300) 15 0 1
  | some d =>
    let s := s.modGp k (fun g => { g with devs := g.devs.filter (fun x => x.txn != d.txn) })
    let s :=
      if !devWaits s d then ccsAdd s (gpReg k 0x300) 15 0 1
      else if bit (recSt r) 0 then devLost s d
      else if d.write then s.modPu d.pu (fun p => { p with mb := endStore d.abs none p.mb }.drain)
      else s.modPu d.pu (fun p =>
        { p with
          devLoad := none
          latch := p.latch.map (fun l => if l.kind = .deviceRead ∧ l.resp = none then
            { l with resp := some [devWord s k d r data] } else l) })
    settlePort s k

/-- DRSP (R292). -/
def execDrsp (k : Fin 4) (record : BitVec 128) (data : List Word) (s : State) : Host.Outcome State Fault Refusal :=
  .next (if 4 ≤ lstate s k.val then drspIn s k.val record data else s)

/-! ### Records of the link (R280, R284) -/

/-- The snoop that a TXN of the port names, sent to its agent and unanswered, and the transaction it belongs to (R284). -/
def snoopOf (s : State) (k txn : Nat) : Option (Txn × Snoop) :=
  s.txns.findSome? (fun t => (t.snoops.find? (fun x => x.node == 6 + k && x.ans.isSome && x.txn == txn)).map (fun x => (t, x)))

/-- The data a caching agent sends in answer to a snoop: to the requester, or to the home for SNPR (R237). -/
def agentData (s : State) (k txn : Nat) (ws : List TWord) : State :=
  match snoopOf s k txn with
  | none => s
  | some (t, x) =>
    if x.kind = .snpr then memWritten (putLine memPut s t.req.line (agentLine s k ws)) t.req.line
    else if x.kind = .snpi then s
    else dataIn s t.req.who t.req.line ws

/-- The agent's ACK of a snoop. -/
def agentAck (s : State) (k : Nat) (r : BitVec 128) : State :=
  match snoopOf s k (recTxn r) with
  | none => s
  | some (t, _) => ackIn s (6 + k) t.req.line (bit (recSt r) 0) (bit (recSt r) 1) []

/-- A complete record of the agent is passed on (R284). -/
def recordIn (s : State) (k : Nat) (r : BitVec 128) (data : List Word) : State :=
  let line := recAddr r / 64
  let ws := recLine r data
  let opc := recOpc r
  if opc = 0x3F then initIn s k r
  else if lstate s k < 4 then s
  else if opc = 0x0E then drspIn s k r data
  else if 1 ≤ opc ∧ opc ≤ 5 then requestIn s k r data
  else if opc = 0x08 then wbIn s (6 + k) line ws .none
  else if opc = 0x09 then evcIn s (6 + k) line
  else if opc = 0x0A then settlePorts (cmpackIn s (.guest (Fin.ofNat 4 k)) line)
  else if opc = 0x0C then agentAck s k r
  else if opc = 0x0D then agentData s k (recTxn r) ws
  else s

/-- The records of a header chunk: those without data are complete at once, the others wait for their data chunks. -/
def headerIn (s : State) (k : Nat) (cStream : Bool) : List (BitVec 128) → State
  | [] => s
  | r :: rs =>
    let s :=
      if recOpc r = 0 then s
      else if recData r then
        s.modGp k (fun g => if cStream then { g with recsC := g.recsC ++ [r] } else { g with recsP := g.recsP ++ [r] })
      else recordIn s k r []
    headerIn s k cStream rs

/-- A chunk of the agent's stream (R280), counted for LNKUSE as R282 says. -/
def chunkIn (s : State) (k d : Nat) (c : List (BitVec 8)) : State :=
  let key := fabKey (gpDie k) 0x18 1
  let f := s.fabLink key
  let entry := slotEntry s (gpDie k) 0x18 1 (activeBank s (gpDie k) 0x18 1) f.next
  let own := match slotKind f.next entry with | .granted p => p == gpPart s k | _ => false
  let kind := bits d 7 6
  let busy := kind == 1 || kind == 2
  let cStream := bit d 5
  let f := { f with next := f.next + 1 }
  let f := if !busy then f else if cStream then { f with ctl := f.ctl + 1 } else if own then { f with guar := f.guar + 1 }
    else { f with be := f.be + 1 }
  let s := s.setFab key f
  let s := if busy && !cStream then { s with served := spSet 0 s.served (gpPart s k) (spGet 0 s.served (gpPart s k) + 1) } else s
  if kind = 1 then
    headerIn s k cStream (((pieces 16 4 c).take (bits d 4 3 + 1)).map (fun b => BitVec.ofNat 128 (ofBE b)))
  else if kind = 2 then
    let g := s.gp k
    let ws := (pieces 8 8 c).map (fun b => BitVec.ofNat 64 (ofBE b))
    match (if cStream then g.recsC else g.recsP) with
    | [] => s
    | r :: rs => recordIn (s.setGp k (if cStream then { g with recsC := rs } else { g with recsP := rs })) k r ws
  else s

/-- The whole chunks of the stream received so far. -/
def chunksIn (k : Nat) : Nat → State → State
  | 0, s => s
  | f + 1, s =>
    let g := s.gp k
    if g.rxBytes.length < 64 then s
    else chunksIn k f (chunkIn (s.setGp k { g with rxBytes := g.rxBytes.drop 64, descs := g.descs.drop 1 }) k (g.descs.headD 0)
      (g.rxBytes.take 64))

/-! ### Flits (R278, R279, R281) -/

/-- The buffered flits that a received ACKSEQ covers are freed. -/
def ackFlits (q : Nat) (b : List TxFlit) : List TxFlit :=
  if b.any (fun x => x.seq == q) then (b.dropWhile (fun x => x.seq != q)).drop 1 else b

/-- The link carries flits: INIT, ACTIVE, QUIESCED, FLUSHING. -/
def carries (s : State) (k : Nat) : Bool := let st := lstate s k; st == 3 || st == 4 || st == 5 || st == 7

/-- Every buffered flit is sent again, with the link control of now; the fourth replay that begins with the same flit retrains the
link. -/
def replay (s : State) (k : Nat) : State :=
  let g := s.gp k
  match g.replay with
  | [] => s
  | f :: _ =>
    let n := g.replays + 1
    let s := ccsAdd (s.setGp k { g with replayAt := f.seq, replays := n }) (gpReg k 0x300) 47 32 1
    let s := g.replay.foldl (fun s f => sendFlit s k f.seq false 0 f.payload f.descs) s
    if 4 ≤ n then
      let back := lstate s k
      ccsAdd (setLstate (s.modGp k (fun g => { g with back := back, replays := 0 })) k 6) (gpReg k 0x300) 31 16 1
    else s

/-- An ACKSEQ received: the buffer is freed, a next replay begins with another flit, and waiting messages leave. -/
def flitAck (s : State) (k q : Nat) : State :=
  let g := s.gp k
  let rest := ackFlits q g.replay
  let s := s.setGp k { g with replay := rest, replays := if rest.length < g.replay.length then 0 else g.replays }
  drainTx k g.txWait.length s

/-- NAK_REPLAY (R281): a NAK with its ACKSEQ. -/
def execNakReplay (k : Fin 4) (ackseq : BitVec 10) (s : State) : Host.Outcome State Fault Refusal :=
  .next (if carries s k.val then replay (flitAck s k.val ackseq.toNat) k.val else s)

/-- REPLAY_TIMEOUT (R281). -/
def execReplayTimeout (k : Fin 4) (s : State) : Host.Outcome State Fault Refusal :=
  .next (if carries s k.val then replay s k.val else s)

/-- A flit's control field is a protocol error (R279). -/
def badControl (c : Nat) : Bool :=
  bit c 24 || bits c 7 0 != 0 || decide (2 < bits c 23 20) || decide (2 < bits c 11 8) || bit c 25

/-- The payload of the next flit in order: its bytes join the stream, its descriptors the chunks that begin in it (R280); flits with the
new ACKSEQ leave from now on. -/
def payloadIn (s : State) (k : Nat) (b : List (BitVec 8)) : State :=
  let g := s.gp k
  let starts := (g.rxBytes.length + 232 + 63) / 64 - (g.rxBytes.length + 63) / 64
  let ds := (((b.drop 232).take 4).map (·.toNat)).take starts
  let s := settlePorts (chunksIn k 5 (s.setGp k { g with
    rxSeq := (g.rxSeq + 1) % 1024, nak := false, rxBytes := g.rxBytes ++ b.take 232, descs := g.descs ++ ds }))
  if carries s k then sendNull s k 0 else s

/-- A bad flit: counted; the next flit sent carries NAK, and none after it until the replay has begun. -/
def badFlit (s : State) (k : Nat) : State :=
  let s := ccsAdd s (gpReg k 0x300) 63 48 1
  if (s.gp k).nak then s else sendNull (s.modGp k (fun g => { g with nak := true, nakDue := true })) k 0

/-- FLIT_RECEIVE (R279 to R281): a flit as it arrives, and whether its FEC found it correctable. After a bad flit every one
but the next in order is discarded, and a sequenced one out of order always is. -/
def execFlitReceive (k : Fin 4) (flit : BitVec 2048) (fec : Bool) (s : State) : Host.Outcome State Fault Refusal :=
  let n := k.val
  let b := bytesBE 256 flit.toNat
  let c := ofBE ((b.drop 236).take 6)
  if !carries s n then .next s
  else if !fec || ofBE ((b.drop 242).take 8) != (crc64 (b.take 242)).toNat then .next (badFlit s n)
  else if badControl c then .next (linkDown s n 7)
  else
    let g := s.gp n
    let null := bit c 26
    if (if null then g.nak else bits c 47 38 != (g.rxSeq + 1) % 1024) then .next s
    else
      let s := creditReturn (flitAck s n (bits c 37 28)) n (bits c 23 20) (bits c 19 12)
      let s := if null then s else payloadIn s n b
      let s := if bits c 11 8 = 2 then flushed s n else s
      .next (if bit c 27 && carries s n then replay s n else s)

/-- A port at a tick: the first flit from now carries SHUT (R278), and INIT goes on (R277). -/
def portTick (s : State) (k : Nat) : State :=
  if !carries s k then s
  else
    let s := sendNull (s.modGp k (fun g => { g with shutDue := true })) k 0
    if lstate s k = 3 then gsend s k (portInit k) [] else s

end Sys2Proof.Machine
end

