-- ==== Sys2Proof/Machine/Channel.lean ====
section
/-! DEFINITION. The channel subsystem (R298 to R329, R457): I/O queues and their starts, channel command entries, the data
path to memory, endings and status records, the I/O instructions, engine failure and the enabling of the subsystem. -/

namespace Sys2Proof.Machine

/-! ### Starts and exchanges -/

/-- An exchange as it begins (R341). -/
def Exch.fresh (engine : Nat) : Exch where
  engine := engine
  path := none
  lastK := 7
  lost := 0
  ticks := 0
  idx := 0
  nxt := []
  nxtStop := none
  nxtDone := false
  more := true
  cur := []
  curStop := none
  ents := []
  off := 0
  hold := []
  stored := 0
  counted := 0
  ckpts := 0
  termed := false
  txSeq := 0
  txAck := 0
  rxSeq := 0
  rxCnt := 0
  ackDue := false
  txBase := 0
  rxBase := 0
  out := []
  expiries := 0
  devEnd := none
  devst := 0
  halt := none
  ending := none
  prog := 0
  told := 0
  progDue := none
  failover := false
  resume := false
  moved := false

/-- The exchange of an IOQ's active start replaced. -/
def State.setExch (s : State) (q : Nat) (e : Exch) : State :=
  { s with starts := s.starts.map (fun x => if x.ioq = q ∧ x.exch.isSome then { x with exch := some e } else x) }

/-- The start's exchange ends, unless it has an ending already. -/
def Exch.finish (e : Exch) (d : Ending) : Exch := if e.ending.isSome then e else { e with ending := some d, hold := [] }

/-! ### Channel command entries (R303, R304) -/

def Cce.cmd (c : Cce) : Nat := bits c.w0.toNat 63 56
def Cce.chd (c : Cce) : Bool := bit c.w0.toNat 55
def Cce.chc (c : Cce) : Bool := bit c.w0.toNat 54
def Cce.lsup (c : Cce) : Bool := bit c.w0.toNat 53
def Cce.nost (c : Cce) : Bool := bit c.w0.toNat 52
def Cce.ilst (c : Cce) : Bool := bit c.w0.toNat 51
def Cce.ioc (c : Cce) : Bool := bit c.w0.toNat 50
def Cce.tc (c : Cce) : Bool := bit c.w0.toNat 49
def Cce.count (c : Cce) : Nat := bits c.w0.toNat 31 0
def Cce.addr (c : Cce) : Nat := c.w1.toNat

/-- The class of a command: 0 control, 1 write, 2 read. -/
def cmdClass (cs : List Cce) : Nat := match cs with | c :: _ => c.cmd / 64 | [] => 0

/-- The sum of COUNT over a data chain. -/
def chainTotal (cs : List Cce) : Nat := (cs.map Cce.count).sum

/-- A byte is authorised for a start of partition p (R307): `store` for a byte a read writes. -/
def chanByte (s : State) (p a : Nat) (store : Bool) : Bool :=
  decide (a < 2 ^ 51) && installed s a && (p == 0 || (zoneOk s p a && !(store && zoneWp s p a)))

/-- The ERR of a CCE's own checks; `cls` is the class of the command it chains to, if it is data-chained. -/
def cceErr (c : Cce) (cls : Option Nat) : Option Nat :=
  let k := cls.getD (c.cmd / 64)
  if c.cmd / 64 = 3 ∨ (c.cmd = 0 ∧ cls.isNone) ∨ (c.cmd ≠ 0 ∧ cls.isSome) then some 1
  else if bit c.w0.toNat 48 || bits c.w0.toNat 47 32 != 0 || (c.chd && c.chc) || (c.chd && k == 0) then some 2
  else if (c.count == 0) != (k == 0) then some 3
  else if c.nost && k == 1 then some 4
  else none

/-- CCE number i of a start as the engine reads it; none where it lies outside authorised storage or is not two words
tagged INT. -/
def readCce (s : State) (x : Start) (i : Nat) : Option Cce :=
  if i = 0 then some ⟨0, x.c0, x.c1⟩
  else
    let a := x.rest.toNat + 16 * (i - 1)
    let p := ioqPart s x.ioq
    let u := homeWord s (a / 8)
    let v := homeWord s (a / 8 + 1)
    if chanByte s p a false && chanByte s p (a + 15) false && u.tag == tagInt && v.tag == tagInt then some ⟨i, u.data, v.data⟩
    else none

/-- The engine takes in one more CCE of the next command. -/
def fetchCce (s : State) (x : Start) (e : Exch) : Exch :=
  let chained := if e.nxt.isEmpty then none else some (cmdClass e.nxt)
  let bad (err resid : Nat) : Exch :=
    if e.nxt.isEmpty then
      e.finish { kind := 2, err := err, uncert := false, timed := false, devst := e.devst, idx := e.idx,
                 resid := resid, sense := [] }
    else { e with nxtStop := some { err := err, idx := e.idx, resid := resid, off := chainTotal e.nxt }, nxtDone := true }
  match readCce s x e.idx with
  | none => bad 5 0
  | some c =>
    match cceErr c chained with
    | some err => bad err c.count
    | none => { e with nxt := e.nxt ++ [c], idx := e.idx + 1, nxtDone := !c.chd }

/-- CCE_FETCH (R304, R305): the CCEs of a command's data chain are fetched and checked before its CMD. -/
def execCceFetch (ioq : Fin 262144) (s : State) : Host.Outcome State Fault Refusal :=
  match activeOf s ioq.val with
  | none => .next s
  | some (x, e) =>
    if e.more && !e.nxtDone && e.halt.isNone && e.ending.isNone
        && (e.idx == 0 || !guestOwns s ((x.rest.toNat + 16 * (e.idx - 1)) / 64)) then
      .next (s.setExch ioq.val (fetchCce s x e))
    else .next s

/-! ### The data of a command (R306, R307, R309) -/

/-- A run of bytes in one word. -/
structure Piece where
  cce : Cce
  j   : Nat
  abs : Nat
  len : Nat
deriving DecidableEq, Repr

/-- What lies at a command offset. -/
inductive At where
  | piece (p : Piece)
  /-- Read data that is not stored: so many bytes of it. -/
  | skip (n : Nat)
  | stop (x : ChanStop)
  /-- A guest may hold the line newer: wait. -/
  | wait
  | beyond
deriving DecidableEq, Repr

/-- The CCE of a chain that holds a command offset, with the offset in it. -/
def cceAt : List Cce → Nat → Option (Cce × Nat)
  | [], _ => none
  | c :: cs, n => if n < c.count then some (c, n) else cceAt cs (n - c.count)

/-- An entry of an indirect list (R306): as it was read, or read now; none where it is bad. -/
def listEntry (s : State) (p : Nat) (ents : Sparse Nat) (c : Cce) (m : Nat) : Option Nat :=
  match spFind ents (c.idx * 2 ^ 32 + m) with
  | some a => some a
  | none =>
    let a := c.addr + 8 * m
    let w := homeWord s (a / 8)
    if c.addr % 8 = 0 ∧ chanByte s p a false = true ∧ w.tag = tagInt ∧ (m = 0 ∨ w.data.toNat % 4096 = 0) then some w.data.toNat
    else none

/-- The entry that locates byte j of a CCE, once entry 0 gives `e0`, and the byte's offset from the entry's address. -/
def entryFor (e0 j : Nat) : Nat × Nat :=
  let n0 := 4096 - e0 % 4096
  if j < n0 then (0, j) else ((j - n0) / 4096 + 1, (j - n0) % 4096)

/-- The address of byte j of a CCE: directly, or along its indirect list; none for a bad list entry (R306). -/
def cceByte (s : State) (p : Nat) (ents : Sparse Nat) (c : Cce) (j : Nat) : Option Nat :=
  if !c.ilst then some (c.addr + j)
  else (listEntry s p ents c 0).bind (fun e0 =>
    let (m, o) := entryFor e0 j
    (listEntry s p ents c m).map (· + o))

/-- The entry is not read yet, and a guest may hold its word newer. -/
def entryHeld (s : State) (ents : Sparse Nat) (c : Cce) (m : Nat) : Bool :=
  (spFind ents (c.idx * 2 ^ 32 + m)).isNone && guestOwns s ((c.addr + 8 * m) / 64)

/-- A guest may hold the indirect list's words for byte j newer. -/
def listHeld (s : State) (p : Nat) (ents : Sparse Nat) (c : Cce) (j : Nat) : Bool :=
  c.ilst && (entryHeld s ents c 0
    || (match listEntry s p ents c 0 with | some e0 => entryHeld s ents c (entryFor e0 j).1 | none => false))

/-- The entries read once the data at a command offset has needed them: each is read one time (R306). -/
def entsAt (s : State) (p : Nat) (ents : Sparse Nat) (cs : List Cce) (off : Nat) (store : Bool) : Sparse Nat :=
  match cceAt cs off with
  | none => ents
  | some (c, j) =>
    if !c.ilst || (store && c.nost) || entryHeld s ents c 0 then ents
    else match listEntry s p ents c 0 with
      | none => ents
      | some e0 =>
        let ents := spPut ents (c.idx * 2 ^ 32) (some e0)
        let m := (entryFor e0 j).1
        if entryHeld s ents c m then ents
        else match listEntry s p ents c m with
          | some a => spPut ents (c.idx * 2 ^ 32 + m) (some a)
          | none => ents

/-- What lies at a command offset of a data chain, for a start of partition p; `store` for a read. -/
def dataAt (s : State) (p : Nat) (ents : Sparse Nat) (cs : List Cce) (off : Nat) (store : Bool) : At :=
  match cceAt cs off with
  | none => .beyond
  | some (c, j) =>
    let stop (err : Nat) : At := .stop { err := err, idx := c.idx, resid := c.count - j, off := off }
    if store && c.nost then .skip (c.count - j)
    else if listHeld s p ents c j then .wait
    else match cceByte s p ents c j with
      | none => stop 6
      | some a =>
        if !chanByte s p a store then stop 7
        else
          let len := min (8 - a % 8) (c.count - j)
          if if store then !canOwn s (a / 64) else guestOwns s (a / 64) then .wait
          else
            let t := (homeWord s (a / 8)).tag
            if !store && (t == tagSealed || t == tagPoison) then stop 8
            else .piece ⟨c, j, a, len⟩

/-- Data gathered for a frame of a write: bytes, the tag block's nibbles, whether a byte belongs to a CCE with TC; the list entries
read; and what ended it before its limit. -/
structure Gather where
  ents : Sparse Nat
  data : List (BitVec 8)
  tags : List (BitVec 4)
  tc   : Bool
  stop : Option ChanStop
  wait : Bool
deriving DecidableEq, Repr

/-- The bytes of a word from an offset in it. -/
def byteRun (w : Word) (o n : Nat) : List (BitVec 8) := ((bytesBE 8 w.toNat).drop o).take n

/-- Gathers the bytes of command offsets from `off` up to `lim`; `fuel` bounds the pieces. -/
def gather (s : State) (p : Nat) (cs : List Cce) : Nat → Nat → Nat → Gather → Gather
  | 0, _, _, g => g
  | f + 1, off, lim, g =>
    if lim ≤ off then g
    else
      let g := { g with ents := entsAt s p g.ents cs off false }
      match dataAt s p g.ents cs off false with
      | .piece x =>
        let n := min x.len (lim - off)
        let w := homeWord s (x.abs / 8)
        let tag := if x.cce.tc && n == 8 && off % 8 == 0 then w.tag else tagBytes
        let starts := (off + 7) / 8 * 8 < off + n
        gather s p cs f (off + n) lim
          { g with data := g.data ++ byteRun w.data (x.abs % 8) n
                   tags := if starts then g.tags ++ [tag] else g.tags
                   tc := g.tc || x.cce.tc }
      | .stop x => { g with stop := some x }
      | .wait => { g with wait := true }
      | _ => g

/-- Where the storing of read data stands: list entries read, state, command offset, bytes held back, and what stopped it. -/
structure Storing where
  ents : Sparse Nat
  s    : State
  off  : Nat
  left : List (BitVec 8)
  stop : Option ChanStop
  wait : Bool
deriving DecidableEq, Repr

/-- The tag a whole word read with TC takes from its frame (R309). -/
def readTag (t : Tag) : Tag :=
  if [tagUninit, tagInt, tagBfp, tagDec, tagBytes, tagCustom, tagPoison].contains t then t else tagBytes

/-- Stores read data word by word. A word whose bytes have not all come is held back unless the data ends there (`final`);
`base` is the command offset of the frame, whose tag block is `tags`. -/
def storeData (p : Nat) (cs : List Cce) (base : Nat) (tags : Option (List (BitVec 4))) (final : Bool) : Nat → Storing → Storing
  | 0, z => z
  | f + 1, z =>
    if z.left.isEmpty then z
    else
      let z := { z with ents := entsAt z.s p z.ents cs z.off true }
      match dataAt z.s p z.ents cs z.off true with
      | .beyond => { z with off := z.off + z.left.length, left := [] }
      | .skip n =>
        storeData p cs base tags final f
          { z with off := z.off + min n z.left.length, left := z.left.drop n }
      | .stop x => { z with stop := some x }
      | .wait => { z with wait := true }
      | .piece x =>
        if z.left.length < x.len ∧ final = false then z
        else
          let b := z.left.take x.len
          let n := b.length
          let data : Word := BitVec.ofNat 64 (ofBE b * 2 ^ (8 * (8 - x.abs % 8 - n)))
          let tag : Option Tag :=
            if n = 8 then
              some (match x.cce.tc, tags with
                | true, some ts => if z.off % 8 = 0 ∧ base ≤ z.off then readTag (ts.getD ((z.off - base) / 8) tagBytes) else tagBytes
                | _, _ => tagBytes)
            else none
          match applyWrite? (homeWord z.s (x.abs / 8)) (wordWrite x.abs n (BitVec.ofNat 64 (ofBE b)) tag) with
          | none => { z with stop := some { err := 8, idx := x.cce.idx, resid := x.cce.count - x.j, off := z.off } }
          | some v =>
            let v := if n = 8 then ⟨data, tag.getD tagBytes⟩ else v
            storeData p cs base tags final f
              { z with s := agentWrite z.s (x.abs / 8) v, off := z.off + n, left := z.left.drop n }

/-! ### Residuals and endings (R308, R318, R457) -/

/-- R457: the CCE that holds command offset n, with what is left of it. -/
def residAt (cs : List Cce) (n : Nat) : Nat × Nat :=
  match cceAt cs n with
  | some (c, j) => (c.idx, c.count - j)
  | none => match cs.getLast? with
    | some c => (c.idx, 0)
    | none => (0, 0)

/-- The residual of the last CCE that transferred when n bytes did (R308). -/
def residMoved (cs : List Cce) (n : Nat) : Nat × Nat :=
  if n = 0 then residAt cs 0
  else match cceAt cs (n - 1) with
    | some (c, j) => (c.idx, c.count - (j + 1))
    | none => residAt cs n

/-- The command R457 speaks of: the one whose CMD was sent last, otherwise that of CCE0. -/
def Exch.command (e : Exch) (x : Start) : List Cce := if e.cur.isEmpty then [⟨0, x.c0, x.c1⟩] else e.cur

/-- An ending by halt, clear or loss of every path, with the count of R457. -/
def Exch.cut (e : Exch) (x : Start) (kind err n devst : Nat) (uncert : Bool) : Exch :=
  let (i, r) := residAt (e.command x) n
  e.finish { kind := kind, err := err, uncert := uncert, timed := (e.halt.map (·.timed)).getD false, devst := devst, idx := i,
             resid := r, sense := [] }

/-- The count R457 takes when no answer gives one: the bytes stored for a read, 0 otherwise. -/
def Exch.own (e : Exch) (x : Start) : Nat := if cmdClass (e.command x) = 2 then e.stored else 0

/-- The end of a command by the device's count (R308, R345): an error ending, or none. -/
def Exch.errorEnd (e : Exch) (d : DevEnd) : Option Ending :=
  let total := chainTotal e.cur
  let n := min d.count total
  let (i, r) := residMoved e.cur n
  let lsup := (e.cur.getLast?.map Cce.lsup).getD false
  let mk (err idx resid : Nat) (sense : List (BitVec 8)) : Ending :=
    { kind := 2, err := err, uncert := false, timed := (e.halt.map (·.timed)).getD false, devst := d.devst, idx := idx,
      resid := resid, sense := sense }
  match e.curStop with
  | some st => some (mk st.err st.idx st.resid [])
  | none =>
    if d.dck then some (mk 0xA i r d.sense)
    else if d.count ≠ total ∧ lsup = false then some (mk 9 i r [])
    else none

/-- The CCEs of a chain that lie wholly below a command offset. -/
def ccesBelow : List Cce → Nat → Nat
  | [], _ => 0
  | c :: cs, n => if c.count ≤ n then ccesBelow cs (n - c.count) + 1 else 0

/-- One IOC completion (R322). -/
def Exch.progress (e : Exch) (i : Nat) : Exch :=
  { e with prog := e.prog + 1, progDue := match e.progDue with | some k => some k | none => some i }

/-- The CCEs of the current command whose data lies below a command offset are counted as complete, but for its last one
(R322). -/
def Exch.count (e : Exch) (pos : Nat) : Exch :=
  let n := min (ccesBelow e.cur pos) (e.cur.length - 1)
  ((e.cur.take n).drop e.counted).foldl (fun e c => if c.ioc then e.progress c.idx else e) { e with counted := max n e.counted }

/-- The current command has ended without error: the program goes on, or the start is complete. -/
def Exch.goodEnd (e : Exch) (d : DevEnd) : Exch :=
  let (i, r) := residMoved e.cur (min d.count (chainTotal e.cur))
  match e.cur.getLast? with
  | none => e
  | some c =>
    if c.chc then
      let e := if c.ioc && r == 0 && i == c.idx then e.progress c.idx else e
      { e with more := true }
    else e.finish { kind := 1, err := 0, uncert := false, timed := (e.halt.map (·.timed)).getD false, devst := d.devst, idx := i,
                    resid := r, sense := [] }

/-- A CMDEND taken by a start that is not being stopped (R345). -/
def Exch.commandEnd (e : Exch) (d : DevEnd) : Exch :=
  match e.errorEnd d with
  | some x => e.finish x
  | none => e.goodEnd d

/-- A halt or clear answered with RESULT 1, once the command's CMDEND is there (R346). -/
def Exch.haltEnd (e : Exch) (x : Start) (h : Halting) (d : DevEnd) : Exch :=
  match e.errorEnd d with
  | some z => e.finish z
  | none =>
    let read := cmdClass e.cur == 2
    let last := (e.cur.getLast?.map Cce.chc).getD false
    if !last && (!read || decide (min d.count (chainTotal e.cur) ≤ e.stored)) then e.goodEnd d
    else e.cut x (if h.clear then 4 else 3) 0 (if read then e.stored else d.count) d.devst false

/-! ### Storing statuses (R318, R320, R322) -/

/-- A status record's words. -/
def statusWords (s : State) (kind : Nat) (susp uncert failover timed : Bool) (err devst prog user sbk idx resid : Nat) : List Word :=
  [BitVec.ofNat 64 (kind * 2 ^ 60 + b2n susp * 2 ^ 59 + b2n uncert * 2 ^ 58 + b2n failover * 2 ^ 57 + b2n timed * 2 ^ 56
      + err * 2 ^ 48 + devst * 2 ^ 40 + min prog 255 * 2 ^ 32 + user),
   BitVec.ofNat 64 sbk, BitVec.ofNat 64 (idx * 2 ^ 32 + resid), todMid s]

/-- A status is placed in the IOQ and makes one I/O interruption pending; the sequencer's own start (R427) makes none, and a
start that a partition reset cleared stores nothing (R428). -/
def addStatus (s : State) (x : Start) (ending : Bool) (ws : List Word) : State :=
  if x.gone then s else
  { s with stats := s.stats ++ [{ id := s.statSeq, ioq := x.ioq, xid := x.xid, ending := ending, words := ws }]
           ioInts := if x.pu.isSome then s.ioInts ++ [{ ioq := x.ioq, status := s.statSeq }] else s.ioInts
           statSeq := s.statSeq + 1 }

/-- A stored status goes, with its interruption and its reservation. -/
def dropStatus (s : State) (id : Nat) : State :=
  { s with stats := s.stats.filter (fun y => y.id != id), ioInts := s.ioInts.filter (fun i => i.status != id) }

/-- The progress status a start has stored and not yet taken. -/
def progressOf (s : State) (x : Start) : Option IoStatus :=
  s.stats.find? (fun y => y.ioq == x.ioq && y.xid == x.xid && !y.ending)

/-- The sense record of a start (R317). -/
def senseRecord (user : Nat) (b : List (BitVec 8)) : List Word :=
  BitVec.ofNat 64 (min b.length 56 * 2 ^ 56 + user) ::
    (List.range 7).map (fun i => BitVec.ofNat 64 (ofBE ((b.take 56 ++ List.replicate 56 0).drop (8 * i) |>.take 8)))

/-- The ending status of a start is stored (R318, R320, R322). -/
def storeEnding (s : State) (x : Start) (prog : Nat) (failover : Bool) (d : Ending) : State :=
  let s := match progressOf s x with | some y => dropStatus s y.id | none => s
  let susp := (d.kind == 2 || d.kind == 3) && !x.nosusp && !x.gone
  let ws := statusWords s d.kind susp d.uncert failover d.timed d.err d.devst prog x.user x.sbk d.idx d.resid
  let s := addStatus { s with starts := s.starts.filter (fun y => !(y.ioq == x.ioq && y.xid == x.xid)) } x true ws
  let s := if susp then { s with susp := s.susp ++ [x.ioq] } else s
  if d.sense.isEmpty || x.gone then s else { s with sense := spPut s.sense x.ioq (some (senseRecord x.user d.sense)) }

/-- The pair of an exchange's path. -/
def exchPair (s : State) (x : Start) (e : Exch) : Option Nat := e.path.map (fun k => pathPair s (ioqGroup s x.ioq) k)

/-- The ending of an active start is stored, and its ENDACK is due (R345). -/
def endStart (s : State) (x : Start) (e : Exch) (d : Ending) : State :=
  let pair := exchPair s x e
  let s := storeEnding s x e.prog e.failover d
  let s := { s with ended := spPut s.ended x.ioq (some { xid := x.xid, rxSeq := e.rxSeq }) }
  match pair with
  | some k => { s with endacks := s.endacks ++ [{ ioq := x.ioq, xid := x.xid, rxSeq := e.rxSeq, port := k / 4096, cu := k % 4096 }] }
  | none => s

/-- PROGCNT of a stored progress status follows its start's count (R322). -/
def raiseProg (s : State) (id prog : Nat) : State :=
  { s with stats := s.stats.map (fun y =>
      if y.id = id then { y with words := (wordSet (y.words.headD 0) 39 32 (min prog 255)) :: y.words.tail } else y) }

/-- STATUS_STORE (R310, R320, R322): the ending of an active start, or its progress status. -/
def execStatusStore (ioq : Fin 262144) (s : State) : Host.Outcome State Fault Refusal :=
  match activeOf s ioq.val with
  | none => .next s
  | some (x, e) =>
    match e.ending with
    | some d => .next (endStart s x e d)
    | none =>
      match e.progDue with
      | none => .next s
      | some i =>
        let s := s.setExch ioq.val { e with progDue := none, told := e.prog }
        .next (match progressOf s x with
          | some y => raiseProg s y.id e.prog
          | none => addStatus s x false (statusWords s 8 false false e.failover false 0 e.devst e.prog x.user x.sbk i 0))

/-! ### Paths and dispatch (R301, R327, R343) -/

/-- The exchanges placed on a path. -/
def pathLoad (s : State) (g k : Nat) : Nat :=
  (s.starts.filter (fun x => match x.exch with | some e => ioqGroup s x.ioq == g && e.path == some k | none => false)).length

/-- Path k of a group is defined and operational. -/
def pathUp (s : State) (g k : Nat) : Bool := pathV s g k && pathOper s g k

/-- An exchange may be newly placed on the path: none of its pair's ECHOs waits (R340). -/
def pathOpen (s : State) (g k : Nat) : Bool := pathUp s g k && (s.pair (pathPair s g k)).echo.isNone

/-- The first of some numbers with the least value of f. -/
def leastBy (f : Nat → Nat) : List Nat → Option Nat
  | [] => none
  | x :: xs => match leastBy f xs with
    | none => some x
    | some y => if f y < f x then some y else some x

/-- The path a new exchange begins on: the fewest exchanges, then the lowest k (R343). -/
def firstPath (s : State) (g : Nat) : Option Nat := leastBy (pathLoad s g) ((List.range 8).filter (pathOpen s g))

/-- The next path of a group after k, in ascending cyclic order (R343). -/
def nextPath (s : State) (g k : Nat) : Option Nat := ((List.range 8).map (fun i => (k + 1 + i) % 8)).find? (pathOpen s g)

/-- CESTAT.ROLE of an engine is active. -/
def engineActive (s : State) (n : Nat) : Bool := ccsFld s (0x0201000100 + 8 * n) 63 62 == 0

/-- The active engine with the fewest exchanges, the lowest on a tie (R301). -/
def pickEngine (s : State) : Option Nat := leastBy (engineLoad s) ((List.range 18).filter (engineActive s))

/-- The oldest queued start that may become active when an engine has room. -/
def nextStart (s : State) : Option Start :=
  s.starts.find? (fun x => x.exch.isNone && (activeOf s x.ioq).isNone && !s.susp.contains x.ioq && ioqState s x.ioq != 0)

/-- The start becomes active (R301, R343). -/
def dispatch (s : State) (x : Start) (n : Nat) : State :=
  let p := firstPath s (ioqGroup s x.ioq)
  let e := { Exch.fresh n with path := p, lastK := p.getD 7 }
  { s with starts := s.starts.map (fun y => if y.ioq = x.ioq ∧ y.xid = x.xid then { y with exch := some e } else y) }

/-- The first eligible start becomes active when an engine has fewer than 4,096 exchanges. -/
def dispatchNext (s : State) : State :=
  match nextStart s, pickEngine s with
  | some x, some n => if engineLoad s n < 4096 ∧ csState s = 1 then dispatch s x n else s
  | _, _ => s

/-- Every start that may become active does, in order of acceptance (R301). -/
def dispatchAll : Nat → State → State
  | 0, s => s
  | n + 1, s => dispatchAll n (dispatchNext s)

/-- START_DISPATCH (R301). -/
def execStartDispatch (s : State) : Host.Outcome State Fault Refusal := .next (dispatchNext s)

/-- An exchange moves to the next path of its group, or waits for one (R327, R343); one that has sent nothing and waited for
its first path begins on it. -/
def movePath (s : State) (x : Start) (e : Exch) : State :=
  let begins := e.path.isNone && e.txSeq == 0
  match (if begins then firstPath s (ioqGroup s x.ioq) else nextPath s (ioqGroup s x.ioq) e.lastK) with
  | some k => s.setExch x.ioq { e with path := some k, lastK := k, expiries := 0, lost := 0, resume := !begins, moved := !begins }
  | none => s.setExch x.ioq { e with path := none, expiries := 0, lost := if e.path.isNone then e.lost else 0 }

/-- Every exchange whose path is gone moves, and every exchange that waits for one takes it (R327, R340, R343). -/
def rehome (s : State) : State :=
  s.starts.foldl (fun s x =>
    match activeOf s x.ioq with
    | some (y, e) =>
      let up := match e.path with | some k => pathUp s (ioqGroup s y.ioq) k | none => false
      if y.xid = x.xid ∧ up = false ∧ csState s = 1 then movePath s y e else s
    | none => s) s

/-- The exchange's group has no operational path, or no engine is left (R326, R327). -/
def pathless (s : State) (q : Nat) (e : Exch) : Bool :=
  e.path.isNone && (csState s == 2 || !(List.range 8).any (pathUp s (ioqGroup s q)))

/-- PATH_LOSS_TIMEOUT (R327): the first tick counted begins the first shutter. -/
def execPathLossTimeout (ioq : Fin 262144) (s : State) : Host.Outcome State Fault Refusal :=
  match activeOf s ioq.val with
  | none => .next s
  | some (x, e) =>
    if pathless s ioq.val e = true ∧ max 1 (ccsFld s 0x0201000000 47 32) * 1024 < e.lost then
      .next (s.setExch ioq.val (e.cut x 2 0xB (e.own x) e.devst true))
    else .next s

/-! ### Halting and clearing (R314, R315, R319) -/

/-- The active start of an IOQ begins to be stopped. -/
def stopStart (s : State) (q : Nat) (clear timed : Bool) : State :=
  match activeOf s q with
  | some (_, e) => s.setExch q { e with halt := some { clear := clear, timed := timed, sends := 0, result := none } }
  | none => s

/-- IOCLEAR of an IOQ and its condition code, without the partition check (R315, R404). -/
def clearIoq (s : State) (q : Nat) : State × Nat :=
  if csState s = 0 ∨ ioqV s q = false then (s, 3)
  else
    let halting : Option Halting := (activeOf s q).bind (fun y => y.2.halt)
    if (halting.map (·.clear)).getD false then (s, 1)
    else
      let s := (s.starts.filter (fun x => x.ioq == q && x.exch.isNone)).foldl (fun s x =>
        storeEnding s x 0 false { kind := 4, err := 0, uncert := false, timed := false, devst := 0, idx := 0,
                                  resid := bits x.c0.toNat 31 0, sense := [] }) s
      let s := stopStart s q true ((halting.map (·.timed)).getD false)
      ({ s with susp := s.susp.filter (· != q), sense := spErase s.sense q }, 0)

/-- START_TIMER_EXPIRY (R319): the first tick counted begins the first shutter. -/
def execStartTimerExpiry (ioq : Fin 262144) (s : State) : Host.Outcome State Fault Refusal :=
  match activeOf s ioq.val with
  | some (x, e) =>
    if x.tmo ≠ 0 ∧ x.tmo * 1024 < e.ticks ∧ e.halt.isNone ∧ e.ending.isNone then .next (stopStart s ioq.val false true)
    else .next s
  | none => .next s

/-! ### The I/O instructions (R107, R108, R311 to R317) -/

def opIostart : OpInfo := { opLen := 1, slots := [(.S, .rd), (.M, .rd), (.R, .wr)], o := true, a := false, n := false, pl := 2, t4 := false }
def opIo1 : OpInfo := { opLen := 1, slots := [(.S, .rd)], o := false, a := false, n := false, pl := 2, t4 := false }
def opIo2 : OpInfo := { opLen := 1, slots := [(.S, .rd), (.M, .wr)], o := true, a := false, n := false, pl := 2, t4 := false }

/-- An IOQ designator's bits 63:18 are 0 (R108). -/
def designator (c : Ctx) (w : TWord) : M Nat := do
  guardM (decide (w.data.toNat < 2 ^ 18)) (c.fail 0x0006)
  pure w.data.toNat

/-- A request to the subsystem: after every earlier access, and at most 8 in one shutter (R262, R310). -/
def ioRequest (c : Ctx) (q : Nat) (act : State → State × List Nat) : M (List Nat) := do
  let s ← get
  let p := s.pu c.pu
  if storesWaiting p || strictPending p.mb then waitStores c
  if p.latch.length ≤ p.latchPos ∧ 8 ≤ p.chanCnt then waitFor
  let r ← latched c .io q (do
    let s ← get
    let (s, r) := act s
    set (s.modPu c.pu (fun p => { p with chanCnt := p.chanCnt + 1 }))
    pure (r.map (fun n => intWord (BitVec.ofNat 64 n))))
  pure (r.map (fun w => w.data.toNat))

/-- The IOQ answers a program of partition p: assigned to it, configured, subsystem enabled. -/
def ioqThere (s : State) (p q : Nat) : Bool := csState s != 0 && ioqPart s q == p && ioqV s q

/-- An accepted start is held, in the commit ring, and active at once where nothing comes before it (R298, R311, R324). -/
def acceptStart (s : State) (x : Start) : State × Bool :=
  let s := { s with starts := s.starts ++ [x], ring := s.ring ++ [(x.ioq, x.xid)],
                    xidNext := spSet 0 s.xidNext x.ioq ((x.xid + 1) % 2 ^ 32),
                    newest := spPut s.newest x.ioq (some (x.user, x.sbk)) }
  let n := s.ring.length
  let s := if ccsFld s 0x0201000008 31 16 < n then ccsSet s 0x0201000008 31 16 n else s
  let t := dispatchAll s.starts.length s
  (t, t.starts.any (fun y => y.ioq == x.ioq && y.xid == x.xid && y.exch.isSome))

/-- IOSTART at the subsystem (R311): condition code and DEFERRED. -/
def ioStart (n p q sbk : Nat) (ws : List Word) (s : State) : State × List Nat :=
  let g := ioqGroup s q
  if !ioqThere s p q || csState s != 1 || !(List.range 8).any (pathUp s g) then (s, [3, 0])
  else if s.susp.contains q then (s, [1, 0])
  else if 16 ≤ nStarts s q ∨ 4096 ≤ s.ring.length then (s, [2, 0])
  else
    let w0 := (ws.headD 0).toNat
    let x : Start :=
      { ioq := q, xid := spGet 0 s.xidNext q, user := bits w0 31 0, sbk := sbk, nosusp := bit w0 55, tmo := bits w0 47 32,
        c0 := ws.getD 1 0, c1 := ws.getD 2 0, rest := ws.getD 3 0, pu := some n, gone := false, exch := none }
    let (s, now) := acceptStart s x
    (s, [0, b2n !now])

/-- IOSTART (R302, R311). -/
def execIostart (h : Hdr) (op1 op2 op3 : Spec) (s : State) : Host.Outcome State Fault Refusal :=
  instr h opIostart [op1, op2, op3] (fun c => do
    let sp := [op1, op2, op3]
    let d ← source c (place opIostart sp 1) 8 tagsInt op1
    let ms ← longOperand c (place opIostart sp 2) 4 32 op2
    let rd ← readPair c tagsInt ms
    let ws : List Word := rd.map (fun (w : TWord) => w.data)
    let q ← designator c d
    let s ← get
    let p := pswPart (s.pu c.pu).psw
    let w0 := (ws.headD 0).toNat
    guardM (bits w0 63 59 == p && bits w0 58 56 == 0 && bits w0 54 48 == 0 && (ws.getD 3 0).toNat % 16 == 0)
      (c.fail 0x0006)
    let sbk := (ms.head?.map (·.abs)).getD 0
    let r ← ioRequest c q (ioStart c.pu p q sbk ws)
    commitTo c opIostart sp (.reg (regNum op3)) (intWord (BitVec.ofNat 64 (r.getD 1 0))) (fun p => p.setCC (r.headD 3))) s

/-- IOHALT at the subsystem (R314). -/
def ioHalt (p q : Nat) (s : State) : State × List Nat :=
  if !ioqThere s p q then (s, [3])
  else match activeOf s q with
    | none => (s, [2])
    | some (_, e) => if e.halt.isSome then (s, [1]) else (stopStart s q false false, [0])

/-- IOCLEAR at the subsystem (R315). -/
def ioClear (p q : Nat) (s : State) : State × List Nat :=
  if !ioqThere s p q then (s, [3]) else let (s, cc) := clearIoq s q; (s, [cc])

/-- IOHALT and IOCLEAR. -/
def ioStop (act : Nat → Nat → State → State × List Nat) (op1 : Spec) (c : Ctx) : M Unit := do
  let d ← source c (place opIo1 [op1] 1) 8 tagsInt op1
  let q ← designator c d
  let s ← get
  let r ← ioRequest c q (act (pswPart (s.pu c.pu).psw) q)
  commit c opIo1 [op1] [] (fun p => p.setCC (r.headD 3))

def execIohalt (h : Hdr) (op1 : Spec) (s : State) : Host.Outcome State Fault Refusal := instr h opIo1 [op1] (ioStop ioHalt op1) s

def execIoclear (h : Hdr) (op1 : Spec) (s : State) : Host.Outcome State Fault Refusal := instr h opIo1 [op1] (ioStop ioClear op1) s

/-- A status is taken (R316): its interruption is withdrawn, and a suspending ending ends the suspension. -/
def takeStatus (s : State) (y : IoStatus) : State :=
  let s := dropStatus s y.id
  if y.ending then
    if bit (y.words.headD 0).toNat 59 then { s with susp := s.susp.filter (· != y.ioq) } else s
  else
    { s with starts := s.starts.map (fun x =>
        if x.ioq = y.ioq ∧ x.xid = y.xid then { x with exch := x.exch.map (fun e =>
            { e with prog := e.prog - e.told, told := 0 }) } else x) }

/-- The sequencer takes this status itself (R427). -/
def sequencerTakes (s : State) (y : IoStatus) : Bool :=
  match s.boot.job with
  | some (.ipl _ _ q xid) => y.ioq == q && y.xid == xid
  | _ => false

/-- IOTEST at the subsystem (R316): condition code, then the four words to store. -/
def ioTest (p q : Nat) (s : State) : State × List Nat :=
  if !ioqThere s p q then (s, [3])
  else match s.stats.find? (fun y => y.ioq == q && !sequencerTakes s y) with
    | some y => (takeStatus s y, 0 :: y.words.map (·.toNat))
    | none =>
      let (u, b) := (spFind s.newest q).getD (0, 0)
      (s, [if nStarts s q = 0 then 2 else 1, u, b, nStarts s q, (todMid s).toNat])

/-- IOSENSE at the subsystem (R317). -/
def ioSense (p q : Nat) (s : State) : State × List Nat :=
  if !ioqThere s p q then (s, [3])
  else match spFind s.sense q with
    | some ws => (s, 0 :: ws.map (·.toNat))
    | none => (s, [1])

/-- IOTEST and IOSENSE: n words into an area aligned on its size, which is checked at step 7. -/
def ioFetch (act : Nat → Nat → State → State × List Nat) (n : Nat) (op1 op2 : Spec) (c : Ctx) : M Unit := do
  let sp := [op1, op2]
  let d ← source c (place opIo2 sp 1) 8 tagsInt op1
  let ms ← longOperand c (place opIo2 sp 2) n 1 op2
  let q ← designator c d
  guardM ((ms.head?.map (·.va)).getD 0 % (8 * n) == 0) (c.fail 0x0006)
  match ms with
  | m :: _ => checkPolicy c m tagInt
  | [] => pure ()
  let s ← get
  let sts := ms.map (fun m => storeOf s c.pu m (intWord 0))
  if ((s.pu c.pu).push sts).isNone then pushStores c sts
  let r ← ioRequest c q (act (pswPart (s.pu c.pu).psw) q)
  let s ← get
  let sts := (ms.zip r.tail).map (fun (m, v) => storeOf s c.pu m (intWord (BitVec.ofNat 64 v)))
  commit c opIo2 sp sts (fun p => p.setCC (r.headD 3))

def execIotest (h : Hdr) (op1 op2 : Spec) (s : State) : Host.Outcome State Fault Refusal :=
  instr h opIo2 [op1, op2] (ioFetch ioTest 4 op1 op2) s

def execIosense (h : Hdr) (op1 op2 : Spec) (s : State) : Host.Outcome State Fault Refusal :=
  instr h opIo2 [op1, op2] (ioFetch ioSense 8 op1 op2) s

/-! ### The commit ring (R324) -/

/-- A start that no copy holds any more ends with STATELOST (R329): USER and SBKADDR as recovered or 0; the spec gives no CCEIDX and no
RESID. -/
def loseStart (s : State) (x : Start) (kept : Bool) : State :=
  let (i, s) := drawFree s
  let (r, s) := drawFree s
  let x := if kept then x else { x with user := 0, sbk := 0, nosusp := false }
  let d : Ending := { kind := 2, err := 0xC, uncert := true, timed := false, devst := (x.exch.map (·.devst)).getD 0,
                      idx := i.toNat % 2 ^ 32, resid := r.toNat % 2 ^ 32, sense := [] }
  let s := match x.exch with
    | some e => { s with starts := s.starts.map (fun y =>
        if y.ioq = x.ioq ∧ y.xid = x.xid then { x with exch := some (e.finish d) } else y) }
    | none => storeEnding s x 0 false d
  ccsAdd s 0x0201000008 15 0 1

/-- The starts lost in a shutter (R329): a ring entry lost in both banks before its spill, or a spilled start in both banks and both
journal copies. A start that has its ending already keeps it. -/
def loseStarts : List LostStart → State → State
  | [], s => s
  | l :: ls, s =>
    let (q, xid) := (l.ioq.val, l.xid.toNat)
    loseStarts ls (match s.starts.find? (fun x => x.ioq == q && x.xid == xid) with
      | some x =>
        if (x.exch.bind (·.ending)).isSome then s else loseStart { s with ring := s.ring.filter (· != (q, xid)) } x l.kept
      | none => s)

/-- JOURNAL_SPILL (R324): the oldest start of the ring is in both journal copies, and its entry is free. -/
def execJournalSpill (s : State) : Host.Outcome State Fault Refusal := .next { s with ring := s.ring.tail }

/-! ### Engine failure (R326) -/

/-- The failover report of a partition (R326): at its lowest PU in STATE RUN, or later. -/
def reportFailover (s : State) (p n : Nat) : State :=
  match (pusOf s p).find? (fun k => puState s k == 1) with
  | some k => logOutside s k 0x10 (BitVec.ofNat 64 n) .extd
  | none => { s with failRep := s.failRep ++ [(p, n)] }

/-- Reports that waited for a PU in STATE RUN become pending. -/
def pendingReports (s : State) : State :=
  s.failRep.foldl (fun s r => reportFailover s r.1 r.2) { s with failRep := [] }

/-- One exchange of a failed engine moves to another. -/
def failOver (s : State) (x : Start) (e : Exch) (n : Nat) : State :=
  s.setExch x.ioq { e with engine := n, failover := true, resume := true, moved := true }

/-- CHANNEL_ENGINE_FAILURE (R326), by its own checking or by two missed heartbeats. -/
def failEngine (s : State) (n : Nat) : State :=
  let reg (k : Nat) : Nat := 0x0201000100 + 8 * k
  let role := ccsFld s (reg n) 63 62
  if role = 2 then s
  else
    let s := ccsSet s (reg n) 63 62 2
    let spares := ccsFld s 0x0201000008 47 44
    if role = 1 then ccsSet s 0x0201000008 47 44 (spares - 1)
    else
      let mine := s.starts.filterMap (fun x => match x.exch with | some e => if e.engine = n then some (x, e) else none | none => none)
      let parts := (mine.map (fun y => ioqPart s y.1.ioq)).eraseDups
      let s := match [16, 17].find? (fun k => ccsFld s (reg k) 63 62 == 1) with
        | some k =>
          let s := ccsSet (ccsSet (ccsSet s (reg k) 63 62 0) (reg k) 55 48 n) 0x0201000008 47 44 (spares - 1)
          mine.foldl (fun s y => failOver s y.1 y.2 k) s
        | none =>
          mine.foldl (fun s y => match pickEngine s with
            | some k => ccsSet (failOver s y.1 y.2 k) (reg k) 55 48 n
            | none => s.setExch y.1.ioq { y.2 with failover := true, path := none, lost := 0 }) s
      let s := parts.foldl (fun s p => reportFailover s p n) s
      if (pickEngine s).isNone ∧ csState s = 1 then
        { ccsSet s 0x0201000008 63 62 2 with
          starts := s.starts.map (fun x => { x with exch := x.exch.map (fun e => { e with path := none, lost := 0 }) }) }
      else s

def execChannelEngineFailure (engine : Fin 18) (s : State) : Host.Outcome State Fault Refusal := .next (failEngine s engine.val)

/-! ### Enabling (R325) -/

/-- The active range that holds a whole journal copy. -/
def journalRange (s : State) (b : Nat) : Option Nat :=
  (List.range 6).find? (fun d => inRange s d (b * 2 ^ 20) && inRange s d (b * 2 ^ 20 + 2 ^ 29 - 1))

/-- The journal bases meet R325: whole ranges, no overlap, different homes line by line. -/
def journalOk (s : State) : Bool :=
  let a := ccsFld s 0x0201000010 51 20
  let b := ccsFld s 0x0201000018 51 20
  match journalRange s a, journalRange s b with
  | some d, some e =>
    let n := groupSize (mapOf s d).2.1
    (decide (a + 512 ≤ b) || decide (b + 512 ≤ a))
      && (mapOf s d != mapOf s e || decide ((a * 256 + (n - b * 256 % n)) % n ≠ 0))
  | _, _ => false

/-- A write of CSCTL (R325): EN, then PATHTO. -/
def csCtlWrite (s : State) (v : Word) : State :=
  if modSealed s then s
  else
    let s := ccsSet s 0x0201000000 47 32 (bits v.toNat 47 32)
    if bit v.toNat 63 then
      if csState s ≠ 0 then s
      else if journalOk s then
        let s := ccsSet (ccsSet s 0x0201000000 63 63 1) 0x0201000008 55 48 1
        let s := ccsSet s 0x0201000008 63 62 (if (pickEngine s).isNone then 2 else 1)
        { s with epoch := todMid s, xidNext := [] }
      else ccsSet s 0x0201000008 55 48 2
    else if csState s = 0 then s
    else if s.starts.isEmpty && !s.stats.any (·.ending) then
      ccsSet (ccsSet s 0x0201000000 63 63 0) 0x0201000008 63 62 0
    else ccsSet s 0x0201000008 61 61 1

/-- CSCTL_ENABLE (R325): a write of CSCTL. -/
def execCsctlEnable (v : Word) (s : State) : Host.Outcome State Fault Refusal := .next (csCtlWrite s v)

def csDrop (s : State) : State := ccsSet s 0x0201000008 61 61 1

/-- A write of JRNA or JRNB. -/
def journalWrite (s : State) (a : Nat) (v : Word) : State :=
  if modSealed s then s else if csState s ≠ 0 then csDrop s else ccsPut s a (v &&& 0xFFFFFFFF00000)

/-! ### Configuration writes (R299) -/

/-- The IOQs that hold a start or an ending. -/
def heldIoqs (s : State) : List Nat := (s.starts.map (·.ioq) ++ (s.stats.filter (·.ending)).map (·.ioq)).eraseDups

/-- The partition an IOQ would have by the registers as last written, register `a` holding `v`. -/
def ioqPartWith (s : State) (a v q : Nat) : Nat :=
  match ((pioqrAddrs s ++ [a]).eraseDups).find? (fun b => rangeCovers (if b = a then v else (ccsGet s b).toNat) q) with
  | some b => (b - 0x20000) / 0x1000
  | none => 0

/-- Two range values overlap. -/
def rangesOverlap (v w : Nat) : Bool :=
  bits v 49 48 == bits w 49 48 && decide (bits v 47 32 < bits w 47 32 + bits w 16 0)
    && decide (bits w 47 32 < bits v 47 32 + bits v 16 0)

/-- A write of PIOQRr of partition p (R299). -/
def pioqrWrite (s : State) (p r : Nat) (v : Word) : State :=
  let a := partReg p (0x800 + 8 * r)
  let w := (v &&& 0x8003FFFF0001FFFF).toNat
  let bad :=
    (bit w 63 && (bits w 16 0 == 0 || decide (65536 < bits w 47 32 + bits w 16 0)
      || (pioqrAddrs s).any (fun b => (b - 0x20000) / 0x1000 != p && bit (ccsGet s b).toNat 63 && rangesOverlap w (ccsGet s b).toNat)))
    || (heldIoqs s).any (fun q => ioqPartWith s a w q != ioqPartWith s a (ccsGet s a).toNat q)
  if partSealed s p then s else if bad then csDrop s else delayWrite s a (BitVec.ofNat 64 w) 2

/-- PIOQR_WRITE (R299). -/
def execPioqrWrite (p : Fin 32) (r : Fin 64) (v : Word) (s : State) : Host.Outcome State Fault Refusal :=
  .next (pioqrWrite s p.val r.val v)

/-- A write of IOQCFG: none while the IOQ holds starts. -/
def ioqCfgWrite (s : State) (q : Nat) (v : Word) : State :=
  if partSealed s (ioqPart s q) then s
  else if nStarts s q ≠ 0 then csDrop s
  else delayWrite s (ioqReg q) (v &&& 0x8FFFFFFF00000000) 2

/-- A write of a path entry. -/
def pathWrite (s : State) (a : Nat) (v : Word) : State :=
  if modSealed s then s else delayWrite s a (v &&& 0xA0F00FFF00000000) 2

/-- The subsystem at a tick, once waiting writes have come into force: IOQs that changed partition lose their sense data;
exchanges age, and those without a path count their wait; heartbeats and failover reports. `old` is the state before. -/
def channelTick (old s : State) : State :=
  let moved (q : Nat) : Bool := ioqPart old q != ioqPart s q
  let s := { s with sense := s.sense.filter (fun x => !moved x.1), newest := s.newest.filter (fun x => !moved x.1) }
  let s := { s with starts := s.starts.map (fun x => { x with exch := x.exch.map (fun e =>
      { e with ticks := e.ticks + 1, lost := if pathless s x.ioq e then e.lost + 1 else 0 }) }) }
  pendingReports (rehome s)

end Sys2Proof.Machine
end

