-- ==== Sys2Proof/Machine/Link.lean ====
section
/-! DEFINITION. The channel link protocol (R330 to R347): Ethernet frames built and checked byte by byte, pairs with LOGIN and
ECHO, and the sequenced exchange between the channel and a control unit. -/

namespace Sys2Proof.Machine

/-! ### Ports and pairs -/

def chpReg (p off : Nat) : Nat := 0x0202000000 + 0x1000 * p + off
def cuReg (c off : Nat) : Nat := 0x0202100000 + 32 * c + off
def chpLink (s : State) (p : Nat) : Bool := ccsFld s (chpReg p 0x28) 63 63 == 1
def chpPaused (s : State) (p : Nat) : Bool := ccsFld s (chpReg p 0x28) 62 62 == 1
def chpIp (s : State) (p : Nat) : Nat := (ccsGet s (chpReg p 0x18)).toNat * 2 ^ 64 + (ccsGet s (chpReg p 0x20)).toNat
def cuIp (s : State) (c : Nat) : Nat := (ccsGet s (cuReg c 0)).toNat * 2 ^ 64 + (ccsGet s (cuReg c 8)).toNat

/-- CHPCTL.RTO and RETRY; 0 acts as 1. -/
def chpRto (s : State) (p : Nat) : Nat := max 1 (ccsFld s (chpReg p 0) 15 8)
def chpRetry (s : State) (p : Nat) : Nat := max 1 (ccsFld s (chpReg p 0) 3 0)

/-- CHPERR: one more discarded frame, in its field. -/
def badRx (s : State) (p : Nat) : State := ccsAdd s (chpReg p 0x30) 15 0 1

/-- The path entries that are listed or waiting for their tick. -/
def pathsListed (s : State) : List (Nat × Nat) :=
  (s.regs.map (·.1) ++ s.pend.map (·.addr)).filterMap (fun a =>
    match regAt a with
    | some (r, [g, k]) => if r.name == .path then some (g, k) else none
    | _ => none)

/-- A path of the pair is defined (R339), and one of them is sealed (R338). -/
def pairUsed (s : State) (key : Nat) : Bool := (pathsListed s).any (fun x => pathV s x.1 x.2 && pathPair s x.1 x.2 == key)

def pairSealed (s : State) (key : Nat) : Bool :=
  (pathsListed s).any (fun x => pathV s x.1 x.2 && pathPair s x.1 x.2 == key && forceFld s (pathReg x.1 x.2) 61 61 == 1)

/-- A link engine works: neither both fenced or frozen, nor stopped for entropy (R384). -/
def linkEngine (s : State) : Bool :=
  ccsFld s 0x0205000000 59 59 == 0 && (ccsFld s 0x0205000000 63 62 == 0 || ccsFld s 0x0205000000 61 60 == 0)

/-- The keys a pair seals with, and accepts (R383). -/
def sealKey (s : State) (cu : Nat) : Option (BitVec 256) := if linkEngine s then (linkKey s cu).cur else none

def openKeys (s : State) (cu : Nat) : List (BitVec 256) :=
  let k := linkKey s cu
  if linkEngine s then k.cur.toList ++ (if 0 < k.grace then k.prev.toList else []) else []

/-! ### Frames as bytes (R331 to R338) -/

def hdrBytes (f : ChanFrame) : List (BitVec 8) :=
  bytesBE 8 f.w0.toNat ++ bytesBE 8 f.w1.toNat ++ bytesBE 8 f.w2.toNat ++ bytesBE 8 f.w3.toNat

/-- The tag block: one nibble for each 8 data bytes, an odd last one padded with 0 (R337). -/
def tagBlock (ts : List (BitVec 4)) : List (BitVec 8) :=
  (pieces 2 ts.length ts).map (fun p => (p.headD 0) ++ (p.getD 1 0))

def frameType (f : ChanFrame) : Nat := bits f.w0.toNat 55 48
def frameArg (f : ChanFrame) : Nat := bits f.w2.toNat 31 16
def frameAck (f : ChanFrame) : Nat := bits f.w2.toNat 63 32
def frameSeq (f : ChanFrame) : Nat := bits f.w1.toNat 31 0
def frameIoq (f : ChanFrame) : Nat := bits f.w1.toNat 49 32
def frameXid (f : ChanFrame) : Nat := bits f.w0.toNat 31 0

/-- PCP of a frame type (R331). -/
def framePcp (t : Nat) : Nat := if 0x20 ≤ t ∧ t ≤ 0x23 then 7 else 3

def mkFrame (type unit xid ioq seq ack arg : Nat) (last : Bool) (data : List (BitVec 8)) (tags : List (BitVec 4)) : ChanFrame :=
  { w0 := BitVec.ofNat 64 (2 ^ 60 + b2n (!tags.isEmpty) * 2 ^ 58 + b2n last * 2 ^ 57 + type * 2 ^ 48 + unit * 2 ^ 32 + xid)
    w1 := BitVec.ofNat 64 (ioq * 2 ^ 32 + seq)
    w2 := BitVec.ofNat 64 (ack * 2 ^ 32 + arg * 2 ^ 16 + data.length)
    w3 := 0, data := data, tags := tags }

/-- The nonce of a seal: SENDER, with bit 31 set for the module, then CTR. -/
def sealNonce (key ctr : Nat) (ours : Bool) : List (BitVec 8) := bytesBE 4 (b2n ours * 2 ^ 31 + key) ++ bytesBE 8 ctr

/-- The UDP payload of a frame: header, data and tag block, seal trailer, CRC. -/
def payload (f : ChanFrame) (key : Nat) (sl : Option (BitVec 256 × Nat)) : List (BitVec 8) :=
  let body := f.data ++ tagBlock f.tags
  let bytes := match sl with
    | none => hdrBytes f ++ body
    | some (k, ctr) =>
      let h := hdrBytes { f with w0 := f.w0 ||| (1 <<< 59) }
      let n := sealNonce key ctr true
      let ct := gcmCtr (roundKeys k) n 2 body
      h ++ ct ++ bytesBE 8 ctr ++ gcmTag k n h ct
  bytes ++ bytesBE 4 (crc32c bytes).toNat

/-- The ones' complement sum of 16-bit words. -/
def sum16 (b : List (BitVec 8)) : Nat :=
  let t := ((pieces 2 (b.length / 2 + 1) b).map (fun p => (p.headD 0).toNat * 256 + (p.getD 1 0).toNat)).sum
  let u := t % 65536 + t / 65536
  u % 65536 + u / 65536

/-- The UDP checksum over pseudo-header, header and payload; never 0 (R332). -/
def udpSum (src dst sport dport : Nat) (pl : List (BitVec 8)) : Nat :=
  let len := 8 + pl.length
  let t := sum16 (bytesBE 16 src ++ bytesBE 16 dst ++ bytesBE 4 len ++ bytesBE 4 17 ++ bytesBE 2 sport ++ bytesBE 2 dport
    ++ bytesBE 2 len ++ bytesBE 2 0 ++ pl)
  if t = 65535 then 65535 else 65535 - t

/-- An Ethernet frame with its VLAN tag. -/
def ethFrame (s : State) (p pcp type : Nat) (body : List (BitVec 8)) : List (BitVec 8) :=
  bytesBE 6 (ccsFld s (chpReg p 0x10) 47 0) ++ bytesBE 6 (ccsFld s (chpReg p 8) 47 0) ++ bytesBE 2 0x8100
    ++ bytesBE 2 (pcp * 2 ^ 13 + ccsFld s (chpReg p 0) 59 48) ++ bytesBE 2 type ++ body

/-- A channel frame as the port sends it. -/
def wire (s : State) (key : Nat) (f : ChanFrame) (sl : Option (BitVec 256 × Nat)) : List (BitVec 8) :=
  let p := key / 4096
  let c := key % 4096
  let pl := payload f key sl
  let ioq := frameIoq f
  let sport := 49152 + ioq % 16384
  let dport := ccsFld s (cuReg c 0x10) 15 0
  ethFrame s p (framePcp (frameType f)) 0x86DD
    (bytesBE 4 (6 * 2 ^ 28 + ioq) ++ bytesBE 2 (8 + pl.length) ++ [17, 64] ++ bytesBE 16 (chpIp s p) ++ bytesBE 16 (cuIp s c)
      ++ bytesBE 2 sport ++ bytesBE 2 dport ++ bytesBE 2 (8 + pl.length)
      ++ bytesBE 2 (udpSum (chpIp s p) (cuIp s c) sport dport pl) ++ pl)

/-- A frame may leave on a pair now: link up, priority not paused, and a key where the pair is sealed. -/
def mayLeave (s : State) (key type : Nat) : Bool :=
  chpLink s (key / 4096) && !(framePcp type == 3 && chpPaused s (key / 4096))
    && (!pairSealed s key || (sealKey s (key % 4096)).isSome)

/-- A frame leaves on a pair with the TIME of its transmission, sealed where the pair is (R334, R338). -/
def sendFrame (s : State) (key : Nat) (f : ChanFrame) : State :=
  let f := { f with w3 := todMid s }
  let sl := if pairSealed s key then (sealKey s (key % 4096)).map (fun k => (k, spGet 1 s.linkCtr key)) else none
  let s := match sl with
    | some (_, n) => { s with linkCtr := spSet 1 s.linkCtr key (n + 1) }
    | none => s
  send s .frame (key / 4096 :: (wire s key f sl).map (·.toNat))

/-! ### Exchange frames (R341, R342) -/

def seqAdd (a n : Nat) : Nat := (a + n) % 2 ^ 32

/-- a is one of the 2^31 numbers from b + 1 on. -/
def seqAfter (a b : Nat) : Bool := let d := (a + 2 ^ 32 - b) % 2 ^ 32; decide (1 ≤ d) && decide (d ≤ 2 ^ 31)

/-- A frame of an exchange with an ACK. -/
def exFrame (s : State) (x : Start) (ack type seq arg : Nat) (last : Bool) (data : List (BitVec 8)) (tags : List (BitVec 4)) :
    ChanFrame :=
  mkFrame type (forceFld s (ioqReg x.ioq) 47 32) x.xid x.ioq seq ack arg last data tags

/-- The pair a frame of an exchange leaves on, when it may: on a new path RESUME comes first, but for HALT and CLEAR
(R343, R346). -/
def exchOut (s : State) (x : Start) (e : Exch) (type : Nat) : Option Nat :=
  match exchPair s x e with
  | some k => if mayLeave s k type && (!e.moved || type == 0x16 || type == 0x20 || type == 0x21) then some k else none
  | none => none

/-- A sequenced frame of an exchange is sent and kept until an ACK covers it; at most 64 are outstanding. -/
def sendSeq (s : State) (x : Start) (e : Exch) (type arg : Nat) (last : Bool) (data : List (BitVec 8)) (tags : List (BitVec 4)) :
    Option State :=
  if 64 ≤ e.out.length ∨ e.halt.isSome ∨ e.ending.isSome then none
  else (exchOut s x e type).map (fun k =>
    let s := sendFrame s k (exFrame s x e.rxSeq type e.txSeq arg last data tags)
    s.setExch x.ioq { e with txSeq := seqAdd e.txSeq 1, ackDue := false,
                             out := e.out ++ [⟨e.txSeq, type, arg, last, data, tags, e.rxSeq⟩] })

/-- An unsequenced frame of an exchange. -/
def sendPlain (s : State) (x : Start) (e : Exch) (type : Nat) (data : List (BitVec 8)) : Option State :=
  (exchOut s x e type).map (fun k =>
    (sendFrame s k (exFrame s x e.rxSeq type 0 0 false data [])).setExch x.ioq { e with ackDue := false })

/-- An ACK at once, or as soon as one can leave. -/
def ackNow (s : State) (x : Start) (e : Exch) : State :=
  (sendPlain s x e 0x08 []).getD (s.setExch x.ioq { e with ackDue := true })

/-- Runs an act of an active exchange; nothing happens where it cannot. -/
def onExch (s : State) (q : Nat) (f : Start → Exch → Option State) : Host.Outcome State Fault Refusal :=
  match activeOf s q with
  | some (x, e) => .next ((f x e).getD s)
  | none => .next s

/-- Sends again every outstanding frame, in order, as it first was but for TIME and seal (R334, R343). -/
def resend (s : State) (x : Start) (e : Exch) (k : Nat) : State :=
  e.out.foldl (fun s f =>
    ccsAdd (sendFrame s k (exFrame s x f.ack f.type f.seq f.arg f.last f.data f.tags)) (chpReg (k / 4096) 0x30) 63 48 1) s

/-! ### Frames the channel sends (R345 to R347) -/

/-- CMD_FRAME: ARG carries the command, CHAIN and TC; CHAIN is free where the chain's last CCE failed its checks. -/
def execCmdFrame (ioq : Fin 262144) (s : State) : Host.Outcome State Fault Refusal :=
  onExch s ioq.val (fun x e =>
    match e.nxt, e.nxt.getLast? with
    | c :: _, some l =>
      if !e.more || !e.nxtDone then none
      else
        let (free, s') := if e.nxtStop.isSome then drawFree s else (0, s)
        let chain := if e.nxtStop.isSome then free.getLsbD 0 else l.chc
        (sendSeq s' x e 0x10 (c.cmd * 256 + b2n chain * 128 + b2n c.tc * 64) false [] []).map (fun t =>
          match activeOf t ioq.val with
          | some (_, e) =>
            t.setExch ioq.val
              { e with cur := e.nxt, curStop := e.nxtStop, nxt := [], nxtStop := none, nxtDone := false, more := false, off := 0,
                       hold := [], stored := 0, counted := 0, ckpts := 0, termed := false, devEnd := none,
                       ents := [], txBase := e.txSeq, rxBase := e.rxSeq }
          | none => t)
    | _, _ => none)

/-- Where the current command's data ends: the chain's total, or where the channel stops it. -/
def Exch.limit (e : Exch) : Nat := match e.curStop with | some st => st.off | none => chainTotal e.cur

/-- A write's next DATA frame (R309, R337, R344); after IOHALT or IOCLEAR the engine reads no more (R314, R315). -/
def sendData (s : State) (x : Start) (e : Exch) : Option State :=
  if cmdClass e.cur ≠ 1 ∨ e.more = true ∨ e.devEnd.isSome ∨ e.halt.isSome ∨ e.limit ≤ e.off then none
  else
    let stop := min e.limit ((e.off / 8192 + 1) * 8192)
    let g := gather s (ioqPart s x.ioq) e.cur 9000 e.off stop
      { ents := e.ents, data := [], tags := [], tc := false, stop := none, wait := false }
    if g.wait then some (s.setExch x.ioq { e with ents := g.ents })
    else
      let e := match g.stop with | some st => { e with curStop := some st } | none => e
      let e := { e with off := e.off + g.data.length, ents := g.ents }
      if g.data.isEmpty then some (s.setExch x.ioq e)
      else sendSeq s x (e.count e.off) 0x11 0 (e.off == e.limit) g.data (if g.tc then g.tags else [])

/-- CKPT (R347): after each CCE of a read. -/
def execCkpt (ioq : Fin 262144) (s : State) : Host.Outcome State Fault Refusal :=
  onExch s ioq.val (fun x e =>
    let n := ccesBelow e.cur e.stored
    if cmdClass e.cur ≠ 2 ∨ n ≤ e.ckpts ∨ e.ending.isSome then none
    else
      (sendPlain s x e 0x12 (bytesBE 8 (chainTotal (e.cur.take (e.ckpts + 1))))).map (fun t =>
        match activeOf t ioq.val with
        | some (_, e) => t.setExch ioq.val { e with ckpts := e.ckpts + 1 }
        | none => t))

/-- TERM (R345): the channel has stopped the command before its CMDEND. -/
def execTerm (ioq : Fin 262144) (s : State) : Host.Outcome State Fault Refusal :=
  onExch s ioq.val (fun x e =>
    match e.curStop with
    | some st =>
      if e.termed || e.more || e.devEnd.isSome || decide (e.off < st.off) then none
      else (sendSeq s x { e with termed := true } 0x13 0 false (bytesBE 8 st.off) [])
    | none => none)

/-- ENDACK (R345). -/
def execEndack (ioq : Fin 262144) (s : State) : Host.Outcome State Fault Refusal :=
  match s.endacks.find? (fun a => a.ioq == ioq.val) with
  | none => .next s
  | some a =>
    let key := 4096 * a.port + a.cu
    if mayLeave s key 0x15 then
      .next (sendFrame { s with endacks := s.endacks.erase a } key
        (mkFrame 0x15 (forceFld s (ioqReg a.ioq) 47 32) a.xid a.ioq 0 a.rxSeq 0 false [] []))
    else .next s

/-- The frame of a halt or clear on the exchange's path, counted. -/
def sendHalt (s : State) (x : Start) (e : Exch) (h : Halting) : Option State :=
  let h' := { h with sends := h.sends + 1 }
  if e.ending.isSome ∨ 8 ≤ h.sends then none else sendPlain s x { e with halt := some h' } (if h.clear then 0x21 else 0x20) []

/-- HALT, CLEAR (R346): the first transmission. -/
def firstHalt (clear : Bool) (ioq : Fin 262144) (s : State) : Host.Outcome State Fault Refusal :=
  onExch s ioq.val (fun x e =>
    match e.halt with
    | some h => if h.clear = clear ∧ h.sends = 0 then sendHalt s x e h else none
    | none => none)

def execHalt (ioq : Fin 262144) (s : State) : Host.Outcome State Fault Refusal := firstHalt false ioq s

def execClear (ioq : Fin 262144) (s : State) : Host.Outcome State Fault Refusal := firstHalt true ioq s

/-- The next operational path of a group after k. -/
def nextUp (s : State) (g k : Nat) : Option Nat := ((List.range 8).map (fun i => (k + 1 + i) % 8)).find? (pathUp s g)

/-- HALT_RETRANSMISSION_TIMEOUT (R346): again on the next operational path; after 8 transmissions the start ends with UNCERT. -/
def execHaltRetransmissionTimeout (ioq : Fin 262144) (s : State) : Host.Outcome State Fault Refusal :=
  onExch s ioq.val (fun x e =>
    match e.halt with
    | none => none
    | some h =>
      if h.sends = 0 ∨ h.result.isSome ∨ e.ending.isSome then none
      else if 8 ≤ h.sends then some (s.setExch ioq.val (e.cut x (if h.clear then 4 else 3) 0 (e.own x) e.devst true))
      else match nextUp s (ioqGroup s x.ioq) e.lastK with
        | some k => sendHalt s x { e with path := some k, lastK := k } h
        | none => none)

/-- ACK_DELAY_EXPIRY (R342). -/
def execAckDelayExpiry (ioq : Fin 262144) (s : State) : Host.Outcome State Fault Refusal :=
  onExch s ioq.val (fun x e => if e.ackDue then sendPlain s x e 0x08 [] else none)

/-- An ECHO leaves on an operational pair that awaits none (R340). -/
def sendEcho (s : State) (key : Nat) : State :=
  let p := s.pair key
  if p.oper && p.echo.isNone && mayLeave s key 0x03 then
    sendFrame (s.setPair key { p with echo := some (todMid s).toNat }) key (mkFrame 0x03 0 0 0 0 0 0 false [] [])
  else s

/-- RETRANSMISSION_TIMEOUT (R343): the outstanding frames again; after RETRY expiries in a row the exchange moves. -/
def execRetransmissionTimeout (ioq : Fin 262144) (s : State) : Host.Outcome State Fault Refusal :=
  onExch s ioq.val (fun x e =>
    if e.out.isEmpty || e.halt.isSome || e.ending.isSome then none
    else (exchOut s x e 0x11).map (fun k =>
      let n := e.expiries + 1
      let s := resend (s.setExch ioq.val { e with expiries := n }) x e k
      if n < chpRetry s (k / 4096) then s
      else
        let t := movePath s x { e with expiries := 0 }
        sendEcho t k))

/-- The exchange goes back to the start of the CCE in progress, as the journal knows it (R347). -/
def Exch.restart (e : Exch) : Exch :=
  let n := ccesBelow e.cur e.stored
  let i := chainTotal (e.cur.take (min n (e.cur.length - 1))) / 8192
  if e.more then e
  else if cmdClass e.cur = 1 then
    let q := seqAdd e.txBase (chainTotal (e.cur.take (min (ccesBelow e.cur e.off) (e.cur.length - 1))) / 8192)
    { e with txSeq := q, out := e.out.filter (fun f => seqAfter q f.seq), off := (q + 2 ^ 32 - e.txBase) % 2 ^ 32 * 8192 }
  else { e with rxSeq := seqAdd e.rxBase i, off := i * 8192, stored := i * 8192, hold := [] }

/-- RESUME_FRAME (R343, R347): on a new path, after a failover, or after a restart from the journal, and then the outstanding
frames; again until a sequenced frame arrives. -/
def execResumeFrame (ioq : Fin 262144) (journal : Bool) (s : State) : Host.Outcome State Fault Refusal :=
  onExch s ioq.val (fun x e =>
    if !(e.resume || e.moved || journal) || e.ending.isSome then none
    else
      let first := e.moved || journal
      let e := if journal then e.restart else e
      (exchOut s x e 0x16).map (fun k =>
        let t := sendFrame (s.setExch ioq.val { e with ackDue := false, resume := true, moved := false }) k
          (exFrame s x e.rxSeq 0x16 0 0 false [] [])
        if e.halt.isSome || !first then t else resend t x e k))

/-! ### Frames that arrive: ACK and sequence (R341) -/

/-- A received ACK advances the acknowledged position. -/
def Exch.acked (e : Exch) (a : Nat) : Exch :=
  if seqAfter a e.txAck then { e with txAck := a, expiries := 0, out := e.out.filter (fun f => !seqAfter a f.seq) } else e

/-- An exchange frame passes to its exchange: discarded where there is none, with an ENDACK where it has ended; `f` acts on the
start, its exchange with the ACK taken, and the frame. None: the frame waits. -/
def toExch (s : State) (p c : Nat) (fr : ChanFrame) (f : State → Start → Exch → Option State) : Option State :=
  let q := frameIoq fr
  match s.starts.find? (fun x => x.ioq == q && x.xid == frameXid fr && x.exch.isSome) with
  | some x =>
    match x.exch with
    | some e =>
      if seqAfter (frameAck fr) e.txSeq then some (badRx s p) else f s x (e.acked (frameAck fr))
    | none => some s
  | none =>
    if seqAfter (spGet 0 s.xidNext q) (frameXid fr) && !s.starts.any (fun x => x.ioq == q && x.xid == frameXid fr) then
      let (free, s) := drawFree s
      let n := match spFind s.ended q with
        | some d => if d.xid = frameXid fr then d.rxSeq else free.toNat % 2 ^ 32
        | none => free.toNat % 2 ^ 32
      some { s with endacks := s.endacks ++ [{ ioq := q, xid := frameXid fr, rxSeq := n, port := p, cu := c }] }
    else some (badRx s p)

/-- A sequenced frame: accepted in order, otherwise discarded with an ACK at once; every 16th accepted frame is acknowledged at
once (R341, R342). -/
def sequenced (s : State) (x : Start) (e : Exch) (fr : ChanFrame) (f : State → Exch → Option (State × Exch)) : Option State :=
  let e := { e with resume := false }
  if frameSeq fr ≠ e.rxSeq then some (ackNow s x e)
  else (f s e).map (fun (s, e) =>
    let e := { e with rxSeq := seqAdd e.rxSeq 1, rxCnt := e.rxCnt + 1, ackDue := true }
    if e.rxCnt % 16 = 0 then ackNow s x e else s.setExch x.ioq e)

/-- CHANNEL_ACK: the ACK field alone. -/
def ackFrame (s : State) (p c : Nat) (fr : ChanFrame) : Option State :=
  toExch s p c fr (fun s x e => some (s.setExch x.ioq e))

/-- Read data is written in frame order (R309, R345); data after a stop, a halt or the chain's end is only acknowledged. -/
def takeData (s : State) (x : Start) (e : Exch) (data : List (BitVec 8)) (tags : Option (List (BitVec 4))) (final : Bool) :
    Option (State × Exch) :=
  let off := e.off + data.length
  if cmdClass e.cur ≠ 2 ∨ e.more = true ∨ e.halt.isSome ∨ e.ending.isSome
      ∨ (match e.curStop with | some st => decide (st.off ≤ e.stored) | none => false) = true then
    some (s, { e with off := off })
  else
    let z := storeData (ioqPart s x.ioq) e.cur e.off tags final 9000
      { ents := e.ents, s := s, off := e.off - e.hold.length, left := e.hold ++ data, stop := none, wait := false }
    if z.wait then none
    else
      let pos := min z.off (chainTotal e.cur)
      let e := { e with off := off, stored := pos, ents := z.ents, hold := if z.stop.isSome then [] else z.left
                        curStop := match z.stop with | some st => some st | none => e.curStop }
      some (z.s, e.count pos)

/-- A DATA frame of a read arrives. -/
def dataFrame (s : State) (p c : Nat) (fr : ChanFrame) : Option State :=
  toExch s p c fr (fun s x e => sequenced s x e fr (fun s e =>
    takeData s x e fr.data (if bit fr.w0.toNat 58 then some fr.tags else none) (bit fr.w0.toNat 57)))

/-- CMDEND (R345): the device's count and status; what is left of a read's last word is written first. -/
def cmdEnd (s : State) (p c : Nat) (fr : ChanFrame) : Option State :=
  toExch s p c fr (fun s x e => sequenced s x e fr (fun s e =>
    if e.more ∨ e.cur.isEmpty ∨ e.devEnd.isSome then some (s, e)
    else
      let d : DevEnd := { count := ofBE (fr.data.take 8), devst := frameArg fr / 256, dck := bit (frameArg fr) 7,
                           sense := (fr.data.drop 8).take 56 }
      (takeData s x e [] none true).map (fun (s, e) =>
        let e := { e with devEnd := some d, devst := d.devst }
        (s, match e.halt with
          | none => e.commandEnd d
          | some h => if h.result = some 1 then e.haltEnd x h d else e))))

/-- HALTACK and CLEARACK (R346). -/
def haltAck (clear : Bool) (s : State) (p c : Nat) (fr : ChanFrame) : Option State :=
  toExch s p c fr (fun s x e =>
    some (s.setExch x.ioq (match e.halt with
      | none => e
      | some h =>
        if h.clear ≠ clear ∨ h.result.isSome ∨ h.sends = 0 then e
        else
          let kind := if clear then 4 else 3
          let r := frameArg fr % 4
          let devst := frameArg fr / 256
          let count := if cmdClass (e.command x) = 2 then e.stored else ofBE (fr.data.take 8)
          if r = 0 then e.cut x kind 0 count devst false
          else if r = 1 then
            let h := { h with result := some 1 }
            match e.devEnd with
            | some d => { e with halt := some h }.haltEnd x h d
            | none => { e with halt := some h }
          else if r = 2 then e.cut x kind 0 0 devst false
          else e)))

/-! ### Pairs (R339, R340) -/

/-- OPER of a pair; when it becomes 0 every exchange on the pair moves, when it becomes 1 waiting ones may take it. -/
def setOper (s : State) (key : Nat) (v : Bool) : State :=
  rehome (s.setPair key { s.pair key with oper := v, echo := if v then (s.pair key).echo else none, misses := 0
                                          login := if v then none else (s.pair key).login })

/-- LOGIN (R339): at once, and then every 1,024 shutters until accepted. -/
def execLogin (port : Fin 16) (cu : Fin 4096) (s : State) : Host.Outcome State Fault Refusal :=
  let key := 4096 * port.val + cu.val
  let p := s.pair key
  if pairUsed s key && ccsFld s (cuReg cu.val 0x10) 63 63 == 1 && !p.oper
      && (match p.login with | some t => decide (1024 ≤ t) | none => true) && mayLeave s key 0x01 then
    let data := bytesBE 8 Config.modser.toNat ++ bytesBE 8 s.epoch.toNat ++ bytesBE 8 (cu.val * 2 ^ 32 + port.val)
    .next (sendFrame (s.setPair key { p with login := some 0 }) key
      (mkFrame 0x01 0 0 0 0 0 (ccsFld s (chpReg port.val 0) 15 8 * 256) false data []))
  else .next s

/-- LOGINACC (R339). -/
def loginAcc (s : State) (key : Nat) (fr : ChanFrame) : State :=
  if (s.pair key).login.isNone && !(s.pair key).oper then s
  else setOper s key (frameArg fr / 256 == 0)

/-- ECHO (R340). -/
def execEcho (port : Fin 16) (cu : Fin 4096) (s : State) : Host.Outcome State Fault Refusal :=
  .next (sendEcho s (4096 * port.val + cu.val))

/-- An ECHO's round trip, in units of 2^-32 s; its answer comes within 4 × RTO. -/
def echoTrip (s : State) (t : Nat) : Nat := ((todMid s).toNat + 2 ^ 64 - t) % 2 ^ 64

def echoInTime (s : State) (key t : Nat) : Bool := decide (echoTrip s t * 10 ^ 6 ≤ 4 * chpRto s (key / 4096) * 2 ^ 32)

/-- ECHOREP (R340): an answer to the ECHO that waits; a late one is none. -/
def echoRep (s : State) (key : Nat) (fr : ChanFrame) : State :=
  let p := s.pair key
  match p.echo with
  | none => s
  | some t =>
    if ofBE (fr.data.take 8) ≠ t || !echoInTime s key t then s
    else rehome (ccsSet (s.setPair key { p with echo := none, misses := 0 }) (chpReg (key / 4096) 0x28) 31 0 (echoTrip s t))

/-- ECHO_TIMEOUT (R340): the third unanswered ECHO in a row ends OPER. -/
def execEchoTimeout (port : Fin 16) (cu : Fin 4096) (s : State) : Host.Outcome State Fault Refusal :=
  let key := 4096 * port.val + cu.val
  let p := s.pair key
  if p.echo.isNone then .next s
  else if 2 ≤ p.misses then .next (setOper s key false)
  else .next (rehome (s.setPair key { p with echo := none, misses := p.misses + 1 }))

/-- CHANNEL_PORT_LINK_UP (R330): only while CHPCTL.EN asks for it. -/
def execChannelPortLinkUp (port : Fin 16) (s : State) : Host.Outcome State Fault Refusal :=
  .next (if ccsFld s (chpReg port.val 0) 63 63 = 1 then ccsSet s (chpReg port.val 0x28) 63 63 1 else s)

/-- A port's link goes down: its pairs lose OPER and its exchanges move (R340). -/
def portLinkDown (s : State) (p : Nat) : State :=
  let s := ccsSet s (chpReg p 0x28) 63 61 0
  rehome { s with pairs := s.pairs.filter (fun x => x.1 / 4096 != p) }

/-- CHANNEL_PORT_LINK_DOWN (R340). -/
def execChannelPortLinkDown (port : Fin 16) (s : State) : Host.Outcome State Fault Refusal := .next (portLinkDown s port.val)

/-- A write of CHPCTL: EN 0 takes the link down. -/
def chpCtlWrite (s : State) (p : Nat) (v : Word) : State :=
  if modSealed s then s
  else
    let s := ccsPut s (chpReg p 0) (v &&& 0x8FFFFFFF0000FF0F)
    if bit v.toNat 63 then s else portLinkDown s p

/-! ### Priority flow control and neighbours (R331, R332) -/

/-- A PFC frame that enables priority 3 alone (IEEE 802.1Qbb). -/
def pfcFrame (s : State) (p quanta : Nat) : List (BitVec 8) :=
  bytesBE 6 0x0180C2000001 ++ bytesBE 6 (ccsFld s (chpReg p 8) 47 0) ++ bytesBE 2 0x8808 ++ bytesBE 2 0x0101 ++ bytesBE 2 8
    ++ (List.range 8).flatMap (fun i => bytesBE 2 (if i = 3 then quanta else 0)) ++ List.replicate 26 0

/-- PFC_PAUSE (R331): the receive buffer stands at a level in bytes. -/
def execPfcPause (port : Fin 16) (level : BitVec 22) (s : State) : Host.Outcome State Fault Refusal :=
  let p := port.val
  let out (s : State) (q : Nat) := send s .frame (p :: (pfcFrame s p q).map (·.toNat))
  if chpLink s p = false then .next s
  else if 3 * 2 ^ 19 ≤ level.toNat then .next (out (ccsSet s (chpReg p 0x28) 61 61 1) 0xFFFF)
  else if ccsFld s (chpReg p 0x28) 61 61 = 1 ∧ level.toNat ≤ 2 ^ 20 then .next (out (ccsSet s (chpReg p 0x28) 61 61 0) 0)
  else .next s

/-- PFC_FRAME_RECEIVE (R331): the class-enable vector and the quanta of priority 3; every other priority is ignored. -/
def execPfcFrameReceive (port : Fin 16) (enable : BitVec 8) (quanta : BitVec 16) (s : State) : Host.Outcome State Fault Refusal :=
  .next (if enable.getLsbD 3 && chpLink s port.val then ccsSet s (chpReg port.val 0x28) 62 62 (b2n (quanta != 0)) else s)

/-- PFC_PAUSE_EXPIRY (R331). -/
def execPfcPauseExpiry (port : Fin 16) (s : State) : Host.Outcome State Fault Refusal :=
  .next (ccsSet s (chpReg port.val 0x28) 62 62 0)

/-- NEIGHBOR_SOLICITATION (R332): answered for CHPIP with CHPMAC. -/
def execNeighborSolicitation (port : Fin 16) (target asker : BitVec 128) (s : State) : Host.Outcome State Fault Refusal :=
  .next (if chpLink s port.val && target.toNat == chpIp s port.val then
      send s .neighbor [port.val, target.toNat, ccsFld s (chpReg port.val 8) 47 0, asker.toNat]
    else s)

/-! ### Frames that arrive: dispatch and checks (R335) -/

/-- A frame that passed every check goes to its type's action; a control unit sends the types of R336 marked CU or either. -/
def frameIn (s : State) (p c : Nat) (fr : ChanFrame) : Option State :=
  let key := 4096 * p + c
  match frameType fr with
  | 0x02 => some (loginAcc s key fr)
  | 0x04 => some (echoRep s key fr)
  | 0x08 => ackFrame s p c fr
  | 0x11 => dataFrame s p c fr
  | 0x14 => cmdEnd s p c fr
  | 0x22 => haltAck false s p c fr
  | 0x23 => haltAck true s p c fr
  | _ => some s

/-- A frame of one type that comes from a pair: its port is up, and the pair operational, except for LOGINACC. -/
def typed (t : Nat) (port : Fin 16) (cu : Fin 4096) (f : ChanFrame) (s : State) : Host.Outcome State Fault Refusal :=
  if frameType f ≠ t ∨ chpLink s port.val = false then .next s
  else if t ≠ 0x02 ∧ (s.pair (4096 * port.val + cu.val)).oper = false then .next (badRx s port.val)
  else .next ((frameIn s port.val cu.val f).getD s)

def execLoginacc (port : Fin 16) (cu : Fin 4096) (f : ChanFrame) (s : State) : Host.Outcome State Fault Refusal :=
  typed 0x02 port cu f s

def execEchorep (port : Fin 16) (cu : Fin 4096) (f : ChanFrame) (s : State) : Host.Outcome State Fault Refusal :=
  typed 0x04 port cu f s

def execChannelAck (port : Fin 16) (cu : Fin 4096) (f : ChanFrame) (s : State) : Host.Outcome State Fault Refusal :=
  typed 0x08 port cu f s

def execCmdend (port : Fin 16) (cu : Fin 4096) (f : ChanFrame) (s : State) : Host.Outcome State Fault Refusal :=
  typed 0x14 port cu f s

def execHaltack (port : Fin 16) (cu : Fin 4096) (f : ChanFrame) (s : State) : Host.Outcome State Fault Refusal :=
  typed 0x22 port cu f s

def execClearack (port : Fin 16) (cu : Fin 4096) (f : ChanFrame) (s : State) : Host.Outcome State Fault Refusal :=
  typed 0x23 port cu f s

/-- DATA_FRAME (R345): a write's frame leaves, or a read's frame arrives. -/
def execDataFrame (move : DataMove) (s : State) : Host.Outcome State Fault Refusal :=
  match move with
  | .send q => onExch s q.val (sendData s)
  | .receive port cu f => typed 0x11 port cu f s

/-- Why a received frame is discarded. -/
inductive RxDrop where
  | bad
  | crc
  | seal
deriving DecidableEq, Repr

/-- The assigned frame types (R336). -/
def knownType (t : Nat) : Bool :=
  [0x01, 0x02, 0x03, 0x04, 0x08, 0x10, 0x11, 0x12, 0x13, 0x14, 0x15, 0x16, 0x20, 0x21, 0x22, 0x23].contains t

/-- The nibbles of a tag block for n data bytes. -/
def untag (n : Nat) (b : List (BitVec 8)) : List (BitVec 4) :=
  (b.flatMap (fun x => [x.extractLsb' 4 4, x.extractLsb' 0 4])).take ((n + 7) / 8)

/-- A sealed body opened under one of the keys a pair accepts. -/
def openBody (keys : List (BitVec 256)) (nonce hdr ct tag : List (BitVec 8)) : Option (List (BitVec 8)) :=
  (keys.find? (fun k => gcmTag k nonce hdr ct == tag)).map (fun k => gcmCtr (roundKeys k) nonce 2 ct)

/-- The control-unit entry an address and port name, on a port that has a path of its pair. -/
def cuOf (s : State) (p ip port : Nat) : Option Nat :=
  (((pathsListed s).filter (fun x => pathV s x.1 x.2)).map (fun x => pathPair s x.1 x.2)).findSome? (fun k =>
    let c := k % 4096
    if k / 4096 = p ∧ ccsFld s (cuReg c 0x10) 63 63 = 1 ∧ cuIp s c = ip ∧ ccsFld s (cuReg c 0x10) 15 0 = port then some c else none)

/-- The checks of R335 in their order: the control unit and the frame. -/
def checkFrame (s : State) (p : Nat) (b : List (BitVec 8)) (fcs : Bool) : Except RxDrop (Nat × ChanFrame) :=
  let at2 (o : Nat) : Nat := ofBE ((b.drop o).take 2)
  let pcp := at2 14 / 2 ^ 13
  let src := ofBE ((b.drop 26).take 16)
  let dst := ofBE ((b.drop 42).take 16)
  let ulen := at2 62
  let pl := (b.drop 66).take (ulen - 8)
  let w (i : Nat) : Word := BitVec.ofNat 64 (ofBE ((pl.drop (8 * i)).take 8))
  let w0 := (w 0).toNat
  let len := bits (w 2).toNat 15 0
  let sealed := bit w0 59
  let tagLen := if bit w0 58 then ((len + 7) / 8 + 1) / 2 else 0
  let body := (pl.drop 32).take (len + tagLen)
  if !fcs || at2 12 != 0x8100 || at2 14 % 4096 != ccsFld s (chpReg p 0) 59 48 || !(pcp == 3 || pcp == 7) then .error .bad
  else if at2 16 != 0x86DD || ofBE ((b.drop 18).take 1) / 16 != 6 || (b.drop 24).headD 0 != 17 || dst != chpIp s p
      || at2 60 != ccsFld s (chpReg p 0) 47 32 || pl.length + 8 != ulen || at2 22 != ulen
      || at2 64 != udpSum src dst (at2 58) (at2 60) pl then .error .bad
  else if bits w0 63 60 != 1 || !knownType (bits w0 55 48) || bit w0 56 || bits (w 1).toNat 63 50 != 0 || decide (8192 < len)
      || pl.length != 36 + len + tagLen + (if sealed then 24 else 0) then .error .bad
  else if ofBE (pl.drop (pl.length - 4)) != (crc32c (pl.take (pl.length - 4))).toNat then .error .crc
  else match cuOf s p src (at2 58) with
    | none => .error .bad
    | some c =>
      let key := 4096 * p + c
      if !(s.pair key).oper && bits w0 55 48 != 0x02 then .error .bad
      else if sealed != pairSealed s key then .error .seal
      else
        let open' := if sealed then
            openBody (openKeys s c) (sealNonce key (ofBE ((pl.drop (32 + body.length)).take 8)) false) (pl.take 32) body
              ((pl.drop (40 + body.length)).take 16)
          else some body
        match open' with
        | none => .error .seal
        | some d => .ok (c, { w0 := w 0, w1 := w 1, w2 := w 2, w3 := w 3, data := d.take len, tags := untag len (d.drop len) })

/-- CHANNEL_FRAME_RECEIVE (R335): an Ethernet frame's bytes before its FCS, and whether that matched. -/
def execChannelFrameReceive (port : Fin 16) (frame : List (BitVec 8)) (fcs : Bool) (s : State) :
    Host.Outcome State Fault Refusal :=
  let p := port.val
  if chpLink s p = false then .next s
  else match checkFrame s p frame fcs with
    | .error .bad => .next (badRx s p)
    | .error .crc => .next (ccsAdd s (chpReg p 0x30) 47 32 1)
    | .error .seal => .next (ccsAdd s (chpReg p 0x30) 31 16 1)
    | .ok (c, f) => .next ((frameIn s p c f).getD s)

/-- Pairs at a tick: the time since each LOGIN. -/
def pairsTick (s : State) : State :=
  { s with pairs := s.pairs.map (fun x => (x.1, { x.2 with login := x.2.login.map (· + 1) })) }

end Sys2Proof.Machine
end

