-- ==== Sys2Proof/Machine/Clock.lean ====
section
/-! DEFINITION. The time of day (R406 to R416): its advance at a tick, the PPS input and its servo, steps and settings, the
timing outputs, the clock comparator. -/

namespace Sys2Proof.Machine

def todctl : Nat := 0x0204000010
def todsteer : Nat := 0x0204000020
def todstat : Nat := 0x0204000028
def toderr : Nat := 0x0204000030

def State.modClock (s : State) (f : Clock → Clock) : State := { s with clock := f s.clock }

/-- TODSTAT.STATE: 0 FREE, 1 ACQUIRE, 2 LOCKED, 3 HOLDOVER. -/
def todState (s : State) : Nat := ccsFld s todstat 63 62

def todDrop (s : State) : State := ccsSet s todstat 58 58 1

/-- A 32-bit field as a signed number. -/
def signed32 (n : Nat) : Int := if n < 2 ^ 31 then n else (n : Int) - 2 ^ 32

/-- A number clamped to the range of a signed 32-bit field, as that field. -/
def clamp32 (i : Int) : Nat := ((max (-2 ^ 31) (min (2 ^ 31 - 1) i)) % 2 ^ 32).toNat

/-- a / b to the nearest integer, ties away from zero (R411). -/
def roundDiv (a : Int) (b : Nat) : Int :=
  let q : Int := (((2 * a.natAbs + b) / (2 * b) : Nat) : Int)
  if 0 ≤ a then q else -q

/-! ### The advance (R406, R407) -/

/-- One shutter's advance in millionths of a unit: 2^64 x (1 + STEER x 2^-48). -/
def todGain (s : State) : Nat := (2 ^ 16 * (2 ^ 48 + signed32 (ccsFld s todsteer 31 0))).toNat

/-- TOD at an instant of the shutter in progress, `t` of `n` parts into it. -/
def todAt (s : State) (t n : Nat) : Nat := s.tod + (s.clock.rem * n + todGain s * t) / (10 ^ 6 * n)

/-- TOD advanced by one shutter, the fraction of a unit kept. -/
def todAdvance (s : State) : State :=
  let x := s.clock.rem + todGain s
  { s with tod := (s.tod + x / 10 ^ 6) % 2 ^ 128, clock := { s.clock with rem := x % 10 ^ 6 } }

/-! ### States (R410, R413) -/

/-- The PPS window W in µs, as it is in force. -/
def ppsWin (s : State) : Nat := forceFld s todctl 31 16

/-- STATE changes: a run of accepted pulses ends (R413). -/
def todEnter (s : State) (st : Nat) : State :=
  (ccsSet (ccsSet s todstat 63 62 st) todstat 61 61 0).modClock (fun c =>
    { c with run := 0, misses := 0, cands := if st ≤ 1 then [] else c.cands })

/-- The event of R414 at every PU of partition 0. -/
def todLog (s : State) (event : Nat) : State :=
  let d := ccsGet s todstat
  (pusOf s 0).foldl (fun s n => logOutside s n event d .warn) s

/-! ### PPS_IN (R409 to R411) -/

/-- The error e of an edge: TOD[63:0] as a signed fraction, in units of 31.25 ps. -/
def ppsError (f : Nat) : Int :=
  let x : Nat := f % 2 ^ 64
  roundDiv ((if x < 2 ^ 63 then (x : Int) else (x : Int) - 2 ^ 64) * 32000000000) (2 ^ 64)

/-- The second an edge belongs to: the nearest one. -/
def nearSec (f : Nat) : Nat := (f + 2 ^ 63) / 2 ^ 64

def inWin (s : State) (e : Int) : Bool := decide (e.natAbs ≤ 32000 * ppsWin s)

def noise (s : State) : State := ccsAdd s todstat 31 16 1

/-- PPS_EDGE (R409): a rising edge, so many times 31.25 ps into the shutter. One that comes before the last was judged shows
that one too short. -/
def execPpsEdge (t : Fin 32000) (s : State) : Host.Outcome State Fault Refusal :=
  if !s.boot.pwrGood then .next s
  else
    let f := todAt s t.val 32000
    let s := if s.clock.pulse.isSome then noise s else s
    .next (s.modClock (fun c => { c with pulse := some { tod := f, e := ppsError f } }))

/-- The pulse of ACQUIRE: lock is confirmed where a candidate lies 1 s ± W before it. -/
def acquire (s : State) (p : Pulse) : State :=
  let near (c : Nat) : Bool := decide (((p.tod : Int) - c - 2 ^ 64).natAbs * 10 ^ 6 ≤ ppsWin s * 2 ^ 64)
  if s.clock.cands.any near then
    let f := p.tod % 2 ^ 64
    let out := !inWin s p.e
    let sec := if out then p.tod / 2 ^ 64 + b2n (f != 0) else nearSec p.tod
    (todEnter s 2).modClock (fun c =>
      { c with step := if out then some ((2 ^ 64 - f) % 2 ^ 64, false) else c.step, accSec := some sec, closed := sec, cands := [] })
  else s.modClock (fun c => { c with cands := c.cands.filter (fun x => decide (p.tod ≤ x + 2 * 2 ^ 64)) ++ [p.tod] })

/-- An accepted pulse (R411, R413): the servo's values wait for the next tick. -/
def acceptPulse (s : State) (p : Pulse) : State :=
  let s := if todState s = 2 then s else todEnter s 2
  let freq := signed32 (clamp32 (signed32 (ccsFld s todsteer 63 32) - roundDiv (p.e * 2 ^ 48) (64 * 32000000000)))
  let steer := clamp32 (freq - roundDiv (p.e * 2 ^ 48) (4 * 32000000000))
  let s := (ccsAdd s toderr 63 32 1).modClock (fun c =>
    { c with servo := some (clamp32 freq, steer), accSec := some (nearSec p.tod), run := c.run + 1, misses := 0 })
  if 64 ≤ s.clock.run then ccsSet s todstat 61 61 1 else s

/-- PPS_PULSE_ACCEPT (R409, R410): 1 µs after the edge; `high` when PPS_IN stayed high. -/
def execPpsPulseAccept (high : Bool) (s : State) : Host.Outcome State Fault Refusal :=
  match s.clock.pulse with
  | none => .next s
  | some p =>
    let s := s.modClock (fun c => { c with pulse := none })
    if !high then .next (noise s)
    else
      let s := ccsSet s toderr 31 0 (clamp32 p.e)
      .next (match todState s with
        | 0 => s
        | 1 => acquire s p
        | _ => if inWin s p.e && s.clock.accSec != some (nearSec p.tod) then acceptPulse s p else noise s)

/-- The last second whose window TOD has passed. -/
def passedSec (s : State) : Nat :=
  if ppsWin s * 2 ^ 64 < s.tod % 2 ^ 64 * 10 ^ 6 then s.tod / 2 ^ 64 else s.tod / 2 ^ 64 - 1

/-- PPS_WINDOW_CLOSE (R410, R411): the oldest window that TOD has passed. A pulse in it that awaits its judgement keeps it
open. -/
def execPpsWindowClose (s : State) : Host.Outcome State Fault Refusal :=
  let sec := s.clock.closed + 1
  let coming := match s.clock.pulse with | some p => nearSec p.tod == sec && inWin s p.e | none => false
  if todState s < 2 ∨ passedSec s < sec ∨ coming = true then .next s
  else
    let t := s.modClock (fun c => { c with closed := sec })
    if s.clock.accSec = some sec then .next t
    else
      let t := ccsAdd t todstat 47 32 1
      if todState s = 2 then
        let t := todEnter t 3
        .next (todLog (ccsSet t todsteer 31 0 (ccsFld t todsteer 63 32)) 0x16)
      else if 15 ≤ t.clock.misses then .next (todEnter t 1)
      else .next (t.modClock (fun c => { c with misses := c.misses + 1 }))

/-! ### Register writes (R410 to R412) -/

/-- A write of TODCTL: out of range, it is discarded whole. -/
def todCtlWrite (s : State) (v : Word) : State :=
  let w := v.toNat
  let per := bits w 51 32
  if per = 0 ∨ 1000000 % per ≠ 0 ∨ bits w 31 16 = 0 ∨ bits w 15 0 = 0 ∨ 999 < bits w 15 0 then todDrop s
  else delayWrite s todctl (v &&& 0xE00FFFFFFFFFFFFF) 1

def execTodctlWrite (v : Word) (s : State) : Host.Outcome State Fault Refusal := .next (todCtlWrite s v)

/-- A write of TODSTEER: held until the tick in FREE mode, discarded in LOCK mode. -/
def todSteerWrite (s : State) (v : Word) : State :=
  if forceFld s todctl 63 63 = 1 then todDrop s else s.modClock (fun c => { c with steer := some (bits v.toNat 31 0) })

def execTodsteerWrite (v : Word) (s : State) : Host.Outcome State Fault Refusal := .next (todSteerWrite s v)

/-- A write of TODSET. -/
def todSetWrite (s : State) (v : Word) : State :=
  ccsSet (s.modClock (fun c => { c with set := some v.toNat })) todstat 60 59 1

def execTodset (v : Word) (s : State) : Host.Outcome State Fault Refusal := .next (todSetWrite s v)

/-! ### At the tick (R412) -/

/-- A seconds setting, when it moves TOD forward. -/
def todSettleSet (s : State) : State :=
  match s.clock.set with
  | none => s
  | some v =>
    let now := s.tod / 2 ^ 64
    let s := s.modClock (fun c => { c with set := none })
    if now < v then
      let s := ccsSet { s with tod := v * 2 ^ 64 + s.tod % 2 ^ 64 } todstat 60 59 2
      s.modClock (fun c =>
        { c with accSec := c.accSec.map (· + (v - now)), closed := c.closed + (v - now)
                 pulse := c.pulse.map (fun p => { p with tod := p.tod + (v - now) * 2 ^ 64 }) })
    else ccsSet s todstat 60 59 3

/-- A new STEER, the servo's or one written. -/
def todSettleSteer (s : State) : State :=
  let s := match s.clock.steer with | some v => ccsSet s todsteer 31 0 v | none => s
  let s := match s.clock.servo with
    | some (f, v) => ccsSet (ccsSet s todsteer 63 32 f) todsteer 31 0 v
    | none => s
  s.modClock (fun c => { c with steer := none, servo := none })

/-- What follows the advance, and a step where one is due: the seconds setting, then the new STEER. -/
def todSettle (s : State) : State := todSettleSteer (todSettleSet s)

/-- TOD_STEP (R412, R414): the step whose tick has come, before a seconds setting and a new STEER of that tick. -/
def execTodStep (s : State) : Host.Outcome State Fault Refusal :=
  match s.clock.step with
  | some (u, true) =>
    let s := { s with tod := (s.tod + u) % 2 ^ 128, clock := { s.clock with step := none } }
    .next (todSettle (todLog (ccsAdd s todstat 15 0 1) 0x17))
  | _ => .next s

/-- VFSEL when a timing output is enabled or disabled (R439): bits 8k+7:8k of land k, FORCE at 64 + k, LOST at 62 + k. -/
def forceLand (s : State) (k : Nat) (on : Bool) : State :=
  let v := s.dbg.vfsel
  let lost := if on && bits v (8 * k + 7) (8 * k) != 0 then setBits v (62 + k) (62 + k) 1 else v
  let v := setBits (if on then setBits lost (8 * k + 7) (8 * k) 0 else v) (64 + k) (64 + k) (b2n on)
  { s with dbg := { s.dbg with vfsel := v } }

/-- A TODCTL value comes into force (R410, R439). -/
def todCtlEffect (old s : State) : State :=
  let was := (inForce old todctl).toNat
  let now := (inForce s todctl).toNat
  let s := if bit now 63 && !bit was 63 then todEnter s 1 else if bit was 63 && !bit now 63 then todEnter s 0 else s
  let s := if bit now 62 = bit was 62 then s else (forceLand s 6 (bit now 62)).modClock (fun c => { c with ppsOut := false })
  if bit now 61 = bit was 61 then s else (forceLand s 7 (bit now 61)).modClock (fun c => { c with syncOut := false })

/-- The time of day at a tick: `old` is the state before the tick's register effects. A step that is due waits for TOD_STEP,
and what follows it too. -/
def clockTick (old s : State) : State :=
  let s := todCtlEffect old (todAdvance s)
  match s.clock.step with
  | some (u, _) => s.modClock (fun c => { c with step := some (u, true) })
  | none => todSettle s

/-! ### Timing outputs and the clock comparator (R415, R416) -/

/-- A level that rises in the first core cycle of a period and stays for `high` units. -/
def edgeLevel (on was : Bool) (x high : Nat) : Bool := on && decide (x < high) && (was || decide (x < 4503599628))

/-- TIMING_OUTPUT_EDGE (R415): the levels of PPS_OUT and SYNC_OUT in core cycle `t` of the shutter. -/
def execTimingOutputEdge (t : Fin 4096) (s : State) : Host.Outcome State Fault Refusal :=
  let f := todAt s t.val 4096 % 2 ^ 64
  let w := (inForce s todctl).toNat
  let per := bits w 51 32 * 2 ^ 64 / 10 ^ 6
  .next (s.modClock (fun c =>
    { c with ppsOut := edgeLevel (bit w 62) c.ppsOut f (bits w 15 0 * 2 ^ 64 / 1000)
             syncOut := edgeLevel (bit w 61) c.syncOut (f * 10 ^ 6 % (bits w 51 32 * 2 ^ 64) / 10 ^ 6) (per / 2) }))

/-- CLOCK_COMPARATOR (R416): the PU captures the condition at its boundary. -/
def execClockComparator (pu : Fin 60) (s : State) : Host.Outcome State Fault Refusal :=
  .next (s.modPu pu.val (fun p => { p with clkPend := clockDue s pu.val }))

end Sys2Proof.Machine
end

