-- ==== Sys2Proof/Machine/Endpoint.lean ====
section
/-! DEFINITION. The service endpoint (R389 to R405): configuration space, the mailbox and its commands, bus mastering, ABORT,
Function Level Reset, the lands of the alarm levels. -/

namespace Sys2Proof.Machine

def State.modEp (s : State) (f : Endpoint → Endpoint) : State := { s with ep := f s.ep }

/-- The endpoint receives TLPs: powered, out of reset, its link in L0. -/
def epUp (s : State) : Bool := s.boot.pwrGood && s.boot.resetN && !s.ep.perst && ccsFld s 0x0203001000 63 63 == 1

/-- A completion to the support host: status 0 SC, 1 UR, 4 CA, and the poisoned bit. -/
def cplHost (s : State) (status : Nat) (ep : Bool) (words : List Nat) : State := send s .hostCpl ((status + 8 * b2n ep) :: words)

def eperr (s : State) (hi : Nat) : State := ccsAdd s 0x0203001008 hi (hi - 15) 1

/-- A request not accepted (R391): counted, logged in AER, and answered with UR unless posted. -/
def unsupported (s : State) (posted : Bool) : State :=
  let s := cfgPut (eperr s 63) 0x41 (cfgGet s 0x41 ||| 0x100000)
  let s := if posted then cfgPut s 0x1A (cfgGet s 0x1A ||| 0xA0000)
    else cfgPut (cfgPut s 0x44 (cfgGet s 0x44 ||| 0x2000)) 0x1A (cfgGet s 0x1A ||| 0x90000)
  if posted then s else cplHost s 1 false []

/-- An unexpected completion is dropped (R401, R402). -/
def unexpected (s : State) : State := cfgPut (eperr s 47) 0x41 (cfgGet s 0x41 ||| 0x10000)

/-! ### The mailbox (R396, R397) -/

def mbArg (s : State) (m i : Nat) : Nat := (ccsGet s (mbReg m (8 + 8 * i))).toNat

def mbCode (s : State) (m : Nat) : Nat := ccsFld s (mbReg m 0) 63 56

def setRes (s : State) (m i : Nat) (v : Word) : State := ccsPut s (mbReg m (0x48 + 8 * i)) v

def mbDrop (s : State) : State := eperr s 15

/-- STATE DONE and STATUS. -/
def slotDone (s : State) (m status : Nat) : State :=
  ccsSet (ccsSet (s.modEp (fun e => { e with rung := e.rung.filter (· != m) })) (mbReg m 0x40) 63 62 2) (mbReg m 0x40) 55 48 status

/-- A command ends: its vector's message follows. -/
def slotEnd (s : State) (m status : Nat) : State := msixSend (slotDone s m status) m

/-- The slot is BUSY with a command of this code that has not begun. -/
def awaits (s : State) (m code : Nat) : Bool := s.ep.rung.contains m && mbCode s m == code

def begun (s : State) (m : Nat) : State := s.modEp (fun e => { e with rung := e.rung.filter (· != m) })

/-- A module range lies wholly in installed memory of active ranges: these are whole GiB blocks. -/
def rangeIn (s : State) (a len : Nat) : Bool :=
  len == 0 || (List.range 6).all (fun k => installed s (min (a + k * 2 ^ 30) (a + len - 1)))

/-- The checks of a command (R397, R400, R403), in the order of their codes. -/
def mailFault (s : State) (m : Nat) : Option Nat :=
  let a0 := mbArg s m 0
  let a1 := mbArg s m 1
  let a2 := mbArg s m 2
  let len := bits a2 31 0
  let copy (top : Nat) : Option Nat :=
    if a0 % 8 ≠ 0 ∨ a1 % 8 ≠ 0 ∨ bits a2 63 top ≠ 0 then some 3
    else if !rangeIn s a1 len then some 4
    else if len = 0 ∨ len % 8 ≠ 0 ∨ 2 ^ 30 < len then some 5
    else none
  match mbCode s m with
  | 0x01 =>
    let t := bits a0 17 0
    let lim := match bits a0 63 56 with | 1 => 60 | 2 => 2 ^ 18 | 3 => 18 | 4 => 12 | 5 => 12 | _ => 0
    if bits a0 55 18 ≠ 0 ∨ lim ≤ t then some 3 else none
  | 0x02 => copy 33
  | 0x03 => copy 32
  | 0x04 => if bits a0 63 6 ≠ 0 ∨ 60 ≤ a0 then some 3 else none
  | c => if 0x80 ≤ c then none else some 2

/-- A ring of a slot (R396). -/
def ring (s : State) (m : Nat) : State :=
  if slotBusy s m then mbDrop s
  else
    let q := ccsFld s 0x0203001030 31 0
    let s := ccsSet (ccsSet s (mbReg m 0x40) 63 62 1) (mbReg m 0x40) 31 0 q
    let s := ccsSet s 0x0203001030 31 0 (seqNext q)
    match mailFault s m with
    | some c => slotEnd s m c
    | none => s.modEp (fun e => { e with rung := e.rung ++ [m] })

/-- Memory requests are claimed: Memory Space Enable, and not D3hot (R391). -/
def memOn (s : State) : Bool := bit (cfgGet s 1).toNat 1 && !inD3 s

/-- A write of a mailbox word: CMD and ARG words of a BUSY slot take none. -/
def mailWrite (s : State) (a m off : Nat) (v : Word) : State :=
  if off < 0x40 && slotBusy s m then mbDrop s else ccsPut s a v

/-- RESTART (R398). -/
def execRestart (m : Fin 16) (s : State) : Host.Outcome State Fault Refusal :=
  if awaits s m.val 4 then
    let n := mbArg s m.val 0
    let st := puState s n
    if st = 3 ∨ st = 4 ∨ st = 5 then .next (slotEnd s m.val 0x0A) else .next (slotEnd (postRestart s n 0) m.val 1)
  else .next s

/-- FIRMWARE_MESSAGE (R398): the service signal with SEQ. -/
def execFirmwareMessage (m : Fin 16) (s : State) : Host.Outcome State Fault Refusal :=
  if s.ep.rung.contains m.val && decide (0x80 ≤ mbCode s m.val) then
    .next { begun s m.val with serv := s.serv ++ [BitVec.ofNat 64 (ccsFld s (mbReg m.val 0x40) 31 0)] }
  else .next s

/-- A write of EPFWDONE (R398). -/
def fwDone (s : State) (m status : Nat) : State :=
  if slotBusy s m && decide (0x80 ≤ mbCode s m) then slotEnd s m status else mbDrop s

def execEpfwdone (m : Fin 16) (status : BitVec 8) (s : State) : Host.Outcome State Fault Refusal :=
  .next (fwDone s m.val status.toNat)

/-- EPATTNSET (R399): FW set. -/
def execEpattnset (s : State) : Host.Outcome State Fault Refusal := .next (attend s 0)

/-- LOCKUP_N, CHECKSTOP_N and CUT_N are low (R142, R190, R388, R418). -/
def lockupLow (s : State) : Bool := s.boot.pwrGood && (List.range 60).any (puLocked s)
def checkstopLow (s : State) : Bool := s.boot.pwrGood && (List.range 60).any (fun n => puState s n == 3)
def cutLow (s : State) : Bool := s.boot.pwrGood && frozen s

/-- A write of EPATTN: a level that lasts keeps its bit (R399). -/
def attnWrite (s : State) (v : Word) : State :=
  let keep := 2 * b2n (lockupLow s) + 4 * b2n (checkstopLow s)
  ccsPut s 0x0203001018 ((ccsGet s 0x0203001018 &&& ~~~v) ||| (ccsGet s 0x0203001018 &&& BitVec.ofNat 64 keep))

/-! ### Windows (R395) -/

def epwin (w : Nat) : Nat := 0x0203001100 + 8 * w

def epwinWrite (s : State) (w : Nat) (v : Word) : State := replaceWrite s (epwin w) (v &&& 0xC00FFFFFFFF00000) 2

/-- EPWIN_WRITE (R395). -/
def execEpwinWrite (w : Fin 8) (v : Word) (s : State) : Host.Outcome State Fault Refusal := .next (epwinWrite s w.val v)

/-- EPWIN_EFFECT (R395). -/
def execEpwinEffect (s : State) : Host.Outcome State Fault Refusal := .next (ripen s [.epwin])

/-! ### Bus mastering (R400, R401) -/

def State.copyOf (s : State) (m : Nat) : Option Copy := s.ep.copies.find? (fun c => c.slot == m)

def State.setCopy (s : State) (c : Copy) : State :=
  s.modEp (fun e => { e with copies := e.copies.map (fun x => if x.slot = c.slot then c else x) })

/-- A copy ends: RES0 counts what it copied, and its tags stay reserved for no slot. -/
def endCopy (s : State) (c : Copy) (status : Nat) : State :=
  let s := s.modEp (fun e =>
    { e with copies := e.copies.filter (fun x => x.slot != c.slot)
             reads := e.reads.map (fun r => if r.slot = some c.slot then { r with slot := none } else r) })
  slotEnd (setRes s c.slot 0 (BitVec.ofNat 64 c.done)) c.slot status

/-- Data that has come in its turn is written, word by word in ascending order; a line that a guest holds is waited for. -/
def deliver : Nat → State → Copy → State
  | 0, s, c => s.setCopy c
  | f + 1, s, c =>
    match spFind c.held c.done with
    | some (w :: ws) =>
      let a := c.addr + c.done
      if !canOwn s (a / 64) then s.setCopy c
      else
        let held := spPut c.held c.done none
        let held := if ws.isEmpty then held else spPut held (c.done + 8) (some ws)
        deliver f (agentWrite s (a / 8) ⟨w, c.tag⟩) { c with done := c.done + 8, held := held }
    | _ => s.setCopy c

def deliverAll (s : State) (c : Copy) : State :=
  let s := deliver ((c.held.map (fun x => x.2.length)).sum + 1) s c
  match s.copyOf c.slot with
  | some c => if c.done = c.len then endCopy s c 1 else s
  | none => s

/-- Max_Read_Request_Size and Max_Payload_Size. -/
def maxRead (s : State) : Nat := 128 * 2 ^ min 5 (bits (cfgGet s 0x1A).toNat 14 12)
def maxPayload (s : State) : Nat := 128 * 2 ^ min 2 (bits (cfgGet s 0x1A).toNat 7 5)

/-- The bytes of the next request: no more than its limit, what is left, and what fits in a 4 KiB block of the host. -/
def requestLen (lim : Nat) (host left : Nat) : Nat := min (min lim left) (4096 - host % 4096)

/-- The lowest tag not in use. -/
def freeTag (s : State) : Option Nat := (List.range 1024).find? (fun t => s.ep.reads.all (fun r => r.tag != t))

/-- Read requests leave while the copy has bytes to ask for, at most 512 of them outstanding. -/
def askHost : Nat → State → Copy → State
  | 0, s, c => s.setCopy c
  | f + 1, s, c =>
    if c.len ≤ c.asked ∨ busMaster s = false ∨ 512 ≤ (s.ep.reads.filter (fun r => !r.gone)).length then s.setCopy c
    else match freeTag s with
      | none => s.setCopy c
      | some t =>
        let n := requestLen (maxRead s) (c.host + c.asked) (c.len - c.asked)
        let s := s.modEp (fun e => { e with reads := e.reads ++ [{ tag := t, slot := some c.slot, off := c.asked, left := n, gone := false }] })
        askHost f (send s .hostRead [t, c.host + c.asked, n]) { c with asked := c.asked + n }

/-- A rung slot's copy begins. -/
def openCopy (s : State) (m : Nat) (out : Bool) : State :=
  let c : Copy := { slot := m, out := out, host := mbArg s m 0, addr := mbArg s m 1, len := bits (mbArg s m 2) 31 0,
                    tag := if bit (mbArg s m 2) 32 then tagInt else tagBytes, asked := 0, done := 0, held := [] }
  (begun s m).modEp (fun e => { e with copies := e.copies ++ [c] })

/-- COPYIN (R400): data that has come is written, and read requests leave. -/
def execCopyin (m : Fin 16) (s : State) : Host.Outcome State Fault Refusal :=
  let s := if awaits s m.val 2 then openCopy s m.val false else s
  match s.copyOf m.val with
  | none => .next s
  | some c =>
    if c.out then .next s
    else
      let s := deliverAll s c
      .next (match s.copyOf m.val with | some c => askHost 512 s c | none => s)

/-- The words of module memory up to one that is SEALED or POISON or that is waited for. -/
def copyWords (s : State) : Nat → Nat → List Nat × Option Bool
  | 0, _ => ([], none)
  | k + 1, a =>
    if guestOwns s (a / 64) then ([], some false)
    else
      let w := homeWord s (a / 8)
      if w.tag = tagSealed ∨ w.tag = tagPoison then ([], some true)
      else
        let (ws, e) := copyWords s k (a + 8)
        (w.data.toNat :: ws, e)

/-- COPYOUT (R400): one posted write of at most the payload size. -/
def execCopyout (m : Fin 16) (s : State) : Host.Outcome State Fault Refusal :=
  let s := if awaits s m.val 3 then openCopy s m.val true else s
  match s.copyOf m.val with
  | none => .next s
  | some c =>
    if !c.out || !busMaster s then .next s
    else
      let n := requestLen (maxPayload s) (c.host + c.done) (c.len - c.done)
      let (ws, stop) := copyWords s (n / 8) (c.addr + c.done)
      let s := if ws.isEmpty then s else send s .hostWrite ((c.host + c.done) :: ws)
      let c := { c with done := c.done + 8 * ws.length }
      .next (if stop = some true then endCopy s c 9 else if c.done = c.len then endCopy s c 1 else s.setCopy c)

/-- HOST_COMPLETION (R400, R401): a completion with its tag, status (0 SC) and poisoned bit. -/
def execHostCompletion (tag : BitVec 10) (status : BitVec 3) (ep : Bool) (data : List Word) (s : State) :
    Host.Outcome State Fault Refusal :=
  if !epUp s then .next s
  else match s.ep.reads.find? (fun r => r.tag == tag.toNat && !r.gone) with
    | none => .next (unexpected s)
    | some r =>
      let bad := status != 0 || ep
      let ws := data.take (r.left / 8)
      let left := if bad then 0 else r.left - 8 * ws.length
      let rest := if left = 0 then s.ep.reads.filter (fun x => x.tag != r.tag)
        else s.ep.reads.map (fun x => if x.tag = r.tag then { x with off := x.off + 8 * ws.length, left := left } else x)
      let s := s.modEp (fun e => { e with reads := rest })
      match r.slot.bind s.copyOf with
      | none => .next s
      | some c =>
        if bad then .next (endCopy s c 8)
        else if ws.isEmpty then .next s
        else .next (deliverAll s { c with held := spPut c.held r.off (some ws) })

/-- COMPLETION_TIMEOUT (R400 to R402). -/
def execCompletionTimeout (tag : BitVec 10) (s : State) : Host.Outcome State Fault Refusal :=
  if bit (cfgGet s 0x22).toNat 4 then .next s
  else match s.ep.reads.find? (fun r => r.tag == tag.toNat) with
    | none => .next s
    | some r =>
      let s := s.modEp (fun e => { e with reads := e.reads.filter (fun x => x.tag != r.tag) })
      .next (match r.slot.bind s.copyOf with | some c => endCopy s c 7 | none => s)

/-- Bus Master Enable is cleared (R401): copies with requests still to issue end. -/
def busMasterOff (s : State) : State :=
  let s := cfgPut s 1 (cfgGet s 1 &&& ~~~4)
  let s := (s.ep.copies.filter (fun c => if c.out then decide (c.done < c.len) else decide (c.asked < c.len))).foldl
    (fun s c => endCopy s c 6) s
  (s.ep.rung.filter (fun m => mbCode s m == 2 || mbCode s m == 3)).foldl (fun s m => slotEnd (setRes s m 0 0) m 6) s

/-- BUS_MASTER_DISABLE (R401). -/
def execBusMasterDisable (s : State) : Host.Outcome State Fault Refusal :=
  if epUp s && busMaster s then .next (busMasterOff s) else .next s

/-! ### Function Level Reset (R402, R452) -/

/-- Every BUSY slot ends with FLR; tags in use are abandoned, ABORTs that have begun end without a result. -/
def endSlots (s : State) (finish : State → Nat → State) : State :=
  let s := s.ep.copies.foldl (fun s c => setRes s c.slot 0 (BitVec.ofNat 64 c.done)) s
  let s := s.modEp (fun e =>
    { e with rung := [], copies := [], aborts := [], reads := e.reads.map (fun r => { r with slot := none, gone := true }) })
  (List.range 16).foldl (fun s m => if slotBusy s m then finish s m else s) s

/-- The window registers take their Reset values at once. -/
def resetWindows (s : State) : State :=
  let s := (List.range 8).foldl (fun s w => ccsPut s (epwin w) 0) s
  { s with pend := s.pend.filter (fun p => !(List.range 8).any (fun w => p.addr == epwin w)) }

/-- A Function Level Reset. -/
def flr (s : State) : State :=
  let s := endSlots (s.modEp (fun e => { e with cfg := [], table := [], pba := 0 })) (fun s m => slotDone s m 0x0C)
  ccsPut (resetWindows s) 0x0203001018 0

/-- FUNCTION_LEVEL_RESET (R402). -/
def execFunctionLevelReset (s : State) : Host.Outcome State Fault Refusal := if epUp s then .next (flr s) else .next s

/-- SE_PERST (R452): SE_PERST_N falls. -/
def execSePerst (s : State) : Host.Outcome State Fault Refusal :=
  .next (ccsSet ((flr s).modEp (fun e => { e with perst := true, tlps := [] })) 0x0203001000 63 63 0)

/-- SE_PERST_RELEASE (R452). -/
def execSePerstRelease (s : State) : Host.Outcome State Fault Refusal := .next (s.modEp (fun e => { e with perst := false }))

/-- ENDPOINT_LINK_UP (R389): the rate, 1 to 5, and 2^width lanes. -/
def execEndpointLinkUp (rate : Fin 5) (width : Fin 3) (s : State) : Host.Outcome State Fault Refusal :=
  if s.boot.pwrGood && s.boot.resetN && !s.ep.perst then
    .next (ccsSet (ccsSet (ccsSet s 0x0203001000 63 63 1) 0x0203001000 62 60 (rate.val + 1)) 0x0203001000 59 57 (2 ^ width.val))
  else .next s

/-- ENDPOINT_LINK_DOWN (R389): requests that still wait are lost with the link. -/
def execEndpointLinkDown (s : State) : Host.Outcome State Fault Refusal :=
  .next (ccsSet (s.modEp (fun e => { e with tlps := [] })) 0x0203001000 63 63 0)

/-! ### Configuration space (R389 to R391) -/

/-- The bits of a configuration doubleword that a write sets, and those that a 1 clears. -/
def cfgRw : Nat → Word
  | 0x01 => 0x546
  | 0x03 => 0xFF
  | 0x04 => 0xFFFF0000
  | 0x05 => 0xFFFFFFFF
  | 0x07 => 0xFFFFFFFE
  | 0x08 => 0xFFFFF000
  | 0x09 => 0xFFFFFFFF
  | 0x0F => 0xFF
  | 0x14 => 0xC0000000
  | 0x1A => 0x79FF
  | 0x1C => 0xC8
  | 0x22 => 0x101F
  | 0x24 => 0xF
  | 0x42 => 0x007FF030
  | 0x43 => 0x007FF030
  | 0x45 => 0xF1C1
  | _ => 0

def cfgW1c : Nat → Word
  | 0x01 => 0xF9000000
  | 0x1A => 0x000F0000
  | 0x41 => 0x007FF030
  | 0x44 => 0xF1C1
  | _ => 0

/-- Messages whose masking has ended leave (R401). -/
def msixFlush (s : State) : State := (List.range 17).foldl (fun s v => if bit s.ep.pba v then msixSend s v else s) s

/-- A write of a configuration doubleword; `m` covers its enabled bytes. -/
def cfgWrite (s : State) (i : Nat) (m v : Word) : State :=
  let old := cfgGet s i
  let rw := cfgRw i &&& m
  let new := ((old &&& ~~~rw) ||| (v &&& rw)) &&& ~~~(v &&& m &&& cfgW1c i)
  if i = 0x1A && bit (v &&& m).toNat 15 then flr s
  else if i = 0x11 then
    let st := bits v.toNat 1 0
    if bit m.toNat 0 && (st == 0 || st == 3) then cfgPut s i (wordSet old 1 0 st) else s
  else
    let s := cfgPut s i new
    msixFlush (if i = 1 && bit old.toNat 2 && !bit new.toNat 2 then busMasterOff s else s)

/-- The bits of enabled bytes. -/
def byteEnables (be : BitVec 4) : Word :=
  BitVec.ofNat 64 ((List.range 4).foldl (fun a k => a + b2n (be.getLsbD k) * 0xFF * 256 ^ k) 0)

/-- A read or write of configuration space, or of the MSI-X structures in BAR4 (R390, R391). -/
def config (s : State) : HostConfig → State
  | .read i => cplHost s 0 false [(cfgGet s i.val).toNat]
  | .write i be v => cplHost (cfgWrite s i.val (byteEnables be) (v.setWidth 64)) 0 false []
  | .tableRead i => if memOn s then cplHost s 0 false [(msixWord s i.val).toNat] else unsupported s false
  | .tableWrite i lo hi v =>
    if memOn s then
      let m : Word := (if lo then 0xFFFFFFFF else 0) ||| (if hi then 0xFFFFFFFF00000000 else 0)
      let m := m &&& (if i.val % 2 = 0 then 0xFFFFFFFFFFFFFFFC else 0x1FFFFFFFF)
      let w := (msixWord s i.val &&& ~~~m) ||| (v &&& m)
      msixFlush (s.modEp (fun e => { e with table := spSet (msixDefault i.val) e.table i.val w }))
    else unsupported s true
  | .pbaRead => if memOn s then cplHost s 0 false [s.ep.pba] else unsupported s false

/-! ### ABORT (R403 to R405) -/

/-- The PU stops at its slate (R404): its work in progress has no effect, its latch stays, pending restarts go; true when
there was one. -/
def stopAtSlate (s : State) (n : Nat) : State × Bool :=
  let s := exitHalt s n
  let had := (s.pu n).restart.isSome
  let s := s.modPu n (fun p =>
    { p with restart := none, job := none, latchPos := 0, stopHeld := false, loaderStop := false
             latch := p.latch.filter (fun e => !(e.kind == .engine && e.resp.isNone)) })
  (setPuState s n 2, had)

/-- What an ABORT of a kind does to a target: the status register before it, STATUS, RES1. -/
def abortAct (s : State) (kind t : Nat) : State × Word × Nat × Word :=
  match kind with
  | 1 =>
    let r := ccsRead s (puReg t 0)
    let st := puState s t
    if puLocked s t || st == 2 then (s, r, 0x0B, 0)
    else if st = 1 then let (u, had) := stopAtSlate s t; (u, r, 1, BitVec.ofNat 64 (b2n had))
    else (s, r, 0x0A, 0)
  | 2 =>
    let r := ccsRead s (ioqReg t)
    if ioqV s t = false ∨ csState s = 0 then (s, r, 0x0A, 0) else ((clearIoq s t).1, r, 1, 0)
  | 3 =>
    let a := 0x0201000100 + 8 * t
    let r := ccsRead s a
    if ccsFld s a 63 62 = 2 then (s, r, 0x0B, 0) else (failEngine s t, r, 1, 0)
  | 4 =>
    let r := ccsRead s (belReg t 0)
    if belDown s t then (s, r, 0x0B, 0)
    else (ccsAdd (ccsSet s (belReg t 0) 63 62 2) (belReg t 0x10) 31 16 1, r, 1, 0)
  | _ =>
    let r := ccsRead s (mutReg t 0)
    if mutState s t = 1 then (endHold s t, r, 1, 0) else (s, r, 0x0B, 0)

/-- The sequencer begins an ABORT: with one message to the target and its reply, at most 32 in a shutter (R262); one that names a target
another is acting on joins it (R405). -/
def abort (s : State) (m kind : Nat) : State :=
  let a0 := mbArg s m 0
  let t := bits a0 17 0
  let joins := s.ep.aborts.any (fun j => j.kind == kind && j.target == t)
  if awaits s m 1 && bits a0 63 56 == kind && (joins || decide (s.ep.abortCnt < 32)) then
    let (u, j) : State × AbortJob := match s.ep.aborts.find? (fun j => j.kind == kind && j.target == t) with
      | some j => (s, { j with slot := m })
      | none =>
        let (u, r, st, r1) := abortAct s kind t
        (u, { slot := m, kind := kind, target := t, status := st, res0 := r, res1 := r1 })
    (begun u m).modEp (fun e => { e with aborts := e.aborts ++ [j], abortCnt := if joins then e.abortCnt else e.abortCnt + 1 })
  else s

def execAbortPu (m : Fin 16) (s : State) : Host.Outcome State Fault Refusal := .next (abort s m.val 1)

def execAbortIoq (m : Fin 16) (s : State) : Host.Outcome State Fault Refusal := .next (abort s m.val 2)

def execAbortChannelEngine (m : Fin 16) (s : State) : Host.Outcome State Fault Refusal := .next (abort s m.val 3)

def execAbortBellows (m : Fin 16) (s : State) : Host.Outcome State Fault Refusal := .next (abort s m.val 4)

def execAbortMute (m : Fin 16) (s : State) : Host.Outcome State Fault Refusal := .next (abort s m.val 5)

/-- The CLEAR frame of an aborted IOQ has still to be sent. -/
def clearDue (s : State) (q : Nat) : Bool :=
  match activeOf s q with
  | some (_, e) => e.path.isSome && (match e.halt with | some h => h.clear && h.sends == 0 | none => false)
  | none => false

/-- ABORT_COMPLETE (R405): with it, every ABORT of the same target. -/
def execAbortComplete (m : Fin 16) (s : State) : Host.Outcome State Fault Refusal :=
  match s.ep.aborts.find? (fun j => j.slot == m.val) with
  | none => .next s
  | some j =>
    if j.kind = 2 ∧ j.status = 1 ∧ clearDue s j.target then .next s
    else
      let r1 : Word := if j.kind = 2 ∧ j.status = 1 then BitVec.ofNat 64 (b2n (activeOf s j.target).isSome) else j.res1
      let same (x : AbortJob) : Bool := x.kind == j.kind && x.target == j.target
      let js := s.ep.aborts.filter same
      let s := s.modEp (fun e => { e with aborts := e.aborts.filter (fun x => !same x) })
      .next (js.foldl (fun s x => slotEnd (setRes (setRes s x.slot 0 j.res0) x.slot 1 r1) x.slot j.status) s)

end Sys2Proof.Machine
end

