-- ==== Sys2Proof/Machine/Boot.lean ====
section
/-! DEFINITION. Power-up, the three reset kinds, the boot sequencer and its commands, triad formation, partitions and sealing
(R417 to R430), and the temperature sensors (R449). -/

namespace Sys2Proof.Machine

def State.modBoot (s : State) (f : Boot → Boot) : State := { s with boot := f s.boot }

/-- BOOTSTAT.PHASE. -/
def phase (s : State) : Nat := ccsFld s 0x1008 63 60

def setPhase (s : State) (v : Nat) : State := ccsSet s 0x1008 63 60 v

/-! ### Power-up and system reset (R417, R418, R430) -/

/-- The bits of a register that a system reset keeps; `host` when SYSRESET began it. -/
def keptBits (host : Bool) (r : RegRow) : Word :=
  match r.name with
  | .shcount => 0xFFFFFFFFFFFFFFFF
  | .todsteer => 0xFFFFFFFFFFFFFFFF
  | .cutstat => 0xFFDFFFFFFFFFFFFF
  | .cuttime => 0xFFFFFFFFFFFFFFFF
  | .mclog => 0xFFFFFFFFFFFFFFFF
  | .mclogctl => 0xFFFFFFFFFFFFFFFF
  | .kekst => 0xFFFFFFFF
  | .omstat => 0x0000FFFF00000000
  | .bootstat => 0x0200FFFF00000000
  | n => if host && (n == .epstat || n == .eperr || n == .epseq || n == .epattn || n == .mbcmd || n == .mbarg || n == .mbstat || n == .mbres)
      then 0xFFFFFFFFFFFFFFFF else 0

/-- A register's value after a system reset; none where that is its Reset value. -/
def keptReg (host : Bool) (e : Nat × Word) : Option (Nat × Word) :=
  match regAt e.1 with
  | none => none
  | some (r, ix) =>
    let v := (regReset r ix &&& ~~~(keptBits host r)) ||| (e.2 &&& keptBits host r)
    if v = regReset r ix then none else some (e.1, v)

/-- The debug port after a system reset: locked; its instruction register and boundary scan are no state of the reset. -/
def Debug.afterReset (d : Debug) : Debug := { Debug.reset with ir := d.ir, bsr := d.bsr }

/-- What a reset leaves of the lines whose newest data no die holds: DRAM's (R250, R430). A guest's agent or a failed node owns them, or
DRAM has lost a shared one. -/
def dramStands (s : State) : State :=
  s.dir.foldl (fun s e =>
    match ownerOf s e.1 with
    | some o => if 6 ≤ o ∨ nodeFailed s o then memFalls s e.1 else s
    | none => memFalls s e.1) s

/-- A system reset (R430): LASTRST 1 by RESET_N, 2 by SYSRESET. The lines of the caches stay until they are written back. -/
def sysReset (s : State) (kind : Nat) : State :=
  let s := dramStands s
  let host := kind == 2
  let s := if host then resetWindows (endSlots s (fun s m => slotEnd s m 0x0C)) else s
  let t : State :=
    { State.reset with
      mem := s.mem, regs := s.regs.filterMap (keptReg host), tod := s.tod, sent := s.sent, keks := s.keks,
      slotGen := s.slotGen, genBase := s.genBase + 1, stateKey := s.noiseCnt, noiseCnt := s.noiseCnt + 1,
      pus := s.pus.filterMap (fun e => if e.2.l2.isEmpty then none else some (e.1, { Pu.reset with l2 := e.2.l2 })),
      dir := s.dir, dirClock := s.dirClock, dram := s.dram, l3 := s.l3, trk := s.trk, micro := s.micro, fresh := s.fresh,
      pending := s.pending,
      clock := { Clock.reset with rem := s.clock.rem }, dbg := s.dbg.afterReset,
      ep := if host then s.ep else { Endpoint.reset with perst := s.ep.perst },
      boot := { Boot.reset with resetN := s.boot.resetN, ran := s.boot.ran, wb := true } }
  ccsSet (if frozen t then freeze t else t) 0x1008 59 58 kind

/-- Power-up: every state at its power-up value; what a fall of PWRGOOD leaves is the same, without power. -/
def powerUp (s : State) (pwrGood : Bool) : State :=
  { State.reset with sent := s.sent, fresh := s.fresh, pending := s.pending, stateKey := s.noiseCnt, noiseCnt := s.noiseCnt + 1
                     boot := { Boot.reset with pwrGood := pwrGood, resetN := s.boot.resetN } }

/-- PWRGOOD_RISE (R417). -/
def execPwrgoodRise (s : State) : Host.Outcome State Fault Refusal :=
  .next (if s.boot.pwrGood then s else powerUp s true)

/-- PWRGOOD_FALL (R418). -/
def execPwrgoodFall (s : State) : Host.Outcome State Fault Refusal :=
  .next (if s.boot.pwrGood then powerUp s false else s)

/-- RESET_N_LOW (R417, R418). -/
def execResetNLow (s : State) : Host.Outcome State Fault Refusal :=
  if !s.boot.resetN then .next s
  else
    let s := s.modBoot (fun b => { b with resetN := false })
    .next (if s.boot.pwrGood then sysReset s 1 else s)

/-- RESET_N_RISE (R419): EXTEST ends (R432). -/
def execResetNRise (s : State) : Host.Outcome State Fault Refusal :=
  let d := { s.dbg with extest := false, ir := if s.dbg.ir = 0 then 0xFF else s.dbg.ir }
  .next (({ s with dbg := d }).modBoot (fun b => { b with resetN := true, ran := b.ran || b.pwrGood }))

/-- SYSTEM_RESET_WRITEBACK_COMPLETE (R430): caches and directory are empty. -/
def execSystemResetWritebackComplete (s : State) : Host.Outcome State Fault Refusal :=
  if s.boot.wb then
    .next { s with boot := { s.boot with wb := false }, dir := [], dram := [], l3 := [], trk := []
                   pus := s.pus.filter (fun e => e.2.l2.isEmpty) }
  else .next s

/-! ### The power-up sequence (R419) -/

/-- The sequence may take its next step: out of reset, the write-back done. -/
def bootGoes (s : State) (p : Nat) : Bool := s.boot.pwrGood && s.boot.resetN && !s.boot.wb && phase s == p

/-- A die that fails in ARRAYS (R250, R419). -/
def fenceAtBoot (s : State) (d : Nat) : State :=
  let s := ccsSet (markFailed s d) (dieReg d 0) 63 63 1
  let s := (diePus d).foldl (fun s n => setPuState s n 4) s
  match (List.range 4).find? (fun k => gpDie k == d) with
  | some k => portDown s k 8
  | none => s

/-- ARRAYS_COMPLETE (R419, R425, R454): the dies whose arrays passed; SRAM banks A and B, the fabric node and the link-sealing
arrays of the I/O die; its links to the dies. -/
def execArraysComplete (dies : BitVec 6) (sramA sramB node lkarr : Bool) (links : BitVec 6) (s : State) :
    Host.Outcome State Fault Refusal :=
  if !bootGoes s 1 then .next s
  else
    let s := ccsSet s 0x0200000000 63 54
      (b2n sramA * 2 ^ 9 + b2n sramB * 2 ^ 8 + b2n node * 2 ^ 7 + b2n lkarr * 2 ^ 6 + links.toNat)
    let s := (List.range 6).foldl (fun s d => if dies.getLsbD d && links.getLsbD d then s else fenceAtBoot s d) s
    let fail := if !(sramA && sramB) then 1 else if !node then 2 else if !lkarr then 3 else 0
    .next (if fail = 0 then setPhase s 2 else ccsSet s 0x1008 7 0 fail)

/-- The capacity of a channel in GiB, 0 where it did not train. -/
def chanCap (ts : List Training) (d m : Nat) : Nat :=
  match ts.find? (fun t => t.die.val == d && t.mc.val == m) with
  | some t => if t.trained then t.cap.val else 0
  | none => 0

/-- One channel's MCSTAT after training. -/
def setChannel (s : State) (t : Training) : State :=
  let a := dieReg t.die.val (0x200100 + 0x100 * t.mc.val)
  let s := ccsSet s a 63 61 (4 * b2n t.trained + t.dimms.toNat)
  ccsSet s a 51 40 (if t.trained then t.cap.val else 0)

/-- MEMORY_TRAINING_COMPLETE (R419, R453): at power-up every line is written as data 0 tagged UNINIT; the self-test follows
at once where microcode was kept (R430). -/
def execMemoryTrainingComplete (chans : List Training) (s : State) : Host.Outcome State Fault Refusal :=
  if !bootGoes s 2 then .next s
  else
    let s := chans.foldl setChannel s
    let s := (List.range 6).foldl (fun s d =>
      ccsSet s (dieReg d 0x200008) 10 0 (2 * min (chanCap chans d 0) (chanCap chans d 1))) s
    let s := if ccsFld s 0x1008 59 58 = 0 then { s with mem := [] } else s
    .next (setPhase s (if ccsFld s 0x1008 57 57 = 1 then 5 else 3))

/-! ### Triad formation (R189, R424) -/

/-- A core of a die passes one of the two rounds (R189): PC2k with PC2k+1, then PC2k+1 with PC2k+2 and PC33 with PC0. -/
def coreGood (r1 r2 : Nat) (d c : Nat) : Bool := bit r1 (17 * d + c / 2) || bit r2 (17 * d + (c + 33) % 34 / 2)

/-- A slot's cores by role. -/
abbrev SlotCores := List (Option Nat)

/-- Vacant roles filled from the free stand-ins, lowest first. -/
def fillSlot : List Nat → SlotCores → SlotCores × List Nat
  | free, [] => ([], free)
  | free, some c :: rs => let (a, f) := fillSlot free rs; (some c :: a, f)
  | [], none :: rs => let (a, f) := fillSlot [] rs; (none :: a, f)
  | x :: free, none :: rs => let (a, f) := fillSlot free rs; (some x :: a, f)

def SlotCores.filled (x : SlotCores) : Nat := (x.filter Option.isSome).length

/-- One formation step: the slots a test picks, in ascending order. -/
def formStep (pick : SlotCores → List Nat → Bool) : List SlotCores → List Nat → List SlotCores × List Nat
  | [], free => ([], free)
  | x :: xs, free =>
    let (y, f) := if pick x free then fillSlot free x else (x, free)
    let (ys, g) := formStep pick xs f
    (y :: ys, g)

/-- The slots of a die and its free stand-ins after formation. -/
def formation (good : Nat → Bool) : List SlotCores × List Nat :=
  let homes : List SlotCores := (List.range 10).map (fun s =>
    (List.range 3).map (fun r => if good (3 * s + r) then some (3 * s + r) else none))
  let free := [30, 31, 32, 33].filter good
  let (xs, f) := formStep (fun x _ => decide (2 ≤ x.filled)) homes free
  formStep (fun x f => x.filled == 1 && decide (2 ≤ f.length)) xs f

/-- One PU takes its formed cores; a slot without two is OFFLINE, and its good core serves nothing until a paired test (R192). -/
def formPu (s : State) (n : Nat) (x : SlotCores) : State :=
  let ok := decide (2 ≤ x.filled)
  let s := setSync s n none
  let s := (roles.zip x).foldl (fun s (r, c) => match c with
    | some c =>
      if ok then fillRole s n r c
      else { vacateRole s n r with idleCores := s.idleCores ++ [64 * (n / 10) + c] }
    | none => vacateRole s n r) s
  setPuState (setMode (assignPart s n 0) n) n (if ok then 0 else 4)

/-- Formation of one die. -/
def formDie (good : Nat → Bool) (s : State) (d : Nat) : State :=
  let (xs, free) := formation good
  let s := ccsSet s (dieReg d 0) 33 0 (maskOf 34 good)
  let s := (xs.zipIdx).foldl (fun s (x, i) => formPu s (10 * d + i) x)
    { s with freeCores := s.freeCores.filter (fun c => c / 64 != d), idleCores := s.idleCores.filter (fun c => c / 64 != d) }
  setSifree s d (maskOf 4 (fun i => free.contains (30 + i)))

/-- SELFTEST_COMPLETE (R189, R424): bit 17d + k of a round for pair k of CDd, 1 where it passed; formation follows. -/
def execSelftestComplete (r1 r2 : BitVec 102) (s : State) : Host.Outcome State Fault Refusal :=
  if !bootGoes s 5 then .next s
  else
    let s := ((List.range 6).filter (fun d => !dieFenced s d)).foldl (fun s d => formDie (coreGood r1.toNat r2.toNat d) s d) s
    .next (setPhase s 7)

/-! ### Boot commands (R420 to R422, R427, R428) -/

/-- A boot command ends. -/
def bootEnd (s : State) (status detail : Nat) : State :=
  let s := s.modBoot (fun b => { b with job := none })
  ccsSet (ccsSet (ccsSet s 0x1028 63 63 0) 0x1028 55 48 status) 0x1028 47 0 detail

/-- A boot command runs on. -/
def bootRun (s : State) (j : BootJob) : State := ccsSet (s.modBoot (fun b => { b with job := some j })) 0x1028 63 63 1

def bootAddr (s : State) : Nat := (ccsGet s 0x1018).toNat

/-- LOADMC: its checks, then the write into the cores. -/
def loadmc (s : State) : State :=
  let a := bootAddr s
  if phase s ≠ 3 ∧ phase s ≠ 7 then bootEnd s 0x03 0
  else if rangeHeld s a (8 * (8 + 24576)) then bootRun s (.held 1 0 0)
  else match (if a % 8 = 0 then readWords s a (8 + 24576) else none) with
    | none => bootEnd s 0x04 0
    | some ws =>
      let ds := ws.map (·.data)
      let w1 := (ds.getD 1 0).toNat
      if ds.headD 0 ≠ 0xB1C75E2781004100 then bootEnd s 0x10 0
      else if bits w1 63 56 ≠ 1 then bootEnd s 0x11 0
      else if bits w1 14 0 ≠ 24576 then bootEnd s 0x13 0
      else if imageTag Config.microcodeKey ds ≠ ownTag ds then bootEnd s 0x1C 0
      else setPhase (bootRun s (.loadmc (bits w1 47 32) (tableFrom 0 (ds.drop 8)))) 4

/-- LOADMC_COMPLETE (R419, R421): every core's store holds the image's microwords (R146). -/
def execLoadmcComplete (s : State) : Host.Outcome State Fault Refusal :=
  match s.boot.job with
  | some (.loadmc v ws) => .next (setPhase (ccsSet (ccsSet (bootEnd { s with micro := ws } 0x01 0) 0x1008 57 57 1) 0x1008 47 32 v) 5)
  | _ => .next s

/-- A PU's architected state at the Reset values (R42, R422, R426, R428), the instruction in progress given up. -/
def resetArch (s : State) (n : Nat) : State :=
  s.modPu n (fun p =>
    { p with g := [], b := [], rsp := 0, psw := 0, ctl := [], pfxArea := 0, fpc := 0, fpfia := 0, busy := 0, prog := none
             mcImm := none, resume := none, latch := [], latchPos := 0, job := none, devLoad := none, atomReq := none, due := .none
             tbMark := s.tbHist.length })

/-- The writes of a PU's start can be served now (R236): its command waits until they can. -/
def startReady (s : State) (base : Nat) : Bool :=
  (List.range 128).all (fun k => !installed s (base + 64 * k) || canOwn s (base / 64 + k))

/-- A PU starts: the 8 KiB area written as data 0 tagged INT, PREFIX, the PSW, STATE RUN. -/
def startPu (s : State) (n base : Nat) (psw : BitVec 128) : State :=
  let s := (List.range 1024).foldl (fun s i => if installed s (base + 8 * i) then agentWrite s (base / 8 + i) (intWord 0) else s) s
  setPuState (s.modPu n (fun p => { p with pfxArea := BitVec.ofNat 64 base, psw := psw, tbMark := s.tbHist.length })) n 1

/-- STARTFW. -/
def startfw (s : State) (n : Nat) : State :=
  let a := bootAddr s
  if phase s ≠ 7 then bootEnd s 0x03 0
  else if 60 ≤ n ∨ puState s n ≠ 0 then bootEnd s 0x05 0
  else if rangeHeld s a 64 then bootRun s (.held 2 n 0)
  else match (if a % 8192 = 0 ∧ 8192 ≤ a then readWords s a 8 else none) with
    | none => bootEnd s 0x04 0
    | some hs =>
      let w (i : Nat) : Nat := (hs.getD i uninitWord).data.toNat
      let len := w 2
      let lenOk := len % 8 == 0 && decide (0x40 ≤ len) && decide (len ≤ 2 ^ 30)
      if lenOk && rangeHeld s a len then bootRun s (.held 2 n 0)
      else match readWords s (a + 0x40) (if lenOk then (len - 0x40) / 8 else 0) with
      | none => bootEnd s 0x04 0
      | some body =>
        let psw : BitVec 128 := BitVec.ofNat 128 (w 4 * 2 ^ 64 + w 5)
        if w 0 ≠ 0xB1C75E2781004100 then bootEnd s 0x10 0
        else if bits (w 1) 63 56 ≠ 3 then bootEnd s 0x11 0
        else if !lenOk then bootEnd s 0x13 0
        else if w 3 ≠ (crc32c (wordBytes (body.map (·.data)))).toNat then bootEnd s 0x14 0
        else if !pswValid psw 0 || pswPL psw != 0 || pswT psw then bootEnd s 0x15 0
        else if !startReady s (a - 8192) then bootRun s (.held 2 n 0)
        else
          let s := startPu (resetArch s n) n (a - 8192) psw
          setPhase ((bootEnd s 0x01 0).modBoot (fun b => { b with fwPu := some n })) 8

/-- PZORG0.ORIGIN x 2^20 of a partition. -/
def iplBase (s : State) (p : Nat) : Nat := forceFld s (partReg p 0x100) 51 20 * 2 ^ 20

/-- The end of an IPL: the initial PSW is checked and loaded. -/
def iplRun (s : State) (n p : Nat) : State :=
  let z := iplBase s p
  if rangeHeld s (z + 0x2000) 16 then bootRun s (.held 4 n p)
  else match readWords s (z + 0x2000) 2 with
  | some [a, b] =>
    let psw : BitVec 128 := a.data ++ b.data
    let tagOk (w : TWord) : Bool := w.tag == tagInt || w.tag == tagBytes
    if tagOk a && tagOk b && pswPL psw == 1 && pswPart psw == p && pswValid psw p then
      if startReady s z then bootEnd (startPu s n z psw) 0x01 0 else bootRun s (.held 4 n p)
    else bootEnd s 0x15 0
  | _ => bootEnd s 0x15 0

/-- The checks that IPLCHAN and IPLMEM share. -/
def iplFault (s : State) (n p : Nat) : Option Nat :=
  if phase s ≠ 8 then some 0x03
  else if p = 0 ∨ partSealed s p = false then some 0x06
  else if forceFld s (partReg p 0x100) 63 63 = 0 then some 0x07
  else if 60 ≤ n ∨ puPart s n ≠ p ∨ puState s n ≠ 2 then some 0x05
  else none

def iplmem (s : State) (n p : Nat) : State :=
  match iplFault s n p with
  | some c => bootEnd s c 0
  | none => iplRun s n p

/-- IOSTART would answer cc0 (R311). -/
def ioqReady (s : State) (p q : Nat) : Bool :=
  decide (q < 2 ^ 18) && ioqThere s p q && csState s == 1 && (List.range 8).any (pathUp s (ioqGroup s q))
    && !s.susp.contains q && decide (nStarts s q < 16) && decide (s.ring.length < 4096)

def iplchan (s : State) (n p : Nat) : State :=
  let q := (ccsGet s 0x1020).toNat
  match iplFault s n p with
  | some c => bootEnd s c 0
  | none =>
    if !ioqReady s p q then bootEnd s 0x08 0
    else
      let x : Start :=
        { ioq := q, xid := spGet 0 s.xidNext q, user := 0, sbk := 0, nosusp := false, tmo := 1
          c0 := 0x8220000000001000, c1 := BitVec.ofNat 64 (iplBase s p + 0x2000), rest := 0, pu := none, gone := false, exch := none }
      bootRun (acceptStart s x).1 (.ipl n p q x.xid)

/-- IPLCHAN_END (R427): the sequencer takes the ending status of its start. -/
def execIplchanEnd (s : State) : Host.Outcome State Fault Refusal :=
  match s.boot.job with
  | some (.ipl n p q xid) =>
    match s.stats.find? (fun y => y.ioq == q && y.xid == xid && y.ending) with
    | none => .next s
    | some y =>
      let w0 := (y.words.headD 0).toNat
      let s := takeStatus s y
      .next (if bits w0 63 60 = 1 then iplRun s n p else bootEnd s 0x0A (bits w0 63 16))
  | _ => .next s

/-! ### Partition reset (R428) -/

def portsOf (s : State) (p : Nat) : List Nat := (List.range 4).filter (fun k => gpBound s k == some p)

/-- A bound port is quiesced; one that retrains will be. -/
def presetPort (s : State) (k : Nat) : State :=
  if lstate s k = 4 ∨ lstate s k = 6 then settlePort (s.modGp k (fun g => { g with quiet := true })) k else s

/-- A quiesced caching agent is flushed. -/
def presetFlush (s : State) (k : Nat) : State := if lstate s k = 5 && gpCaching s k then gpCmd s k 3 else s

/-- The port of a partition being reset has come to rest. -/
def portSettled (s : State) (k : Nat) : Bool :=
  let st := lstate s k
  !(st == 6 || st == 7 || (st == 4 && (s.gp k).quiet) || (st == 5 && gpCaching s k))

/-- A PU stops at its next boundary, its debug halt ended first (R436). -/
def presetStop (s : State) (n : Nat) : State :=
  let s := exitHalt s n
  let s := if puState s n = 1 ∨ puState s n = 2 then s.modPu n (fun p => { p with loaderStop := true }) else s
  if puState s n = 1 then halts s n else s

/-- The IOQs of a partition that hold a start, a status, a suspension or a sense record. -/
def usedIoqs (s : State) (p : Nat) : List Nat :=
  (s.starts.map (·.ioq) ++ s.stats.map (·.ioq) ++ s.susp ++ s.sense.map (·.1)).eraseDups.filter (fun q => ioqPart s q == p)

/-- An IOQ is cleared, its statuses discarded and those still to come; one that is CLEARING already gives up its queued starts
too. -/
def presetIoq (s : State) (q : Nat) : State :=
  let s := { s with starts := s.starts.map (fun x => if x.ioq = q then { x with gone := true } else x) }
  let s := (clearIoq s q).1
  let s := { s with starts := s.starts.filter (fun x => x.ioq != q || x.exch.isSome), susp := s.susp.filter (· != q)
                    sense := spErase s.sense q }
  (s.stats.filter (fun y => y.ioq == q)).foldl (fun s y => dropStatus s y.id) s

def preset (s : State) (p : Nat) : State :=
  if p = 0 then bootEnd s 0x09 0
  else
    let s := bootRun s (.preset p (shCount s))
    let s := (pusOf s p).foldl (fun s n => dropHold (presetStop s n) n) s
    let s := eraseSlots s (fun s e k => slotOwner s e k == p)
    let s := (usedIoqs s p).foldl presetIoq s
    (portsOf s p).foldl (fun s k => presetFlush (presetPort s k) k) s

/-- PRESET_FLUSH_TIMEOUT (R428): after 64 shutters. -/
def execPresetFlushTimeout (k : Fin 4) (s : State) : Host.Outcome State Fault Refusal :=
  match s.boot.job with
  | some (.preset p t) =>
    if 64 ≤ shCount s - t ∧ gpBound s k.val = some p ∧ portSettled s k.val = false then .next (linkDown s k.val 1) else .next s
  | _ => .next s

/-- The reset of one stopped PU: nothing is pending at it any more. -/
def presetPu (s : State) (n : Nat) : State :=
  if puState s n = 2 then
    (ccsPut (resetArch s n) (puReg n 0xE00) 0).modPu n (fun p =>
      { p with xcall := none, restart := none, cutEv := [], stopHeld := false, mcExt := none, mcDegr := none, mcWarn := none
               mcRecv := none, clkPend := false, ioResv := none, loaderStop := false })
  else s

/-- PRESET_COMPLETE (R428): once every PU of the partition has stopped and its ports have come to rest. -/
def execPresetComplete (s : State) : Host.Outcome State Fault Refusal :=
  match s.boot.job with
  | some (.preset p _) =>
    let s := (portsOf s p).foldl presetFlush s
    if (pusOf s p).any (fun n => puState s n == 1) || (portsOf s p).any (fun k => !portSettled s k) then .next s
    else .next (bootEnd ((pusOf s p).foldl presetPu s) 0x01 0)
  | _ => .next s

/-! ### The commands -/

/-- A write of BOOTCMD (R421): discarded with DROP while a command runs, except SYSRESET. -/
def bootCmd (s : State) (cmd pu part : Nat) : State :=
  if cmd = 6 then sysReset s 2
  else if s.boot.job.isSome then ccsSet s 0x1028 62 62 1
  else match cmd with
    | 1 => loadmc s
    | 2 => startfw s pu
    | 3 => iplchan s pu part
    | 4 => iplmem s pu part
    | 5 => preset s part
    | _ => s

/-- A boot command that waited tries again. -/
def bootRetry (s : State) : State :=
  match s.boot.job with
  | some (.held cmd pu part) => bootCmd (s.modBoot (fun b => { b with job := none })) cmd pu part
  | _ => s

def execLoadmc (s : State) : Host.Outcome State Fault Refusal := .next (bootCmd s 1 0 0)

def execStartfw (pu : BitVec 6) (s : State) : Host.Outcome State Fault Refusal := .next (bootCmd s 2 pu.toNat 0)

def execIplchan (pu : BitVec 6) (part : Fin 32) (s : State) : Host.Outcome State Fault Refusal :=
  .next (bootCmd s 3 pu.toNat part.val)

def execIplmem (pu : BitVec 6) (part : Fin 32) (s : State) : Host.Outcome State Fault Refusal :=
  .next (bootCmd s 4 pu.toNat part.val)

def execPreset (part : Fin 32) (s : State) : Host.Outcome State Fault Refusal := .next (bootCmd s 5 0 part.val)

def execSysreset (s : State) : Host.Outcome State Fault Refusal := .next (bootCmd s 6 0 0)

/-! ### Partitions and sealing (R426, R429) -/

/-- A write of PUPART (R426). -/
def pupartWrite (s : State) (n p : Nat) : State :=
  if (puState s n ≠ 0 ∧ puState s n ≠ 2) ∨ (s.boot.fwPu = some n ∧ p ≠ 0) then s
  else setPuState (resetArch (assignPart s n p) n) n (if p = 0 then 0 else 2)

def execPupartWrite (pu : Fin 60) (p : Fin 32) (s : State) : Host.Outcome State Fault Refusal :=
  .next (pupartWrite s pu.val p.val)

/-- MODULE_SEAL (R429). -/
def sealModule (s : State) : State := ccsSet s 0x1030 63 63 1

def execModuleSeal (s : State) : Host.Outcome State Fault Refusal := .next (sealModule s)

/-- PARTITION_SEAL (R429): discarded without a sealed module, and for partition 0, whose SEALED follows the module. -/
def sealPart (s : State) (p : Nat) : State := if modSealed s && p != 0 then ccsSet s (partReg p 0) 63 63 1 else s

def execPartitionSeal (p : Fin 32) (s : State) : Host.Outcome State Fault Refusal := .next (sealPart s p.val)

/-! ### Temperature (R449) -/

/-- TEMPERATURE_SAMPLE (R449, R425): one reading of every sensor, by die, the I/O die 6. -/
def execTemperatureSample (readings : List (Fin 7 × Int)) (s : State) : Host.Outcome State Fault Refusal :=
  if !s.boot.pwrGood then .next s
  else
    let io := (readings.filter (fun r => r.1.val == 6)).foldl (fun a r => max a r.2.toNat) 0
    let s := ccsSet s 0x0200000000 7 0 (min io 255)
    let s := match (if s.boot.warned then none else readings.find? (fun r => decide (90 ≤ r.2))) with
      | some (d, t) =>
        (pusOf s 0).foldl (fun s n => logOutside s n 0x18 (BitVec.ofNat 64 (d.val * 256 + min t.toNat 255)) .warn)
          (s.modBoot (fun b => { b with warned := true }))
      | none => if readings.all (fun r => decide (r.2 < 85)) then s.modBoot (fun b => { b with warned := false }) else s
    let was := ccsFld s 0x40008 51 48
    let hot := if readings.any (fun r => decide (105 < r.2) || decide (r.2 < -10)) then 1
      else if readings.all (fun r => decide (0 ≤ r.2) && decide (r.2 ≤ 100)) then 0
      else was / 8
    .next (cutPresent s (was % 8 + 8 * hot) 0 0)

end Sys2Proof.Machine
end

