-- ==== Sys2Proof/Machine/Registers.lean ====
section
/-! DEFINITION. A write to a register of complex control space (R8 to R13, R24): the access types, and the registers whose
text gives a write an effect of its own. -/

namespace Sys2Proof.Machine

/-- A register's fields set under their access types (R9, R10): RWL fields only while `open'`, W1C fields cleared. -/
def fieldWrite (s : State) (a : Nat) (r : RegRow) (open' : Bool) (v : Word) : State :=
  let m := r.rw ||| (if open' then r.rwl else 0)
  ccsPut s a (((ccsGet s a &&& ~~~m) ||| (v &&& m)) &&& ~~~(v &&& r.w1c))

/-- The PU, die or port whose block an address lies in. -/
def puIx : List Nat → Nat
  | d :: s :: _ => 10 * d + s
  | _ => 0

def engIx : List Nat → Nat
  | d :: c :: _ => 2 * d + c
  | _ => 0

def gpIx (a : Nat) : Nat :=
  match (a - 0x0100000000) / 0x01000000 with
  | 0 => 0
  | 2 => 1
  | 3 => 2
  | _ => 3

/-- The node, link and direction of a fabric register. -/
def fabNode (a : Nat) : Nat := if 0x0200000000 ≤ a then 6 else (a - 0x0100000000) / 0x01000000

/-- A write that comes into force at the second tick, while the owner's registers are open (R59, R211, R223). -/
def lockedWrite (s : State) (a : Nat) (r : RegRow) (open' : Bool) (v : Word) : State :=
  if open' then delayWrite s a (v &&& r.rwl) 2 else s

/-- A command of BELCMD or MUTCMD (R362, R365, R381). What the self-test of TEST finds is no property of the command. -/
def belCmd (s : State) (e cmd : Nat) : State :=
  let (w, t) := drawFree s
  if cmd = 1 ∧ belDown s e = true then (match execBelcmdTest (Fin.ofNat 12 e) (w.getLsbD 0) t with | .next u => u | _ => t) else s

def mutCmd (s : State) (e cmd : Nat) : State :=
  let (w, t) := drawFree s
  if cmd = 1 ∧ mutState s e = 2 then (match execMutcmdTest (Fin.ofNat 12 e) (w.getLsbD 0) t with | .next u => u | _ => t)
  else if cmd = 2 then endHold s e
  else s

/-- A register write by any party. -/
def regWrite (s : State) (a : Nat) (r : RegRow) (ix : List Nat) (v : Word) : State :=
  let w := v.toNat
  let i := ix.headD 0
  let part := partSealed s i
  let sealed := modSealed s
  match r.name with
  | .pzorg => lockedWrite s a r (!part) v
  | .pzend => lockedWrite s a r (!part) v
  | .pregorg => lockedWrite s a r (!part) v
  | .pregend => lockedWrite s a r (!part) v
  | .pdevctl => lockedWrite s a r (!part) v
  | .memmap => lockedWrite s a r (!sealed) v
  | .omctl => fieldWrite s a r (!part) v
  | .omkw => ccsPut s a v
  | .lkw => ccsPut s a v
  | .kekw => ccsPut s a v
  | .omcmd => omCmd s i (bits w 7 0)
  | .pulock => if bit w 63 then pulockClear s (puIx ix) else s
  | .pucmd => puCmd s (puIx ix) (bits w 7 0) (bits w 21 16) (bit w 8)
  | .pupart => pupartWrite s (puIx ix) (bits w 4 0)
  | .l2ctl => l2Ctl (if bit w 61 then ccsSet s a 61 61 0 else s) (puIx ix) (bits w 0 0)
  | .l2cmd => l2Cmd s (puIx ix) (bits w 7 0)
  | .slottab =>
    let o := a - fabBase (fabNode a) - 0x10000
    slotWrite s (fabNode a) (o / 0x4000) (o % 0x4000 / 0x2000) (o % 0x2000 / 0x1000) a v
  | .slotcmt =>
    let o := a - fabBase (fabNode a) - 0x100
    let s := if bit w 61 then ccsSet s a 61 61 0 else s
    if bit w 0 then commitSlots s (fabNode a) (o / 0x10) (o % 0x10 / 8) else s
  | .pctl => if bit w 0 then sealPart s i else s
  | .modctl => if bit w 0 then sealModule s else s
  | .gpctl => gpCtlWrite s (gpIx a) v
  | .gpbind => gpBind s (gpIx a) v
  | .gpiworg => gpWindowWrite s (gpIx a) a (v &&& r.rw)
  | .gpiwend => gpWindowWrite s (gpIx a) a (v &&& r.rw)
  | .gpoworg => gpWindowWrite s (gpIx a) a (v &&& r.rw)
  | .gpowend => gpWindowWrite s (gpIx a) a (v &&& r.rw)
  | .csctl => csCtlWrite s v
  | .jrn => journalWrite s a v
  | .ioqcfg => ioqCfgWrite s i v
  | .path => pathWrite s a v
  | .pioqr => pioqrWrite s i (ix.getD 1 0) v
  | .chpctl => chpCtlWrite s i v
  | .belcmd => belCmd s (engIx ix) (bits w 7 0)
  | .mutcmd => mutCmd s (engIx ix) (bits w 7 0)
  | .pkeyown => pkeyownWrite s i (ix.getD 1 0) v
  | .lkcmd => lkCmd s (bits w 7 0)
  | .cutcmd => cutCmd s (bits w 7 0)
  | .kekcmd => kekCmd s (bits w 7 0)
  | .epwin => epwinWrite s i v
  | .epfwdone => fwDone s (bits w 59 56) (bits w 55 48)
  | .epattn => attnWrite s v
  | .epattnset => if bit w 0 then attend s 0 else s
  | .todctl => todCtlWrite s v
  | .todset => todSetWrite s v
  | .todsteer => todSteerWrite s v
  | .bootcmd => bootCmd s (bits w 7 0) (bits w 21 16) (bits w 12 8)
  | .mbcmd => mailWrite s a i 0 (v &&& r.rw)
  | .mbarg => mailWrite s a i 8 v
  | .mbres => ccsPut s a v
  | _ => fieldWrite s a r (!sealed) v

/-- A write at a CCS address; none where R24 assigns no register. -/
def ccsWrite (s : State) (a : Nat) (v : Word) : Option State :=
  (regAt a).map (fun (r, ix) => regWrite s a r ix v)

/-- REGISTER_WRITE (R9, R24): a write by firmware or the support host; an unassigned address takes none. -/
def execRegisterWrite (addr : BitVec 40) (v : Word) (s : State) : Host.Outcome State Fault Refusal :=
  .next (if s.boot.pwrGood then (ccsWrite s addr.toNat v).getD s else s)

end Sys2Proof.Machine
end

