-- ==== Sys2Proof/Machine/HostAccess.lean ====
section
/-! DEFINITION. Requests of the support host (R391 to R396), in arrival order: configuration, BAR0, the doorbells, and the windows of
BAR2. -/

namespace Sys2Proof.Machine

/-- A CCS access of the support host; an address that R24 does not assign is an unsupported request. -/
def hostCcs (s : State) (write : Bool) (a : Nat) (v : Word) : State :=
  if write then
    match ccsWrite s a v with
    | some s => s
    | none => unsupported s true
  else if (regAt a).isSome then
    let (w, s) := ccsReadBy s 1 a
    cplHost s 0 false [w.toNat]
  else unsupported s false

/-- A word of a window write (R394): a whole word takes tag BYTES, and a partial one follows R37. -/
def hostStore (s : State) (w : Nat) (h : HostWord) : State :=
  if h.mask = 0 then s
  else if h.mask = 0xFF then agentWrite s w ⟨h.data, tagBytes⟩
  else match applyWrite? (homeWord s w) { mask := h.mask, data := h.data, tag := none } with
    | some v => agentWrite s w v
    | none => eperr s 31

/-- The words of a window write, from a word number on. -/
def hostStores : Nat → List HostWord → State → State
  | _, [], s => s
  | w, h :: hs, s => hostStores (w + 1) hs (hostStore s w h)

/-- The answer to a window read (R394): CA where it touches a SEALED word, the poisoned bit where it touches a POISON word. -/
def hostLoad (s : State) (w : Nat) (hs : List HostWord) : State :=
  let ws := (List.range hs.length).map (fun i => homeWord s (w + i))
  let touched := (ws.zip hs).filter (fun x => x.2.mask != 0)
  if touched.any (fun x => x.1.tag == tagSealed) then cplHost s 4 false []
  else cplHost s 0 (touched.any (fun x => x.1.tag == tagPoison)) (ws.map (·.data.toNat))

/-- A request to BAR2 under a mapping (R394); none while a line that a guest's agent holds makes it wait. -/
def window (s : State) (map : Word) (o : Nat) (write : Bool) (words : List HostWord) : Option State :=
  let e := map.toNat
  let t := bits e 51 20 * 2 ^ 20 + 8 * o
  let lines := (List.range words.length).map (fun i => (t + 8 * i) / 64)
  if !memOn s || !bit e 63 then some (unsupported s write)
  else if bit e 62 then
    match words with
    | [h] => some (if h.mask = 0xFF ∧ t < 2 ^ 40 then hostCcs s write t h.data else unsupported s write)
    | _ => some (unsupported s write)
  else if !(List.range words.length).all (fun i => installed s (t + 8 * i)) then some (unsupported s write)
  else if write then (if lines.all (canOwn s) then some (hostStores (t / 8) words s) else none)
  else if lines.any (guestOwns s) then none
  else some (hostLoad s (t / 8) words)

/-- A request is performed; none while it waits. -/
def performTlp (s : State) : HostTlp → Option State
  | .config r => some (config s r)
  | .bar0 write off whole v =>
    some (if whole && memOn s then hostCcs s write (0x0203000000 + off) v else unsupported s write)
  | .window map o write words => window s map o write words
  | .ring m whole => some (if whole && memOn s then ring s m else unsupported s true)
  | .refused posted => some (unsupported s posted)

/-- Requests that waited are performed in arrival order, up to one that waits still (R391). -/
def performTlps : Nat → State → State
  | 0, s => s
  | f + 1, s =>
    match s.ep.tlps with
    | [] => s
    | t :: ts =>
      match performTlp (s.modEp (fun e => { e with tlps := ts })) t with
      | some s => performTlps f s
      | none => s

/-- A request arrives: behind those that wait. -/
def receive (s : State) (t : HostTlp) : Host.Outcome State Fault Refusal :=
  let wait := s.modEp (fun e => { e with tlps := e.tlps ++ [t] })
  .next (if !epUp s then s
    else if s.ep.tlps.isEmpty then (performTlp s t).getD wait
    else performTlps wait.ep.tlps.length wait)

/-- CONFIG_REQUEST (R390, R391). -/
def execConfigRequest (r : HostConfig) (s : State) : Host.Outcome State Fault Refusal := receive s (.config r)

/-- UNSUPPORTED_REQUEST (R391). -/
def execUnsupportedRequest (posted : Bool) (s : State) : Host.Outcome State Fault Refusal := receive s (.refused posted)

/-- DOORBELL (R396). -/
def execDoorbell (m : Fin 16) (whole : Bool) (s : State) : Host.Outcome State Fault Refusal := receive s (.ring m.val whole)

/-- BAR0_ACCESS (R391, R392). -/
def execBar0Access (write : Bool) (off : BitVec 16) (whole : Bool) (v : Word) (s : State) : Host.Outcome State Fault Refusal :=
  receive s (.bar0 write off.toNat whole v)

/-- BAR2_WINDOW_ACCESS (R394, R395): a request at word `o` of window w's aperture. -/
def execBar2WindowAccess (w : Fin 8) (o : BitVec 27) (write : Bool) (words : List HostWord) (s : State) :
    Host.Outcome State Fault Refusal :=
  receive s (.window (inForce s (epwin w.val)) o.toNat write words)

end Sys2Proof.Machine
end

