-- ==== Sys2Proof/Machine/Debug.lean ====
section
/-! DEFINITION. The debug access port and the viewfinder (R431 to R439). -/

namespace Sys2Proof.Machine

def State.modDbg (s : State) (f : Debug → Debug) : State := { s with dbg := f s.dbg }

/-- An instruction in force with the data register it captures; EXTEST ends with any other. -/
def dbgSelect (s : State) (ir : BitVec 8) (dr : Nat) : State := s.modDbg (fun d => { d with ir := ir, dr := dr, extest := false })

/-- The bypass register, which a locked port selects instead of a marked instruction (R432). -/
def dbgBypass (s : State) : State := dbgSelect s 0xFF 0

/-- The condition of Cut trigger 5 is present. -/
def cutLock (s : State) : Bool := ccsFld s 0x40008 53 53 == 1

/-- DBG as it reads. -/
def dbgWord (s : State) : Nat :=
  s.dbg.status * 2 ^ 48 + b2n s.dbg.unlocked * 2 ^ 47 + b2n (cutLock s) * 2 ^ 46 + s.dbg.fails * 2 ^ 38
    + b2n (s.pu s.dbg.pu).halted * 2 ^ 37 + s.dbg.pu

/-- IDENT (R432). -/
def execIdent (s : State) : Host.Outcome State Fault Refusal := .next (dbgSelect s 0x10 (ccsRead s 0).toNat)

/-- EXTEST (R432): unlocked, and RESET_N low. -/
def execExtest (s : State) : Host.Outcome State Fault Refusal :=
  if s.dbg.unlocked && !s.boot.resetN then .next ((dbgSelect s 0x00 0).modDbg (fun d => { d with extest := true }))
  else .next (dbgBypass s)

/-- SAMPLE (R431): the levels of the lands. -/
def execSample (lands : List Bool) (s : State) : Host.Outcome State Fault Refusal :=
  .next ((dbgSelect s 0x01 0).modDbg (fun d => { d with bsr := lands }))

/-- PRELOAD (R431). -/
def execPreloadScan (cells : List Bool) (s : State) : Host.Outcome State Fault Refusal :=
  .next ((dbgSelect s 0x02 0).modDbg (fun d => { d with bsr := cells }))

/-- The response that unlocks the port (R433). -/
def unlockAnswer (c : Word) : Nat :=
  ofBE (aesEncrypt (roundKeys Config.debugKey) (bytesBE 16 (c.toNat * 2 ^ 64 + Config.modser.toNat)))

/-- A failed unlock (R434): the eighth makes the condition of trigger 5 present. -/
def unlockFail (s : State) : State :=
  if cutLock s then s
  else
    let n := min (s.dbg.fails + 1) 8
    let s := s.modDbg (fun d => { d with fails := n })
    if n = 8 then cutPresent s (ccsFld s 0x40008 51 48) 32 0 else s

/-- DEBUG_UNLOCK (R433, R434): Capture-DR of UNLOCK, or with a response its Update-DR. -/
def execDebugUnlock (response : Option (BitVec 128)) (s : State) : Host.Outcome State Fault Refusal :=
  match response with
  | none =>
    let (c, s) := drawNoise s
    let c : Word := c.setWidth 64
    .next ((dbgSelect s 0x20 (c.toNat * 2 ^ 64)).modDbg (fun d => { d with chal := some c }))
  | some r =>
    let ok := !cutLock s && s.dbg.chal.any (fun c => unlockAnswer c == r.toNat)
    let s := (dbgSelect s 0x20 s.dbg.dr).modDbg (fun d => { d with chal := none })
    .next (if ok then s.modDbg (fun d => { d with unlocked := true, fails := 0 }) else unlockFail s)

/-- A command of DBG ends with a STATUS. -/
def dbgEnd (s : State) (pu status : Nat) : State :=
  let s := s.modDbg (fun d => { d with status := status, pu := pu })
  dbgSelect s 0x21 (dbgWord s)

/-- HALT (R436): the PU halts at its boundary, which one that has nothing of an instruction left to do is at. -/
def debugHalt (s : State) (n : Nat) : State :=
  if 60 ≤ n ∨ (puState s n ≠ 1 ∧ puState s n ≠ 2) ∨ puLocked s n = true then dbgEnd s n 3
  else if (s.pu n).halted then dbgEnd s n 1
  else
    let s := s.modPu n (fun p => { p with haltReq := true })
    dbgEnd (halts s n) n 1

def execDebugHalt (pu : BitVec 6) (s : State) : Host.Outcome State Fault Refusal :=
  .next (if s.dbg.unlocked then debugHalt s pu.toNat else dbgBypass s)

/-- STEP (R436): a waiting PU is at its next boundary already. -/
def debugStep (s : State) (n : Nat) : State :=
  if !(s.pu n).halted then dbgEnd s n 4
  else if puState s n = 1 then
    let s := s.modPu n (fun p => { p with stepArm := true })
    dbgEnd (if pswW (s.pu n).psw then halts s n else s) n 1
  else dbgEnd s n 1

def execDebugStep (pu : BitVec 6) (s : State) : Host.Outcome State Fault Refusal :=
  .next (if s.dbg.unlocked then debugStep s pu.toNat else dbgBypass s)

/-- RESUME (R193, R436). -/
def debugResume (s : State) (n : Nat) : State := if (s.pu n).halted then dbgEnd (exitHalt s n) n 1 else dbgEnd s n 4

def execDebugResume (pu : BitVec 6) (s : State) : Host.Outcome State Fault Refusal :=
  .next (if s.dbg.unlocked then debugResume s pu.toNat else dbgBypass s)

/-- DEBUG_LOCK (R435). -/
def execDebugLock (s : State) : Host.Outcome State Fault Refusal :=
  .next (if s.dbg.unlocked then dbgEnd (lockDebug s) s.dbg.pu 1 else dbgBypass s)

/-- TRST_LOW (R435). -/
def execTrstLow (s : State) : Host.Outcome State Fault Refusal := .next (dbgBypass (lockDebug s))

/-! ### Debug accesses (R437) -/

/-- A debug access ends: a word read, and STATUS. -/
def accEnd (s : State) (w : Option TWord) (status : Nat) : State :=
  let s := s.modDbg (fun d => { d with accWord := w.getD d.accWord, accStat := status })
  dbgSelect s 0x22 (s.dbg.accWord.data.toNat * 2 ^ 72 + s.dbg.accWord.tag.toNat * 2 ^ 68 + status * 2 ^ 64)

/-- The tags a debug write may not name. -/
def badTag (t : Tag) : Bool := t == 0x8 || (decide (0xB ≤ t.toNat) && decide (t.toNat ≤ 0xE))

/-- A word without a tag of its own: what a read returns as TAG is left open. -/
def untagged (s : State) (w : Word) : TWord × State :=
  let (t, s) := drawFree s
  (⟨w, t.setWidth 4⟩, s)

/-- A register of a PU by its debug index: its word, where it has a tag, or its 64 bits. -/
def debugReg (p : Pu) (i : Nat) : Option (TWord ⊕ Word) :=
  if i < 0x10 then some (.inl (p.reg i))
  else if i < 0x20 then some (.inl (if i % 2 = 0 then (p.bank ((i - 0x10) / 2)).base else (p.bank ((i - 0x10) / 2)).attr))
  else if 0x40 ≤ i ∧ i < 0x60 then some (.inr (p.ctlReg (i - 0x40)))
  else match i with
    | 0x20 => some (.inr p.rsp)
    | 0x21 => some (.inr (BitVec.ofNat 64 (p.psw.toNat / 2 ^ 64)))
    | 0x22 => some (.inr (BitVec.ofNat 64 p.psw.toNat))
    | 0x23 => some (.inr p.fpc)
    | 0x24 => some (.inr p.fpfia)
    | 0x25 => some (.inr p.pfxArea)
    | _ => none

/-- A register written by its debug index; reserved bits stay 0 (R10). -/
def setDebugReg (p : Pu) (i : Nat) (w : TWord) : Pu :=
  if i < 0x10 then p.setReg i w
  else if i < 0x20 then
    let b := p.bank ((i - 0x10) / 2)
    p.setBank ((i - 0x10) / 2) (if i % 2 = 0 then { b with base := w } else { b with attr := w })
  else if 0x40 ≤ i ∧ i < 0x60 then p.setCtl (i - 0x40) w.data
  else match i with
    | 0x20 => { p with rsp := w.data &&& 0xFFFFFFFFFFFFFFF8 }
    | 0x21 => { p with psw := pswSet p.psw 127 64 (w.data &&& 0x1FFFFC0000000000).toNat }
    | 0x22 => { p with psw := pswSet p.psw 63 0 w.data.toNat }
    | 0x23 => { p with fpc := w.data &&& 0x0000DF1F00001F07 }
    | 0x24 => { p with fpfia := w.data }
    | 0x25 => { p with pfxArea := w.data &&& 0x000FFFFFFFFFE000 }
    | _ => p

/-- An access to absolute memory. It runs on while a guest's agent holds the line (R236). -/
def accMem (s : State) (wr : Bool) (a : Nat) (w : TWord) : State :=
  if a % 8 ≠ 0 ∨ installed s a = false then accEnd s none 3
  else if wr then
    if badTag w.tag then accEnd s none 4
    else if canOwn s (a / 64) then accEnd (agentWrite s (a / 8) w) none 1
    else s.modDbg (fun d => { d with accRun := some ⟨wr, a, w⟩ })
  else if guestOwns s (a / 64) then s.modDbg (fun d => { d with accRun := some ⟨wr, a, w⟩ })
  else accEnd s (some (homeWord s (a / 8))) 1

/-- An access to complex control space. -/
def accCcs (s : State) (wr : Bool) (a : Nat) (w : TWord) : State :=
  if (regAt a).isNone then accEnd s none 3
  else if wr then (if badTag w.tag then accEnd s none 4 else accEnd ((ccsWrite s a w.data).getD s) none 1)
  else
    let (v, s) := ccsReadBy s 2 a
    let (t, s) := untagged s v
    accEnd s (some t) 1

/-- An access to a register of the halted PU in DBG.PU. -/
def accReg (s : State) (wr : Bool) (i : Nat) (w : TWord) : State :=
  let n := s.dbg.pu
  if !(s.pu n).halted then accEnd s none 2
  else match debugReg (s.pu n) i with
    | none => accEnd s none 3
    | some v =>
      if wr then (if badTag w.tag then accEnd s none 4 else accEnd (s.modPu n (fun p => setDebugReg p i w)) none 1)
      else match v with
        | .inl t => accEnd s (some t) 1
        | .inr d =>
          let (t, s) := untagged s d
          accEnd s (some t) 1

/-- An access that runs on tries again; a data register that is no longer its own keeps what it captured. -/
def accRetry (s : State) : State :=
  match s.dbg.accRun with
  | some x =>
    let t := accMem (s.modDbg (fun d => { d with accRun := none })) x.wr x.addr x.word
    if s.dbg.ir = 0x22 then t else t.modDbg (fun d => { d with ir := s.dbg.ir, dr := s.dbg.dr, extest := s.dbg.extest })
  | none => s

/-- DBGACC (R437): KIND, WR, ADDR, and the word to write; BUSY while an access runs on. -/
def execDbgacc (kind : BitVec 2) (wr : Bool) (addr : BitVec 52) (w : TWord) (s : State) : Host.Outcome State Fault Refusal :=
  if !s.dbg.unlocked then .next (dbgBypass s)
  else if s.dbg.accRun.isSome then .next (accEnd s none 5)
  else match kind.toNat with
    | 0 => .next (accMem s wr addr.toNat w)
    | 1 => .next (accCcs s wr (addr.toNat % 2 ^ 40) w)
    | 2 => .next (accReg s wr (addr.toNat % 256) w)
    | _ => .next (accEnd s none 3)

/-! ### The viewfinder (R438, R439) -/

/-- A selection code as stored. -/
def vfCode (c : Nat) : Nat :=
  if c ≤ 7 ∨ (0x40 ≤ c ∧ c < 0x7C) ∨ (0x80 ≤ c ∧ c < 0xBC) then c else 0

/-- One field of VFSEL written: under FORCE a nonzero value is lost. -/
def vfSelect (new : Nat) (v k : Nat) : Nat :=
  let c := bits new (8 * k + 7) (8 * k)
  if bit v (64 + k) && decide (6 ≤ k) then
    if c = 0 then v else setBits v (62 + k) (62 + k) 1
  else setBits v (8 * k + 7) (8 * k) (vfCode c)

/-- VFSEL_UPDATE (R438, R439). -/
def execVfselUpdate (v : BitVec 72) (s : State) : Host.Outcome State Fault Refusal :=
  if !s.dbg.unlocked then .next (dbgBypass s)
  else
    let w := v.toNat
    let kept := if bit w 68 then setBits s.dbg.vfsel 68 68 0 else s.dbg.vfsel
    let kept := if bit w 69 then setBits kept 69 69 0 else kept
    let new := (List.range 8).foldl (vfSelect w) kept
    .next ((dbgSelect s 0x30 new).modDbg (fun d => { d with vfsel := new }))

/-- The level of VFk where it follows state at rest; none for the codes that follow clocks, PPS_IN and the seconds. -/
def vfLevel (s : State) (k : Nat) : Option Bool :=
  let c := bits s.dbg.vfsel (8 * k + 7) (8 * k)
  if k = 6 ∧ bit s.dbg.vfsel 70 = true then some s.clock.ppsOut
  else if k = 7 ∧ bit s.dbg.vfsel 71 = true then some s.clock.syncOut
  else if c = 0 then some false
  else if c = 5 then some (!lockupLow s)
  else if c = 6 then some (!checkstopLow s)
  else if c = 7 then some (!cutLow s)
  else if 0x40 ≤ c ∧ c < 0x7C then some (puState s (c - 0x40) == 1 && !(s.pu (c - 0x40)).halted)
  else if 0x80 ≤ c then some false
  else none

end Sys2Proof.Machine
end

