-- ==== Sys2Proof/Machine/Opcode.lean ====
section
/-! DEFINITION. The opcodes (R69 to R71): the bytes of each instruction's opcode as the catalogue and the arithmetic chapter list
them, and what an opcode that no chapter lists does. -/

namespace Sys2Proof.Machine

/-- The opcode bytes of an instruction (R69 to R71); none for a command that is no instruction. A custom instruction has the second
byte 0xC0 + j. -/
def opcodeOf : Instr → List Nat
  | .ld _ _ _ => [0x00]
  | .ldw _ _ _ => [0x01]
  | .ldh _ _ _ => [0x02]
  | .ldb _ _ _ => [0x03]
  | .st _ _ _ => [0x04]
  | .stw _ _ _ => [0x05]
  | .sth _ _ _ => [0x06]
  | .stb _ _ _ => [0x07]
  | .lda _ _ _ => [0x08]
  | .ldbank _ _ _ => [0x09]
  | .stbank _ _ _ => [0x0A]
  | .ldx _ _ _ => [0x0C]
  | .stx _ _ _ => [0x0D]
  | .mov _ _ _ => [0x10]
  | .movl _ _ _ => [0x14]
  | .add _ _ _ => [0x20]
  | .sub _ _ _ => [0x21]
  | .neg _ _ => [0x22]
  | .cmp _ _ _ => [0x23]
  | .cmpu _ _ _ => [0x24]
  | .and _ _ _ => [0x40]
  | .or _ _ _ => [0x41]
  | .xor _ _ _ => [0x42]
  | .not _ _ => [0x43]
  | .shl _ _ _ => [0x44]
  | .shr _ _ _ => [0x45]
  | .sar _ _ _ => [0x46]
  | .rol _ _ _ => [0x47]
  | .br _ _ => [0x50]
  | .bc _ _ _ => [0x51]
  | .brr _ _ => [0x52]
  | .bcr _ _ _ => [0x53]
  | .call _ _ => [0x54]
  | .callr _ _ => [0x55]
  | .ret _ => [0x56]
  | .rsread _ _ => [0x60]
  | .rsdrop _ _ => [0x61]
  | .strsp _ _ => [0x62]
  | .srsp _ _ => [0x63]
  | .sync _ => [0x90]
  | .syncs _ => [0x91]
  | .fpsync _ => [0x92]
  | .cas _ _ _ _ => [0x98]
  | .fadd _ _ _ _ => [0x99]
  | .tagget _ _ _ => [0xA0]
  | .tagchk _ _ _ => [0xA1]
  | .tagset _ _ _ => [0xA2]
  | .mkdesc _ _ _ _ => [0xA3]
  | .lca _ _ _ => [0xA4]
  | .iostart _ _ _ _ => [0xB0]
  | .iohalt _ _ => [0xB1]
  | .ioclear _ _ => [0xB2]
  | .iotest _ _ _ => [0xB3]
  | .iosense _ _ _ => [0xB4]
  | .cmpb _ _ _ _ => [0xC0]
  | .expb _ _ _ => [0xC1]
  | .mlock _ _ => [0xC8]
  | .mfree _ => [0xC9]
  | .mseal _ _ _ _ => [0xCA]
  | .mopen _ _ _ _ => [0xCB]
  | .svc _ _ => [0xD0]
  | .reti _ _ => [0xD1]
  | .rdtod _ _ => [0xD2]
  | .stpu _ _ => [0xD3]
  | .nop _ => [0xD4]
  | .sigpuSense _ _ _ => [0xD5]
  | .sigpuExternalCall _ _ _ => [0xD5]
  | .sigpuStop _ _ _ => [0xD5]
  | .sigpuRestart _ _ _ => [0xD5]
  | .sigpuSetPrefix _ _ _ => [0xD5]
  | .pswld _ _ => [0xF0, 0x00]
  | .ctlwr _ _ _ => [0xF0, 0x01]
  | .ctlrd _ _ _ => [0xF0, 0x02]
  | .pfxwr _ _ => [0xF0, 0x03]
  | .pfxrd _ _ => [0xF0, 0x04]
  | .tbpurge _ => [0xF0, 0x05]
  | .tbpurgep _ => [0xF0, 0x06]
  | .mul _ _ _ => [0x30]
  | .mulp _ _ _ => [0x31]
  | .mulpu _ _ _ => [0x32]
  | .div _ _ _ => [0x34]
  | .divu _ _ _ => [0x35]
  | .addbf _ _ _ => [0x70]
  | .subbf _ _ _ => [0x71]
  | .mulbf _ _ _ => [0x72]
  | .divbf _ _ _ => [0x73]
  | .fmabf _ _ _ _ => [0x74]
  | .minbf _ _ _ => [0x75]
  | .maxbf _ _ _ => [0x76]
  | .negbf _ _ => [0x77]
  | .absbf _ _ => [0x78]
  | .lfpc _ _ => [0x7C]
  | .stfpc _ _ => [0x7D]
  | .stfia _ _ => [0x7E]
  | .sqrtbf _ _ _ => [0xF0, 0x40]
  | .rndbf _ _ _ => [0xF0, 0x41]
  | .cvtib _ _ _ => [0xF0, 0x42]
  | .cvtbi _ _ _ => [0xF0, 0x43]
  | .cvtbw _ _ _ => [0xF0, 0x44]
  | .cvtbn _ _ _ => [0xF0, 0x45]
  | .addp _ _ _ => [0x80]
  | .subp _ _ _ => [0x81]
  | .cmpp _ _ _ => [0x82]
  | .cvtpi _ _ _ => [0xF0, 0x48]
  | .cvtip _ _ _ => [0xF0, 0x49]
  | .customInstruction _ j _ _ => [0xF0, 0xC0 + j.toNat]
  | _ => []

/-- The opcodes that the catalogue and the arithmetic chapter list. -/
def opcodes : List (List Nat) :=
  [[0x00], [0x01], [0x02], [0x03], [0x04], [0x05], [0x06], [0x07], [0x08], [0x09], [0x0A], [0x0C], [0x0D], [0x10]]
    ++ [[0x14], [0x20], [0x21], [0x22], [0x23], [0x24], [0x40], [0x41], [0x42], [0x43], [0x44], [0x45], [0x46], [0x47]]
    ++ [[0x50], [0x51], [0x52], [0x53], [0x54], [0x55], [0x56], [0x60], [0x61], [0x62], [0x63], [0x90], [0x91], [0x92]]
    ++ [[0x98], [0x99], [0xA0], [0xA1], [0xA2], [0xA3], [0xA4], [0xB0], [0xB1], [0xB2], [0xB3], [0xB4], [0xC0], [0xC1]]
    ++ [[0xC8], [0xC9], [0xCA], [0xCB], [0xD0], [0xD1], [0xD2], [0xD3], [0xD4], [0xD5], [0x30], [0x31], [0x32], [0x34]]
    ++ [[0x35], [0x70], [0x71], [0x72], [0x73], [0x74], [0x75], [0x76], [0x77], [0x78], [0x7C], [0x7D], [0x7E], [0x80]]
    ++ [[0x81], [0x82]]
    ++ [[0xF0, 0x00], [0xF0, 0x01], [0xF0, 0x02], [0xF0, 0x03], [0xF0, 0x04], [0xF0, 0x05], [0xF0, 0x06], [0xF0, 0x40]]
    ++ [[0xF0, 0x41], [0xF0, 0x42], [0xF0, 0x43], [0xF0, 0x44], [0xF0, 0x45], [0xF0, 0x48], [0xF0, 0x49]]

/-- A first opcode byte that is assigned: a listed one, or the escape 0xF0 (R69). -/
def assigned1 (b : Nat) : Bool := opcodes.any (fun o => o.head? == some b)

/-- A second opcode byte of the two-byte map that is assigned or custom (R70). -/
def assigned2 (b : Nat) : Bool := opcodes.contains [0xF0, b] || decide (0xC0 ≤ b)

/-- A prefix byte, never an opcode (R63, R69). -/
def isPrefix (b : Nat) : Bool := decide (0xE0 ≤ b) && decide (b ≤ 0xEF)

/-- The bytes of an instruction whose opcode is unassigned: an operation exception at the opcode byte that decides it. A byte that is
an assigned opcode, or a prefix byte, belongs to another row, and this command then does nothing. -/
def execUnassignedOpcode (h : Hdr) (b1 b2 : BitVec 8) (s : State) : Host.Outcome State Fault Refusal :=
  if isPrefix b1.toNat || (assigned1 b1.toNat && (b1 != 0xF0 || assigned2 b2.toNat)) then .next s
  else
    .next (runInstr h false (do
      let s ← get
      let c := encCtx s h.pu.val
      checkPfx c 0 [] h.pfx
      let off := h.pfx.length
      fetchByte c off
      if b1 = 0xF0 then do
        fetchByte c (off + 1)
        encFail c 0x0001 (off + 1)
      else encFail c 0x0001 off) s)

end Sys2Proof.Machine
end

