-- ==== Sys2Proof/Machine/Tick.lean ====
section
/-! DEFINITION. The shutter tick (R19), the merging buffer at the L2 and at the control-space window (R60, R201), and CMP at
its requester (R236). -/

namespace Sys2Proof.Machine

/-- Registers whose waiting writes come into force at the tick itself; the others have a command of their own. -/
def tickRegs : List RegName :=
  [.pioqr, .ioqcfg, .path, .pkeyown, .gpiworg, .gpiwend, .gpoworg, .gpowend, .todctl]

/-- A merging-buffer entry at a tick: the timer of a device store runs. -/
def MbEntry.tick (e : MbEntry) : MbEntry :=
  match e.phase with
  | .sent t => { e with phase := .sent (t - 1) }
  | _ => e

/-- A PU at a tick. -/
def Pu.tick (p : Pu) : Pu :=
  { p with chanCnt := 0, mb := p.mb.map MbEntry.tick
           devLoad := p.devLoad.map (fun d => { d with ticks := d.ticks - 1 })
           near := (p.near.filter (fun m => m.ticks == 0)).map (fun m => { m with ticks := m.ticks + 1 }) }

/-- The snoops that have left age at a tick (R249). -/
def snoopTick (s : State) (t : Txn) : Txn :=
  { t with snoops := t.snoops.map (fun x =>
      if hasLeft s x.node t.req.line then { x with ticks := x.ticks + 1 } else x) }

/-- The PUs at a tick; those at their reset values stay unlisted. -/
def pusTick (s : State) : State := (s.pus.map (·.1)).foldl (fun s n => s.modPu n Pu.tick) s

/-- SHUTTER_TICK (R19): SHCOUNT advances, waiting writes ripen, timers run, the counters of the shutter just ended are loaded, the guest
ports mark the tick. `lost` are the starts that errors of the shutter have left in no copy (R329). -/
def execShutterTick (lost : List LostStart) (s : State) : Host.Outcome State Fault Refusal :=
  if !s.boot.pwrGood || !s.boot.ran then .next s
  else
    let s := loseStarts lost s
    let old := s
    let s := ccsPut s 0x50000 (BitVec.ofNat 64 ((shCount s + 1) % 2 ^ 53 * 2 ^ 11))
    let s := ripen { s with pend := s.pend.map (fun p => { p with ticks := p.ticks - 1 }) } tickRegs
    let s := linkKeysTick (ownerTick old s)
    let s := pusTick { s with txns := s.txns.map (snoopTick s), ep := { s.ep with abortCnt := 0 } }
    let s := channelTick old ((List.range 4).foldl portTick (fabricTick s))
    .next (clockTick old (pairsTick s))

/-- The block with no command waiting (R254): the fabric cycle of the shutter in progress advances to 2,047 at most; the next is the
tick's; requests of the support host, a boot command and a debug access that waited for memory go on (R391, R236, R437, log entry 6). -/
def idle (s : State) : State :=
  let c := (ccsGet s 0x50000).toNat
  let s := if s.boot.pwrGood && s.boot.ran && c % 2048 != 2047 then ccsPut s 0x50000 (BitVec.ofNat 64 (c + 1)) else s
  accRetry (bootRetry (performTlps s.ep.tlps.length s))

/-- A store to the control-space window is performed (R60): it drops its tag; a word bad in both copies is data 0. -/
def performCcs (s : State) (n : Nat) (e : MbEntry) (bad : BitVec 8) : State :=
  let (i, w) := e.words.headD (0, { mask := 0, data := 0, tag := none })
  let s := s.modPu n (fun p => { p with mb := replaceEntry none p.mb }.drain)
  let s := if bad.getLsbD i then damage s n else s
  (ccsWrite s (e.line % 2 ^ 40) (if bad.getLsbD i then 0 else w.data)).getD s

/-- MERGING_BUFFER_PERFORM (R201): the oldest entry that may be performed; `bad` marks the words whose copies both fail their
parity. A device store leaves by DWR instead. -/
def execMergingBufferPerform (pu : Fin 60) (bad : BitVec 8) (s : State) : Host.Outcome State Fault Refusal :=
  let n := pu.val
  if dieFenced s (n / 10) then .next s
  else match nextEntry (s.pu n).mb with
    | none => .next s
    | some e =>
      if !e.device then .next (performMem s n e bad)
      else if inWindow e.line then .next (performCcs s n e bad)
      else .next s

/-- CMP_RESPONSE (R236). -/
def execCmpResponse (who : Requester) (line : BitVec 45) (s : State) : Host.Outcome State Fault Refusal :=
  .next (cmpIn s who line.toNat)

end Sys2Proof.Machine
end

