-- ==== Sys2Proof/Machine/Dispatch.lean ====
section
/-! DEFINITION. exec: one arm per command, each a direct call of its meaning. -/

namespace Sys2Proof.Machine

def exec (i : Instr) (s : State) : Host.Outcome State Fault Refusal :=
  match i with
  | .ld h op1 op2 => Sys2Proof.Machine.execLd h op1 op2 s
  | .ldw h op1 op2 => Sys2Proof.Machine.execLdw h op1 op2 s
  | .ldh h op1 op2 => Sys2Proof.Machine.execLdh h op1 op2 s
  | .ldb h op1 op2 => Sys2Proof.Machine.execLdb h op1 op2 s
  | .st h op1 op2 => Sys2Proof.Machine.execSt h op1 op2 s
  | .stw h op1 op2 => Sys2Proof.Machine.execStw h op1 op2 s
  | .sth h op1 op2 => Sys2Proof.Machine.execSth h op1 op2 s
  | .stb h op1 op2 => Sys2Proof.Machine.execStb h op1 op2 s
  | .lda h op1 op2 => Sys2Proof.Machine.execLda h op1 op2 s
  | .ldbank h op1 op2 => Sys2Proof.Machine.execLdbank h op1 op2 s
  | .stbank h op1 op2 => Sys2Proof.Machine.execStbank h op1 op2 s
  | .ldx h op1 op2 => Sys2Proof.Machine.execLdx h op1 op2 s
  | .stx h op1 op2 => Sys2Proof.Machine.execStx h op1 op2 s
  | .mov h op1 op2 => Sys2Proof.Machine.execMov h op1 op2 s
  | .movl h op1 op2 => Sys2Proof.Machine.execMovl h op1 op2 s
  | .add h op1 op2 => Sys2Proof.Machine.execAdd h op1 op2 s
  | .sub h op1 op2 => Sys2Proof.Machine.execSub h op1 op2 s
  | .neg h op1 => Sys2Proof.Machine.execNeg h op1 s
  | .cmp h op1 op2 => Sys2Proof.Machine.execCmp h op1 op2 s
  | .cmpu h op1 op2 => Sys2Proof.Machine.execCmpu h op1 op2 s
  | .and h op1 op2 => Sys2Proof.Machine.execAnd h op1 op2 s
  | .or h op1 op2 => Sys2Proof.Machine.execOr h op1 op2 s
  | .xor h op1 op2 => Sys2Proof.Machine.execXor h op1 op2 s
  | .not h op1 => Sys2Proof.Machine.execNot h op1 s
  | .shl h op1 op2 => Sys2Proof.Machine.execShl h op1 op2 s
  | .shr h op1 op2 => Sys2Proof.Machine.execShr h op1 op2 s
  | .sar h op1 op2 => Sys2Proof.Machine.execSar h op1 op2 s
  | .rol h op1 op2 => Sys2Proof.Machine.execRol h op1 op2 s
  | .br h op1 => Sys2Proof.Machine.execBr h op1 s
  | .bc h op1 op2 => Sys2Proof.Machine.execBc h op1 op2 s
  | .brr h op1 => Sys2Proof.Machine.execBrr h op1 s
  | .bcr h op1 op2 => Sys2Proof.Machine.execBcr h op1 op2 s
  | .call h op1 => Sys2Proof.Machine.execCall h op1 s
  | .callr h op1 => Sys2Proof.Machine.execCallr h op1 s
  | .ret h => Sys2Proof.Machine.execRet h s
  | .rsread h op1 => Sys2Proof.Machine.execRsread h op1 s
  | .rsdrop h op1 => Sys2Proof.Machine.execRsdrop h op1 s
  | .strsp h op1 => Sys2Proof.Machine.execStrsp h op1 s
  | .srsp h op1 => Sys2Proof.Machine.execSrsp h op1 s
  | .sync h => Sys2Proof.Machine.execSync h s
  | .syncs h => Sys2Proof.Machine.execSyncs h s
  | .fpsync h => Sys2Proof.Machine.execFpsync h s
  | .cas h op1 op2 op3 => Sys2Proof.Machine.execCas h op1 op2 op3 s
  | .fadd h op1 op2 op3 => Sys2Proof.Machine.execFadd h op1 op2 op3 s
  | .tagget h op1 op2 => Sys2Proof.Machine.execTagget h op1 op2 s
  | .tagchk h op1 op2 => Sys2Proof.Machine.execTagchk h op1 op2 s
  | .tagset h op1 op2 => Sys2Proof.Machine.execTagset h op1 op2 s
  | .mkdesc h op1 op2 op3 => Sys2Proof.Machine.execMkdesc h op1 op2 op3 s
  | .lca h op1 op2 => Sys2Proof.Machine.execLca h op1 op2 s
  | .iostart h op1 op2 op3 => Sys2Proof.Machine.execIostart h op1 op2 op3 s
  | .iohalt h op1 => Sys2Proof.Machine.execIohalt h op1 s
  | .ioclear h op1 => Sys2Proof.Machine.execIoclear h op1 s
  | .iotest h op1 op2 => Sys2Proof.Machine.execIotest h op1 op2 s
  | .iosense h op1 op2 => Sys2Proof.Machine.execIosense h op1 op2 s
  | .cmpb h op1 op2 op3 => Sys2Proof.Machine.execCmpb h op1 op2 op3 s
  | .expb h op1 op2 => Sys2Proof.Machine.execExpb h op1 op2 s
  | .bellowsUnit e vote belCheck muteCheck => Sys2Proof.Machine.execBellowsUnit e vote belCheck muteCheck s
  | .mlock h op1 => Sys2Proof.Machine.execMlock h op1 s
  | .mfree h => Sys2Proof.Machine.execMfree h s
  | .mseal h op1 op2 op3 => Sys2Proof.Machine.execMseal h op1 op2 op3 s
  | .mopen h op1 op2 op3 => Sys2Proof.Machine.execMopen h op1 op2 op3 s
  | .muteUnit e vote check => Sys2Proof.Machine.execMuteUnit e vote check s
  | .svc h op1 => Sys2Proof.Machine.execSvc h op1 s
  | .reti h op1 => Sys2Proof.Machine.execReti h op1 s
  | .rdtod h op1 => Sys2Proof.Machine.execRdtod h op1 s
  | .stpu h op1 => Sys2Proof.Machine.execStpu h op1 s
  | .nop h => Sys2Proof.Machine.execNop h s
  | .sigpuSense h op1 op2 => Sys2Proof.Machine.execSigpuSense h op1 op2 s
  | .sigpuExternalCall h op1 op2 => Sys2Proof.Machine.execSigpuExternalCall h op1 op2 s
  | .sigpuStop h op1 op2 => Sys2Proof.Machine.execSigpuStop h op1 op2 s
  | .sigpuRestart h op1 op2 => Sys2Proof.Machine.execSigpuRestart h op1 op2 s
  | .sigpuSetPrefix h op1 op2 => Sys2Proof.Machine.execSigpuSetPrefix h op1 op2 s
  | .pswld h op1 => Sys2Proof.Machine.execPswld h op1 s
  | .ctlwr h op1 op2 => Sys2Proof.Machine.execCtlwr h op1 op2 s
  | .ctlrd h op1 op2 => Sys2Proof.Machine.execCtlrd h op1 op2 s
  | .pfxwr h op1 => Sys2Proof.Machine.execPfxwr h op1 s
  | .pfxrd h op1 => Sys2Proof.Machine.execPfxrd h op1 s
  | .tbpurge h => Sys2Proof.Machine.execTbpurge h s
  | .tbpurgep h => Sys2Proof.Machine.execTbpurgep h s
  | .mul h op1 op2 => Sys2Proof.Machine.execMul h op1 op2 s
  | .mulp h op1 op2 => Sys2Proof.Machine.execMulp h op1 op2 s
  | .mulpu h op1 op2 => Sys2Proof.Machine.execMulpu h op1 op2 s
  | .div h op1 op2 => Sys2Proof.Machine.execDiv h op1 op2 s
  | .divu h op1 op2 => Sys2Proof.Machine.execDivu h op1 op2 s
  | .addbf h op1 op2 => Sys2Proof.Machine.execAddbf h op1 op2 s
  | .subbf h op1 op2 => Sys2Proof.Machine.execSubbf h op1 op2 s
  | .mulbf h op1 op2 => Sys2Proof.Machine.execMulbf h op1 op2 s
  | .divbf h op1 op2 => Sys2Proof.Machine.execDivbf h op1 op2 s
  | .fmabf h op1 op2 op3 => Sys2Proof.Machine.execFmabf h op1 op2 op3 s
  | .minbf h op1 op2 => Sys2Proof.Machine.execMinbf h op1 op2 s
  | .maxbf h op1 op2 => Sys2Proof.Machine.execMaxbf h op1 op2 s
  | .negbf h op1 => Sys2Proof.Machine.execNegbf h op1 s
  | .absbf h op1 => Sys2Proof.Machine.execAbsbf h op1 s
  | .lfpc h op1 => Sys2Proof.Machine.execLfpc h op1 s
  | .stfpc h op1 => Sys2Proof.Machine.execStfpc h op1 s
  | .stfia h op1 => Sys2Proof.Machine.execStfia h op1 s
  | .sqrtbf h op1 op2 => Sys2Proof.Machine.execSqrtbf h op1 op2 s
  | .rndbf h op1 op2 => Sys2Proof.Machine.execRndbf h op1 op2 s
  | .cvtib h op1 op2 => Sys2Proof.Machine.execCvtib h op1 op2 s
  | .cvtbi h op1 op2 => Sys2Proof.Machine.execCvtbi h op1 op2 s
  | .cvtbw h op1 op2 => Sys2Proof.Machine.execCvtbw h op1 op2 s
  | .cvtbn h op1 op2 => Sys2Proof.Machine.execCvtbn h op1 op2 s
  | .addp h op1 op2 => Sys2Proof.Machine.execAddp h op1 op2 s
  | .subp h op1 op2 => Sys2Proof.Machine.execSubp h op1 op2 s
  | .cmpp h op1 op2 => Sys2Proof.Machine.execCmpp h op1 op2 s
  | .cvtpi h op1 op2 => Sys2Proof.Machine.execCvtpi h op1 op2 s
  | .cvtip h op1 op2 => Sys2Proof.Machine.execCvtip h op1 op2 s
  | .customInstruction h j ops run => Sys2Proof.Machine.execCustomInstruction h j ops run s
  | .interruptionEntry e => Sys2Proof.Machine.execInterruptionEntry e s
  | .pulockClear pu => Sys2Proof.Machine.execPulockClear pu s
  | .missingBundle pu role => Sys2Proof.Machine.execMissingBundle pu role s
  | .resync pu pause check loss => Sys2Proof.Machine.execResync pu pause check loss s
  | .retake pu pause check loss lost => Sys2Proof.Machine.execRetake pu pause check loss lost s
  | .dissentWindowExpiry pu role => Sys2Proof.Machine.execDissentWindowExpiry pu role s
  | .standinSelftestDone pu pass => Sys2Proof.Machine.execStandinSelftestDone pu pass s
  | .standinCopyDone pu => Sys2Proof.Machine.execStandinCopyDone pu s
  | .standinInsertion pu pause check loss => Sys2Proof.Machine.execStandinInsertion pu pause check loss s
  | .moveslate pu target => Sys2Proof.Machine.execMoveslate pu target s
  | .pairtest pu discard => Sys2Proof.Machine.execPairtest pu discard s
  | .pairtestComplete pu good => Sys2Proof.Machine.execPairtestComplete pu good s
  | .mergingBufferPerform pu bad => Sys2Proof.Machine.execMergingBufferPerform pu bad s
  | .preload pu => Sys2Proof.Machine.execPreload pu s
  | .lock pu => Sys2Proof.Machine.execLock pu s
  | .unlock pu => Sys2Proof.Machine.execUnlock pu s
  | .rangeinv pu => Sys2Proof.Machine.execRangeinv pu s
  | .l2Drain pu => Sys2Proof.Machine.execL2Drain pu s
  | .l2DrainComplete pu => Sys2Proof.Machine.execL2DrainComplete pu s
  | .l2Enable pu => Sys2Proof.Machine.execL2Enable pu s
  | .patrolScrubRead die mc line found => Sys2Proof.Machine.execPatrolScrubRead die mc line found s
  | .deviceStoreTimeout pu => Sys2Proof.Machine.execDeviceStoreTimeout pu s
  | .deviceLoadTimeout pu => Sys2Proof.Machine.execDeviceLoadTimeout pu s
  | .memmapEffect => Sys2Proof.Machine.execMemmapEffect s
  | .zoneEffect => Sys2Proof.Machine.execZoneEffect s
  | .deviceRegionEffect => Sys2Proof.Machine.execDeviceRegionEffect s
  | .rds who line met => Sys2Proof.Machine.execRds who line met s
  | .rdx who line found => Sys2Proof.Machine.execRdx who line found s
  | .upg who line => Sys2Proof.Machine.execUpg who line s
  | .rdnc who line => Sys2Proof.Machine.execRdnc who line s
  | .wrnc who line wr stash part => Sys2Proof.Machine.execWrnc who line wr stash part s
  | .atom a => Sys2Proof.Machine.execAtom a s
  | .snps node line => Sys2Proof.Machine.execSnps node line s
  | .snpx node line => Sys2Proof.Machine.execSnpx node line s
  | .snpn node line => Sys2Proof.Machine.execSnpn node line s
  | .snpi node line => Sys2Proof.Machine.execSnpi node line s
  | .snpr node line => Sys2Proof.Machine.execSnpr node line s
  | .ack node line held dirty data => Sys2Proof.Machine.execAck node line held dirty data s
  | .wb node line data => Sys2Proof.Machine.execWb node line data s
  | .evc node line => Sys2Proof.Machine.execEvc node line s
  | .cmpack who line => Sys2Proof.Machine.execCmpack who line s
  | .data who line data => Sys2Proof.Machine.execData who line data s
  | .homeSnoopTimeout node line => Sys2Proof.Machine.execHomeSnoopTimeout node line s
  | .shutterTick lost => Sys2Proof.Machine.execShutterTick lost s
  | .slotArbitration node link r slot arriving => Sys2Proof.Machine.execSlotArbitration node link r slot arriving s
  | .commit node link r => Sys2Proof.Machine.execCommit node link r s
  | .slotBankExchange => Sys2Proof.Machine.execSlotBankExchange s
  | .gpctlEn k en => Sys2Proof.Machine.execGpctlEn k en s
  | .linkDownRetry k => Sys2Proof.Machine.execLinkDownRetry k s
  | .trainComplete k result => Sys2Proof.Machine.execTrainComplete k result s
  | .speedComplete k up => Sys2Proof.Machine.execSpeedComplete k up s
  | .init k record => Sys2Proof.Machine.execInit k record s
  | .initTimeout k => Sys2Proof.Machine.execInitTimeout k s
  | .flitReceive k flit fec => Sys2Proof.Machine.execFlitReceive k flit fec s
  | .nakReplay k ackseq => Sys2Proof.Machine.execNakReplay k ackseq s
  | .replayTimeout k => Sys2Proof.Machine.execReplayTimeout k s
  | .retrainEnd k up => Sys2Proof.Machine.execRetrainEnd k up s
  | .guestLinkDown k cause => Sys2Proof.Machine.execGuestLinkDown k cause s
  | .guestRequest k record data => Sys2Proof.Machine.execGuestRequest k record data s
  | .guestRequestDispatch k pos found => Sys2Proof.Machine.execGuestRequestDispatch k pos found s
  | .drd pu => Sys2Proof.Machine.execDrd pu s
  | .dwr d => Sys2Proof.Machine.execDwr d s
  | .drsp k record data => Sys2Proof.Machine.execDrsp k record data s
  | .creditReturn k kind count => Sys2Proof.Machine.execCreditReturn k kind count s
  | .quiesce k => Sys2Proof.Machine.execQuiesce k s
  | .gpResume k => Sys2Proof.Machine.execGpResume k s
  | .flush k => Sys2Proof.Machine.execFlush k s
  | .flushed k => Sys2Proof.Machine.execFlushed k s
  | .gpbindWrite k v => Sys2Proof.Machine.execGpbindWrite k v s
  | .pioqrWrite p r v => Sys2Proof.Machine.execPioqrWrite p r v s
  | .startDispatch => Sys2Proof.Machine.execStartDispatch s
  | .journalSpill => Sys2Proof.Machine.execJournalSpill s
  | .cceFetch ioq => Sys2Proof.Machine.execCceFetch ioq s
  | .statusStore ioq => Sys2Proof.Machine.execStatusStore ioq s
  | .startTimerExpiry ioq => Sys2Proof.Machine.execStartTimerExpiry ioq s
  | .channelEngineFailure engine => Sys2Proof.Machine.execChannelEngineFailure engine s
  | .pathLossTimeout ioq => Sys2Proof.Machine.execPathLossTimeout ioq s
  | .csctlEnable v => Sys2Proof.Machine.execCsctlEnable v s
  | .channelFrameReceive port frame fcs => Sys2Proof.Machine.execChannelFrameReceive port frame fcs s
  | .pfcPause port level => Sys2Proof.Machine.execPfcPause port level s
  | .neighborSolicitation port target asker => Sys2Proof.Machine.execNeighborSolicitation port target asker s
  | .login port cu => Sys2Proof.Machine.execLogin port cu s
  | .loginacc port cu f => Sys2Proof.Machine.execLoginacc port cu f s
  | .echo port cu => Sys2Proof.Machine.execEcho port cu s
  | .echorep port cu f => Sys2Proof.Machine.execEchorep port cu f s
  | .echoTimeout port cu => Sys2Proof.Machine.execEchoTimeout port cu s
  | .channelAck port cu f => Sys2Proof.Machine.execChannelAck port cu f s
  | .ackDelayExpiry ioq => Sys2Proof.Machine.execAckDelayExpiry ioq s
  | .cmdFrame ioq => Sys2Proof.Machine.execCmdFrame ioq s
  | .dataFrame move => Sys2Proof.Machine.execDataFrame move s
  | .ckpt ioq => Sys2Proof.Machine.execCkpt ioq s
  | .term ioq => Sys2Proof.Machine.execTerm ioq s
  | .cmdend port cu f => Sys2Proof.Machine.execCmdend port cu f s
  | .endack ioq => Sys2Proof.Machine.execEndack ioq s
  | .resumeFrame ioq journal => Sys2Proof.Machine.execResumeFrame ioq journal s
  | .halt ioq => Sys2Proof.Machine.execHalt ioq s
  | .clear ioq => Sys2Proof.Machine.execClear ioq s
  | .haltack port cu f => Sys2Proof.Machine.execHaltack port cu f s
  | .clearack port cu f => Sys2Proof.Machine.execClearack port cu f s
  | .retransmissionTimeout ioq => Sys2Proof.Machine.execRetransmissionTimeout ioq s
  | .belcmdTest e pass => Sys2Proof.Machine.execBelcmdTest e pass s
  | .mutcmdTest e pass => Sys2Proof.Machine.execMutcmdTest e pass s
  | .release e => Sys2Proof.Machine.execRelease e s
  | .provision => Sys2Proof.Machine.execProvision s
  | .kekErase => Sys2Proof.Machine.execKekErase s
  | .pkeyownWrite p e v => Sys2Proof.Machine.execPkeyownWrite p e v s
  | .linkKeyLoad => Sys2Proof.Machine.execLinkKeyLoad s
  | .linkKeyErase => Sys2Proof.Machine.execLinkKeyErase s
  | .linkKeyGraceExpiry cu => Sys2Proof.Machine.execLinkKeyGraceExpiry cu s
  | .drbgReseed die healthy => Sys2Proof.Machine.execDrbgReseed die healthy s
  | .cutTrigger present fire part => Sys2Proof.Machine.execCutTrigger present fire part s
  | .unfreeze => Sys2Proof.Machine.execUnfreeze s
  | .configRequest r => Sys2Proof.Machine.execConfigRequest r s
  | .bar0Access write off whole v => Sys2Proof.Machine.execBar0Access write off whole v s
  | .unsupportedRequest posted => Sys2Proof.Machine.execUnsupportedRequest posted s
  | .bar2WindowAccess w o write words => Sys2Proof.Machine.execBar2WindowAccess w o write words s
  | .epwinWrite w v => Sys2Proof.Machine.execEpwinWrite w v s
  | .epwinEffect => Sys2Proof.Machine.execEpwinEffect s
  | .doorbell m whole => Sys2Proof.Machine.execDoorbell m whole s
  | .abortPu m => Sys2Proof.Machine.execAbortPu m s
  | .abortIoq m => Sys2Proof.Machine.execAbortIoq m s
  | .abortChannelEngine m => Sys2Proof.Machine.execAbortChannelEngine m s
  | .abortBellows m => Sys2Proof.Machine.execAbortBellows m s
  | .abortMute m => Sys2Proof.Machine.execAbortMute m s
  | .abortComplete m => Sys2Proof.Machine.execAbortComplete m s
  | .copyin m => Sys2Proof.Machine.execCopyin m s
  | .copyout m => Sys2Proof.Machine.execCopyout m s
  | .hostCompletion tag status ep data => Sys2Proof.Machine.execHostCompletion tag status ep data s
  | .completionTimeout tag => Sys2Proof.Machine.execCompletionTimeout tag s
  | .restart m => Sys2Proof.Machine.execRestart m s
  | .firmwareMessage m => Sys2Proof.Machine.execFirmwareMessage m s
  | .epfwdone m status => Sys2Proof.Machine.execEpfwdone m status s
  | .epattnset => Sys2Proof.Machine.execEpattnset s
  | .busMasterDisable => Sys2Proof.Machine.execBusMasterDisable s
  | .functionLevelReset => Sys2Proof.Machine.execFunctionLevelReset s
  | .sePerst => Sys2Proof.Machine.execSePerst s
  | .ppsEdge t => Sys2Proof.Machine.execPpsEdge t s
  | .ppsPulseAccept high => Sys2Proof.Machine.execPpsPulseAccept high s
  | .ppsWindowClose => Sys2Proof.Machine.execPpsWindowClose s
  | .todStep => Sys2Proof.Machine.execTodStep s
  | .todset v => Sys2Proof.Machine.execTodset v s
  | .todctlWrite v => Sys2Proof.Machine.execTodctlWrite v s
  | .todsteerWrite v => Sys2Proof.Machine.execTodsteerWrite v s
  | .clockComparator pu => Sys2Proof.Machine.execClockComparator pu s
  | .temperatureSample readings => Sys2Proof.Machine.execTemperatureSample readings s
  | .pwrgoodRise => Sys2Proof.Machine.execPwrgoodRise s
  | .pwrgoodFall => Sys2Proof.Machine.execPwrgoodFall s
  | .resetNLow => Sys2Proof.Machine.execResetNLow s
  | .resetNRise => Sys2Proof.Machine.execResetNRise s
  | .arraysComplete dies sramA sramB node lkarr links => Sys2Proof.Machine.execArraysComplete dies sramA sramB node lkarr links s
  | .memoryTrainingComplete chans => Sys2Proof.Machine.execMemoryTrainingComplete chans s
  | .selftestComplete r1 r2 => Sys2Proof.Machine.execSelftestComplete r1 r2 s
  | .loadmc => Sys2Proof.Machine.execLoadmc s
  | .startfw pu => Sys2Proof.Machine.execStartfw pu s
  | .iplchan pu part => Sys2Proof.Machine.execIplchan pu part s
  | .iplchanEnd => Sys2Proof.Machine.execIplchanEnd s
  | .iplmem pu part => Sys2Proof.Machine.execIplmem pu part s
  | .preset part => Sys2Proof.Machine.execPreset part s
  | .presetFlushTimeout k => Sys2Proof.Machine.execPresetFlushTimeout k s
  | .sysreset => Sys2Proof.Machine.execSysreset s
  | .moduleSeal => Sys2Proof.Machine.execModuleSeal s
  | .partitionSeal p => Sys2Proof.Machine.execPartitionSeal p s
  | .pupartWrite pu p => Sys2Proof.Machine.execPupartWrite pu p s
  | .enroll p => Sys2Proof.Machine.execEnroll p s
  | .load p => Sys2Proof.Machine.execLoad p s
  | .unload p => Sys2Proof.Machine.execUnload p s
  | .ident => Sys2Proof.Machine.execIdent s
  | .extest => Sys2Proof.Machine.execExtest s
  | .sample lands => Sys2Proof.Machine.execSample lands s
  | .preloadScan cells => Sys2Proof.Machine.execPreloadScan cells s
  | .debugHalt pu => Sys2Proof.Machine.execDebugHalt pu s
  | .debugStep pu => Sys2Proof.Machine.execDebugStep pu s
  | .debugResume pu => Sys2Proof.Machine.execDebugResume pu s
  | .debugLock => Sys2Proof.Machine.execDebugLock s
  | .trstLow => Sys2Proof.Machine.execTrstLow s
  | .dbgacc kind wr addr w => Sys2Proof.Machine.execDbgacc kind wr addr w s
  | .vfselUpdate v => Sys2Proof.Machine.execVfselUpdate v s
  | .registerWrite addr v => Sys2Proof.Machine.execRegisterWrite addr v s
  | .unassignedOpcode h b1 b2 => Sys2Proof.Machine.execUnassignedOpcode h b1 b2 s
  | .cmpResponse who line => Sys2Proof.Machine.execCmpResponse who line s
  | .channelPortLinkUp port => Sys2Proof.Machine.execChannelPortLinkUp port s
  | .channelPortLinkDown port => Sys2Proof.Machine.execChannelPortLinkDown port s
  | .pfcFrameReceive port enable quanta => Sys2Proof.Machine.execPfcFrameReceive port enable quanta s
  | .pfcPauseExpiry port => Sys2Proof.Machine.execPfcPauseExpiry port s
  | .haltRetransmissionTimeout ioq => Sys2Proof.Machine.execHaltRetransmissionTimeout ioq s
  | .engineCheckWindowExpiry e mute => Sys2Proof.Machine.execEngineCheckWindowExpiry e mute s
  | .moveslateComplete pu => Sys2Proof.Machine.execMoveslateComplete pu s
  | .l2CommandComplete pu => Sys2Proof.Machine.execL2CommandComplete pu s
  | .openMicrostoreCommandComplete => Sys2Proof.Machine.execOpenMicrostoreCommandComplete s
  | .kekCommandComplete => Sys2Proof.Machine.execKekCommandComplete s
  | .linkKeyCommandComplete => Sys2Proof.Machine.execLinkKeyCommandComplete s
  | .loadmcComplete => Sys2Proof.Machine.execLoadmcComplete s
  | .presetComplete => Sys2Proof.Machine.execPresetComplete s
  | .systemResetWritebackComplete => Sys2Proof.Machine.execSystemResetWritebackComplete s
  | .timingOutputEdge t => Sys2Proof.Machine.execTimingOutputEdge t s
  | .endpointLinkUp rate width => Sys2Proof.Machine.execEndpointLinkUp rate width s
  | .endpointLinkDown => Sys2Proof.Machine.execEndpointLinkDown s
  | .sePerstRelease => Sys2Proof.Machine.execSePerstRelease s
  | .debugUnlock response => Sys2Proof.Machine.execDebugUnlock response s

end Sys2Proof.Machine
end

