-- ==== Sys2Proof/Safety.lean ====
section
/-! DEFINITION. What counts as an undisturbed run of one command, and the terms claims use: a PU ready for its next instruction, an
instruction that starts and completes, and what reading operands may leave behind. -/

namespace Sys2Proof.Machine

/-! ### Instructions -/

/-- A PU that will run its next instruction with nothing due at the boundaries before and after it: it may run (R132 to R134, R166,
R193), no unit of it waits at an engine, and no retake or resync is due. -/
def ready (s : State) (n : Nat) : Bool :=
  canRun s n && !pswW (s.pu n).psw && (dueEntry s n true).isNone && (s.pu n).job.isNone && decide ((s.pu n).due = .none)
    && (s.pu n).resync.isNone
    && !(s.pu n).stopHeld && !(s.pu n).loaderStop && !(s.pu n).stepArm && !(s.pu n).haltReq

/-- The state in which an instruction's checks begin. -/
def atStart (s : State) (n : Nat) : State := s.modPu n (fun p => { p with latchPos := 0, resume := none, touched := [] })

/-- An instruction of a ready PU that all cores agree on and that passes steps 1 to 4 of R83. -/
structure Starts (h : Hdr) (i : OpInfo) (sp : List Spec) (s : State) (c : Ctx) (s1 : State) : Prop where
  ready : ready s h.pu.val = true
  vote  : h.vote = .agree
  begins : prelude h i sp (atStart s h.pu.val) = .ok c s1

/-- The state after the last act of an instruction: PU n's registers become g of what they were, the lines it read are in its caches
(R197), and the latched responses are spent (R177). -/
def ended (s : State) (n : Nat) (g : Pu → Pu) : State :=
  (settle (s.modPu n g) n).modPu n (fun p => { p with latch := [], latchPos := 0 })

/-- The state after an instruction that completes: its stores are in the merging buffer `b`, its register effect is `f`, the stack
has moved (R77), IA is past it. -/
def completed (c : Ctx) (i : OpInfo) (sp : List Spec) (s : State) (b : List MbEntry) (f : Pu → Pu) : State :=
  ended s c.pu (fun p => ((f { p with mb := b }).moveStack i sp).setIA c.next)

/-- The state in which the target of a branch, call or return is checked: as `completed`, with IA at the target. -/
def arrived (c : Ctx) (i : OpInfo) (sp : List Spec) (s : State) (b : List MbEntry) (f : Pu → Pu) (t : Nat) : State :=
  s.modPu c.pu (fun p => ((f { p with mb := b }).moveStack i sp).setIA t)

/-- The instruction in progress has no request latched that it has not passed: its next request is sent, not answered again
(R177, R181). -/
def unlatched (s : State) (n : Nat) : Bool := ((s.pu n).latch[(s.pu n).latchPos]?).isNone

/-- The state in which a request of PU n has been sent and its response is latched (R175, R177). -/
def requested (s : State) (n : Nat) (kind : ReqKind) (addr : Nat) (resp : List TWord) : State :=
  s.modPu n (fun p =>
    { p with latch := p.latch ++ [{ kind := kind, addr := addr, resp := some resp }], latchPos := p.latchPos + 1 })

/-- The entry that an instruction's exception leads to at its boundary (R134, R138): the state after it, none while the merging
buffer has no room for its stores, or the slot's line is away. -/
def trapped (s : State) (n : Nat) (e : Exc) : Option State :=
  takeEntry ((settle s n).modPu n (fun p => { p with prog := some e, latch := [], latchPos := 0 })) n (.prog e)

/-! ### Lines among caches -/

/-- A word of memory where lines move among the caches and DRAM: it reads as before, or as DRAM held it before where an error had
changed it there (R214), or POISON where its line's owner has failed (R250). -/
def Kept (s t : State) (a : Nat) : Prop :=
  memGet t a = memGet s a ∨ (a, memGet t a) ∈ s.dram ∨ (ownerLost s (a / 8) = true ∧ memGet t a = poisonWord)

/-- What the movement of lines among caches, die trackers, directories and DRAM may change: no register of a PU, no control-space
register, no word of memory but as `Kept` says (R197 to R208, R230 to R242). -/
structure LinesMoved (s t : State) : Prop where
  rest : { t with dir := s.dir, dirClock := s.dirClock, l3 := s.l3, trk := s.trk, pus := s.pus, mem := s.mem, tbHist := s.tbHist,
                  dram := s.dram, fresh := s.fresh } = s
  pu   : ∀ k, { t.pu k with l2 := (s.pu k).l2, l2resv := (s.pu k).l2resv, l1i := (s.pu k).l1i, l1d := (s.pu k).l1d,
                            pred := (s.pu k).pred, near := (s.pu k).near, touched := (s.pu k).touched } = s.pu k
  mem  : ∀ a, Kept s t a

/-- What a word may turn into when it is a table entry passed by an access: REF, or REF and CHG, set (R57). -/
def Marked (x y : TWord) : Prop :=
  y = x ∨ y = { x with data := x.data ||| 0x400 } ∨ y = { x with data := x.data ||| 0x600 }

/-- What the checks and reads of an instruction of PU n may leave behind: REF and CHG bits in memory, free values drawn, the low
half that goes with a read of TODHI, the PU's own requests with their responses, and which lines it has read. -/
structure ReadsOnly (n : Nat) (s t : State) : Prop where
  rest  : { t with mem := s.mem, fresh := s.fresh, clock := s.clock, pus := s.pus } = s
  clock : { t.clock with lo := s.clock.lo } = s.clock
  other : ∀ k, k ≠ n → t.pu k = s.pu k
  own   : { t.pu n with latch := (s.pu n).latch, latchPos := (s.pu n).latchPos, devLoad := (s.pu n).devLoad,
                          touched := (s.pu n).touched } = s.pu n
  mem   : ∀ a, Marked (memGet s a) (memGet t a)

/-- A PU whose waiting unit an engine has just answered and that has nothing of its own to take at the boundary (R363). -/
def serving (s : State) (n : Nat) : Bool :=
  canRun s n && !pswW (s.pu n).psw && !atBoundary (s.pu n) && (s.pu n).mcImm.isNone && (s.pu n).prog.isNone
    && (s.pu n).job.isSome && decide ((s.pu n).due = .none) && (s.pu n).resync.isNone
    && !(s.pu n).stopHeld && !(s.pu n).loaderStop && !(s.pu n).stepArm && !(s.pu n).haltReq

/-- A unit of a PU that its engine serves, on whose bundle all cores agree and that passes steps 1 to 4 of R83 again. -/
structure Serves (h : Hdr) (i : OpInfo) (sp : List Spec) (s : State) (c : Ctx) (s1 : State) : Prop where
  ready : serving s h.pu.val = true
  vote  : h.vote = .agree
  begins : prelude h i sp (atStart s h.pu.val) = .ok c s1

/-- The state after a unit at an engine: its output is in memory (R182, R366), PU n's registers become g of what they were, and
nothing of the unit waits any more. -/
def served (s : State) (n : Nat) (out : List HeldStore) (g : Pu → Pu) : State :=
  (out.foldl HeldStore.perform ((settle (s.modPu n (fun p => { g p with unitHold := out })) n).modPu n
    (fun p => { p with unitHold := [], job := none }))).modPu n (fun p => { p with latch := [], latchPos := 0 })

/-- The state of a PU whose unit waits at its engine: the unit is posted, and the PU is at a unit boundary, the instruction where it
was (R145). -/
def posted (s : State) (n : Nat) (kind : UnitKind) (cont : Bool) (pfx : List (BitVec 4)) (ops : List Spec) (len : Nat) : State :=
  (settle (s.modPu n (fun p =>
    { p with latch := p.latch ++ [{ kind := .engine, addr := 0, resp := none }],
             job := some { kind := kind, cont := cont, pfx := pfx, ops := ops }, resume := some len })) n).modPu n
    (fun p => { p with resume := some len })

/-- A pair's registers after a unit: at the last unit CC is set and IA passes the instruction; before, the instruction's length is
kept for an entry at the unit boundary (R94, R145). -/
def afterUnit (c : Ctx) (last : Bool) (cc : Nat) (f : Pu → Pu) (p : Pu) : Pu :=
  if last then ((f p).setCC cc).setIA c.next else { f p with resume := some c.len }

/-! ### Events -/

/-- The registers of a PU that software sees (R42 to R49, R119). -/
def Pu.arch (p : Pu) : Pu :=
  { Pu.reset with g := p.g, b := p.b, rsp := p.rsp, psw := p.psw, ctl := p.ctl, pfxArea := p.pfxArea, fpc := p.fpc,
                  fpfia := p.fpfia, busy := p.busy }

/-- An event that leaves memory and the registers of every PU as they were. -/
structure Quiet (s t : State) : Prop where
  mem : t.mem = s.mem
  pus : ∀ k, (t.pu k).arch = (s.pu k).arch

/-- An event that moves lines among caches, directories and DRAM, and leaves the registers of every PU as they were. -/
structure MovesLines (s t : State) : Prop where
  mem : ∀ a, Kept s t a
  pus : ∀ k, (t.pu k).arch = (s.pu k).arch

/-- A PU that has nothing of its own to take at a boundary and stops for no one there. -/
def calm (s : State) (n : Nat) : Bool :=
  !puLocked s n && (s.pu n).mcImm.isNone && (s.pu n).prog.isNone && (s.pu n).resync.isNone && !(s.pu n).stopHeld
    && !(s.pu n).loaderStop && !(s.pu n).stepArm && !(s.pu n).haltReq

/-- The flit with which a message leaves a port whose transmit stage has nothing waiting (R278 to R281): the message's stream, its
record, its data words. -/
def flitOut (g : GPort) (m : List Nat) : Nat :=
  let (payload, descs, _) := packMsg g.txOff (msgChunks (m.headD 0) (m.drop 1))
  ofBE (flitBody payload descs (linkControl g g.txSeq false 0))

/-- A null flit of a port, with an LCMD. -/
def nullOut (g : GPort) (lcmd : Nat) : Nat :=
  ofBE (flitBody (List.replicate 232 0) (List.replicate 4 0) (linkControl g 0 true lcmd))

/-- The exchange of an IOQ's active start. -/
def exchOf (s : State) (q : Nat) : Option Exch := (activeOf s q).map (·.2)

/-! ### The whole state -/

/-- The canonical forms: memory, complex control space and the PUs as lists with strictly rising keys, none listed with what an unlisted
one holds. -/
def Canonical (s : State) : Prop :=
  Memory.wf s.mem = true ∧ spWf regDefault s.regs = true ∧ spWf (fun _ => Pu.reset) s.pus = true

end Sys2Proof.Machine
end

