-- ==== Sys2Proof/Certificates/Slice0/Obligations.lean ====
section
/-! DEFINITION. The statements for the provers, from the numbered rules of the spec; OBLIGATIONS.json names the sections each rests
on. `Starts` is an instruction of a ready PU that passes steps 1 to 4 of R83; `completed`, `arrived`, `ended` and `trapped` are
the states that Safety.lean defines; `Quiet` says that memory and the PUs' registers are as they were. -/

open Sys2Proof Sys2Proof.Machine

/-- The block's step: the command at the front of the queue runs on the state with the queue's rest. On an empty queue the block
idles: one fabric cycle of a running shutter passes, and, while no request of the support host, boot command or debug access
waits for memory (R391, R236, R437), nothing else changes (log entry 6: the model's choice). -/
def Obligations.Step_runs_or_idles : Prop :=
  (∀ (c : Instr) (rest : List Instr) (s : State), s.pending = c :: rest → step s = exec c { s with pending := rest }) ∧
  (∀ s : State, s.pending = [] → ∃ t, step s = .next t ∧ (s.ep.tlps = [] → (∀ c n p, s.boot.job ≠ some (.held c n p)) → s.dbg.accRun = none → { t with regs := s.regs } = s ∧
     (∀ a, a ≠ 0x50000 → ccsGet t a = ccsGet s a) ∧ shCount t = shCount s ∧
     ccsFld t 0x50000 10 0 = if s.boot.pwrGood && s.boot.ran then min (ccsFld s 0x50000 10 0 + 1) 2047 else ccsFld s 0x50000 10 0))

/-- What power-up leaves: every word of memory and every general register data 0 tagged UNINIT, empty banks, the other registers of
a PU zero but CLKCMP, and every register of complex control space at its Reset value. That RSP and the busy bits read 0 is log
entry 1. The canonical forms of memory, of complex control space and of the PUs hold at reset. -/
def Obligations.Reset_leaves_the_reset_values : Prop :=
  ((∀ a, memGet State.reset a = ⟨0, tagUninit⟩) ∧ (∀ a, ccsGet State.reset a = regDefault a) ∧
   (∀ n, let p := State.reset.pu n
     (∀ k, p.reg k = ⟨0, tagUninit⟩) ∧ (∀ k, p.bank k = Bank.empty) ∧ p.psw = 0 ∧ p.fpc = 0 ∧ p.fpfia = 0 ∧ p.pfxArea = 0 ∧
     p.rsp = 0 ∧ p.busy = 0 ∧ (∀ k, p.ctlReg k = if k = 12 then 0xFFFFFFFFFFFFFFFF else 0) ∧ p.mb = []) ∧
   State.reset.pending = []) ∧
  (Canonical State.reset)

/-- Every step of every command keeps the canonical forms: words, registers and PUs listed in strictly rising order, none with the
value an unlisted one has. -/
def Obligations.Every_step_keeps_the_canonical_forms : Prop :=
  ∀ s t : State, Canonical s → step s = .next t → Canonical t

/-- A word of memory is read as it was last written, data and tag together, by every path that writes memory: a PU's performed
store, an agent's write, a table bit; every other word, and every byte of it, is as before, but for what the movement of lines
among the caches leaves of an error in DRAM or of a failed node (R214, R250). -/
def Obligations.Memory_reads_what_was_written : Prop :=
  ∀ (s : State) (w a : Nat) (v : TWord),
    (memGet (memPut s w v) a = if a = w then v else memGet s a) ∧
    (memGet (memPutRaw s w v) a = if a = w then v else memGet s a) ∧
    (memGet (cachePut s w v) a = if a = w then v else memGet s a) ∧
    (a / 8 ≠ w → memByte (memPut s w v) a = memByte s a) ∧
    memGet (agentWrite s w v) w = v ∧ (a ≠ w → Kept s (agentWrite s w v) a) ∧
    (s.dram = [] → ownerLost s (w / 8) = false → a ≠ w → memGet (agentWrite s w v) a = memGet s a) ∧
    (a / 8 = w → memByte (agentWrite s w v) a = v.data.extractLsb' (8 * (7 - a % 8)) 8) ∧
    ∀ n, LinesMoved s (settle s n)

/-- What an instruction leaves unchanged. Its checks and the reads of its operands are `ReadsOnly`; completing it changes, of all of
memory, complex control space and every PU, only its destination registers, G15 where the stack moves (R77), the condition code
where it sets one, and IA: banks, RSP, control registers, PREFIX, FPC, the busy bits and the rest of the PSW stay. The lines it
has read come into its PU's caches, which moves lines among caches (R197, R208); with none read, all else is exactly as it was. -/
def Obligations.Instructions_leave_the_rest : Prop :=
  (∀ (h : Hdr) (i : OpInfo) (sp : List Spec) (s s1 : State) (c : Ctx), Starts h i sp s c s1 →
    c.pu = h.pu.val ∧ ReadsOnly c.pu (atStart s c.pu) s1) ∧
  (∀ (c : Ctx) (pl : Place) (len : Nat) (ok : List Tag) (sp : Spec) (s t : State),
    (∀ w, source c pl len ok sp s = .ok w t → ReadsOnly c.pu s t) ∧ (∀ l, target c pl len sp s = .ok l t → ReadsOnly c.pu s t) ∧
    (∀ x, update c pl len ok sp s = .ok x t → ReadsOnly c.pu s t)) ∧
  (∀ (c : Ctx) (i : OpInfo) (sp : List Spec) (s : State) (b : List MbEntry) (n v : Nat) (w x : TWord) (f : Pu → Pu) (dst : List Nat)
      (cc : Bool),
    (f, dst, cc) ∈ [(id, [], false), (fun p => p.setCC v, [], true), (fun p => p.setReg n w, [n], false),
      (fun p => (p.setReg n w).setCC v, [n], true), (fun p => (setPair n w x p).setCC v, [n, n + 1], true)] →
    let t := completed c i sp s b f
    let p := s.pu c.pu
    let q := t.pu c.pu
    (∀ a, Kept s t a) ∧ t.regs = s.regs ∧ (∀ k, k ≠ c.pu → (t.pu k).arch = (s.pu k).arch ∧ (t.pu k).mb = (s.pu k).mb) ∧
    (p.touched = [] → t.mem = s.mem ∧ ∀ k, k ≠ c.pu → t.pu k = s.pu k) ∧ q.mb = b ∧
    (∀ k, k ∉ dst → (k ≠ 15 ∨ (countPops i.slots sp = 0 ∧ countPushes i.slots sp = 0)) → q.reg k = p.reg k) ∧
    (∀ k, q.bank k = p.bank k) ∧ q.rsp = p.rsp ∧ q.ctl = p.ctl ∧ q.pfxArea = p.pfxArea ∧ q.fpc = p.fpc ∧ q.fpfia = p.fpfia ∧
    q.busy = p.busy ∧ pswIA q.psw = c.next % 2 ^ 64 ∧ pswCC q.psw = (if cc then v % 4 else pswCC p.psw) ∧
    ∀ j, 64 ≤ j → j < 128 → j ≠ 108 → j ≠ 109 → q.psw.getLsbD j = p.psw.getLsbD j)

/-- The value of a source: a register with its tag accepted; an immediate, sign-extended from its 1, 2, 4 or 8 bytes and tagged INT;
a word of installed memory as the PU sees it, its own waiting stores in front, or the bytes asked for in the low end. -/
def Obligations.Source_operand_values : Prop :=
  ∀ (c : Ctx) (pl : Place) (len : Nat) (ok : List Tag) (s : State),
    (∀ n : BitVec 4, ok.contains ((s.pu c.pu).reg n.toNat).tag = true →
      source c pl len ok (.reg n) s = .ok ((s.pu c.pu).reg n.toNat) s) ∧
    (∀ (arg : BitVec 4) (v : Word), source c pl len ok (.imm arg v) s =
      .ok (intWord (if arg = 0 then (v.truncate 8).signExtend 64 else if arg = 1 then (v.truncate 16).signExtend 64
        else if arg = 2 then (v.truncate 32).signExtend 64 else v)) s) ∧
    (∀ (long : Bool) (bank : BitVec 3) (idx : Option Idx) (disp : BitVec 32) (off : Nat) (s1 s2 : State) (m : MLoc),
      specAddr c pl (.mem long bank idx disp) s = .ok (bank.toNat, off) s1 →
      memLoc c pl.slot bank.toNat off len pl.use.kind pl.use.right .window s1 = .ok m s2 →
      inWindow m.abs = false → inDevice m.abs = false → strictPending (s2.pu c.pu).mb = false →
      mayRead s2 c.pu (m.abs / 64) = true →
      ok.contains (puView s2 c.pu (m.abs / 8)).tag = true →
      policyLoad (bankPolicy s2 c.pu m.bank) (puView s2 c.pu (m.abs / 8)).tag = true →
      source c pl len ok (.mem long bank idx disp) s = .ok (partOf m (puView s2 c.pu (m.abs / 8)))
        (s2.modPu c.pu (fun p => { p with touched := p.touched ++ [(false, m.abs / 64)] })))

/-- LD, LDW, LDH and LDB write op1 with the word or with the zero-extended bytes, tagged INT or UNINIT, and change no condition
code. ST, STW, STH and STB place the whole word with its tag, or the low bytes of the source, in the merging buffer at op1's
address, and change no register but G15 where the stack moves (op1 is never a register, R74). The model's own readings here: log
entry 28. -/
def Obligations.Loads_and_stores : Prop :=
  (∀ (h : Hdr) (op1 op2 : Spec) (s s1 s2 : State) (c : Ctx) (w : TWord), Starts h opLoad [op1, op2] s c s1 →
     (source c (place opLoad [op1, op2] 2) 8 tagsWhole op2 s1 = .ok w s2 →
       exec (.ld h op1 op2) s =
         .next (completed c opLoad [op1, op2] s2 (s2.pu c.pu).mb (fun p => p.setReg (regNum op1) w))) ∧
     ∀ i len, (i, len) ∈ [(Instr.ldw h op1 op2, 4), (.ldh h op1 op2, 2), (.ldb h op1 op2, 1)] →
       source c (place opLoad [op1, op2] 2) len tagsNarrow op2 s1 = .ok w s2 →
       exec i s = .next (completed c opLoad [op1, op2] s2 (s2.pu c.pu).mb
         (fun p => p.setReg (regNum op1) ⟨w.data, if w.tag = tagUninit then tagUninit else tagInt⟩))) ∧
  (∀ (h : Hdr) (op1 op2 : Spec) (s s1 s2 s3 : State) (c : Ctx) (l : Loc) (w : TWord) (b : List MbEntry) (i : Instr)
       (len : Nat), Starts h opStore [op1, op2] s c s1 →
     (i, len) ∈ [(Instr.st h op1 op2, 8), (.stw h op1 op2, 4), (.sth h op1 op2, 2), (.stb h op1 op2, 1)] →
     target c (place opStore [op1, op2] 1) len op1 s1 = .ok l s2 →
     source c (place opStore [op1, op2] 2) 8 (if len = 8 then tagsWhole else tagsLogic) op2 s2 = .ok w s3 →
     checkDest c l w.tag s3 = .ok () s3 → (s3.pu c.pu).push (storesOf s3 c.pu l w) = some b →
     exec i s = .next (completed c opStore [op1, op2] s3 b (fun p => regOf l w p)))

/-- LDA gives the offset tagged PTR with no access; LDX and STX load and store at an offset of B6 or of the override; MOV copies a
word with its tag. LDBANK loads a bank register from two words tagged DESC with a valid attribute word; STBANK stores the two
words, or two UNINIT words where the bank holds no descriptor. The model's own readings here: log entry 27. -/
def Obligations.Moves_and_bank_loads : Prop :=
  (∀ (h : Hdr) (op1 op2 : Spec) (s s1 s2 s3 : State) (c : Ctx),
     (∀ b o, Starts h opLda [op1, op2] s c s1 → specAddr c (place opLda [op1, op2] 2) op2 s1 = .ok (b, o) s2 →
       exec (.lda h op1 op2) s = .next (completed c opLda [op1, op2] s2 (s2.pu c.pu).mb
         (fun p => p.setReg (regNum op1) ⟨BitVec.ofNat 64 o, tagPtr⟩))) ∧
     (∀ m w, Starts h opLdx [op1, op2] s c s1 →
       let o := (s1.pu c.pu).reg (regNum op2)
       accepted c tagsIntPtr o.tag = true →
       memLoc c 4 (c.bank.getD 6) o.data.toNat 8 .load .r .window s1 = .ok m s2 →
       readLoc c 4 tagsWhole (.mem m) s2 = .ok w s3 →
       exec (.ldx h op1 op2) s =
         .next (completed c opLdx [op1, op2] s3 (s3.pu c.pu).mb (fun p => p.setReg (regNum op1) w))) ∧
     (∀ m b, Starts h opStx [op1, op2] s c s1 →
       let o := (s1.pu c.pu).reg (regNum op1)
       let w := (s1.pu c.pu).reg (regNum op2)
       accepted c tagsIntPtr o.tag = true → tagsWhole.contains w.tag = true →
       memLoc c 4 (c.bank.getD 6) o.data.toNat 8 .store .w .window s1 = .ok m s2 → checkDest c (.mem m) w.tag s2 = .ok () s2 →
       (s2.pu c.pu).push [storeOf s2 c.pu m w] = some b →
       exec (.stx h op1 op2) s = .next (completed c opStx [op1, op2] s2 b id)) ∧
     (∀ l w b, Starts h opMov [op1, op2] s c s1 → target c (place opMov [op1, op2] 1) 8 op1 s1 = .ok l s2 →
       source c (place opMov [op1, op2] 2) 8 tagsWhole op2 s2 = .ok w s3 → checkDest c l w.tag s3 = .ok () s3 →
       (s3.pu c.pu).push (storesOf s3 c.pu l w) = some b →
       exec (.mov h op1 op2) s = .next (completed c opMov [op1, op2] s3 b (fun p => regOf l w p)))) ∧
  (∀ (h : Hdr) (op1 op2 : Spec) (s s1 s2 s3 s4 : State) (c : Ctx) (k : TWord) (ms : List MLoc),
     accepted c tagsInt k.tag = true → k.data.toNat < 8 →
     (∀ b a, Starts h opLdbank [op1, op2] s c s1 → source c (place opLdbank [op1, op2] 1) 8 tagsAny op1 s1 = .ok k s2 →
       longOperand c (place opLdbank [op1, op2] 2) 2 16 op2 s2 = .ok ms s3 → readPair c tagsOwn ms s3 = .ok [b, a] s4 →
       b.tag = tagDesc → a.tag = tagDesc → attrValid a.data = true →
       exec (.ldbank h op1 op2) s =
         .next (completed c opLdbank [op1, op2] s4 (s4.pu c.pu).mb (fun p => p.setBank k.data.toNat ⟨b, a⟩))) ∧
     (∀ m, Starts h opStore [op1, op2] s c s1 → longOperand c (place opStore [op1, op2] 1) 2 16 op1 s1 = .ok ms s2 →
       source c (place opStore [op1, op2] 2) 8 tagsAny op2 s2 = .ok k s3 →
       let b := (s3.pu c.pu).bank k.data.toNat
       let ws := if b.base.tag = tagDesc ∧ b.attr.tag = tagDesc then [b.base, b.attr] else [uninitWord, uninitWord]
       pairPolicy c ms ws s3 = .ok () s3 → (s3.pu c.pu).push (pairStores s3 c.pu ms ws) = some m →
       exec (.stbank h op1 op2) s = .next (completed c opStore [op1, op2] s3 m id)))

/-- ADD, SUB, AND, OR, XOR, NEG and NOT, not atomic: the result of R95 to R97 goes to op1 with its tag, CC is set, and nothing else.
(The atomic forms are the near and far atomics of R243.) What the integer and logical operations compute on 64-bit operands: the
sum, difference or negation wraps; CC is 3 on signed overflow, else 0, 1 or 2 by sign; a pointer takes the offset as a signed
number and wraps to CC 3 outside 0 to 2^64 - 1; two pointers are not added. The logical results are tagged INT exactly when
every operand is INT. The model's own readings here: log entry 31. -/
def Obligations.Integer_and_logical_instructions : Prop :=
  (∀ (h : Hdr) (op1 op2 : Spec) (j : Instr) (op : AtomOp) (i : OpInfo) (sp : List Spec) (s s1 s2 s3 : State) (c : Ctx)
       (l l2 : Loc) (x y : TWord) (r : Res) (b : List MbEntry),
     (j, op, i, sp) ∈ [(Instr.add h op1 op2, AtomOp.add, opArith, [op1, op2]), (.sub h op1 op2, .sub, opArith, [op1, op2]),
       (.and h op1 op2, .and, opArith, [op1, op2]), (.or h op1 op2, .or, opArith, [op1, op2]),
       (.xor h op1 op2, .xor, opArith, [op1, op2]), (.neg h op1, .neg, opUnary, [op1]), (.not h op1, .not, opUnary, [op1])] →
     Starts h i sp s c s1 → update c (place i sp 1) c.width (op.accepts false) (sp.headD (.reg 0)) s1 = .ok (l, x) s2 →
     secondOperand c i (op.accepts false) sp s2 = .ok (l2, y) s3 → opResult op c.bitsOf x y = some r →
     c.atomic = false → checkDest c l r.tag s3 = .ok () s3 →
     (s3.pu c.pu).push (storesOf s3 c.pu l ⟨r.data, r.tag⟩) = some b →
     (r.cc ≠ 3 ∨ pswIOV (s.pu c.pu).psw = false ∨ op = .and ∨ op = .or ∨ op = .xor ∨ op = .not) →
     exec j s = .next (completed c i sp s3 b (fun p => (regOf l ⟨r.data, r.tag⟩ p).setCC r.cc))) ∧
  (∀ (x y : Word),
     (∀ r, opResult .add 64 (intWord x) (intWord y) = some r → r.data = x + y ∧ r.tag = tagInt ∧
       r.cc = if x.toInt + y.toInt ≠ (x + y).toInt then 3 else if x + y = 0 then 0 else if (x + y).msb then 1 else 2) ∧
     (∀ r, opResult .sub 64 (intWord x) (intWord y) = some r → r.data = x - y ∧ r.tag = tagInt ∧
       r.cc = if x.toInt - y.toInt ≠ (x - y).toInt then 3 else if x - y = 0 then 0 else if (x - y).msb then 1 else 2) ∧
     (∀ r, opResult .neg 64 (intWord x) (intWord y) = some r → r.data = -x ∧ r.tag = tagInt ∧
       r.cc = if x = BitVec.intMin 64 then 3 else if x = 0 then 0 else if (-x).msb then 1 else 2) ∧
     (∀ r, opResult .add 64 ⟨x, tagPtr⟩ (intWord y) = some r → r.data = x + y ∧ r.tag = tagPtr ∧
       (r.cc = 3 ↔ (x.toNat : Int) + y.toInt < 0 ∨ 2 ^ 64 ≤ (x.toNat : Int) + y.toInt)) ∧
     (∀ r, opResult .sub 64 ⟨x, tagPtr⟩ ⟨y, tagPtr⟩ = some r → r.data = x - y ∧ r.tag = tagInt) ∧
     opResult .add 64 ⟨x, tagPtr⟩ ⟨y, tagPtr⟩ = none ∧
     (∀ tx ty, (tx, ty) ∈ [(tagInt, tagInt), (tagInt, tagBytes), (tagBytes, tagInt), (tagBytes, tagBytes)] →
       ∀ op z, (op, z) ∈ [(AtomOp.and, x &&& y), (.or, x ||| y), (.xor, x ^^^ y)] →
       opResult op 64 ⟨x, tx⟩ ⟨y, ty⟩ =
         some ⟨z, if tx = tagInt ∧ ty = tagInt then tagInt else tagBytes, if z = 0 then 0 else 1⟩) ∧
     (∀ tx, tx = tagInt ∨ tx = tagBytes →
       opResult .not 64 ⟨x, tx⟩ ⟨y, tagInt⟩ = some ⟨~~~x, tx, if ~~~x = 0 then 0 else 1⟩))

/-- SHL, SHR, SAR, ROL and MUL write op1 and CC; MUL's CC is 3 where the product does not fit, and traps then only under IOV. What
the shifts compute on 64 bits, for every amount below 64. MULP and MULPU write the exact 128-bit product into the pair of op1,
DIV and DIVU the quotient and the remainder, each tagged INT, and CC by the sign of the exact product or of the quotient. -/
def Obligations.Shifts_multiply_and_divide : Prop :=
  (∀ (h : Hdr) (op1 op2 : Spec) (s s1 s2 s3 : State) (c : Ctx) (l : Loc) (x y : TWord) (b : List MbEntry),
     Starts h opShift [op1, op2] s c s1 →
     (∀ j op, (j, op) ∈ [(Instr.shl h op1 op2, ShiftOp.shl), (.shr h op1 op2, .shr), (.sar h op1 op2, .sar), (.rol h op1 op2, .rol)] →
       update c (place opShift [op1, op2] 1) c.width tagsLogic op1 s1 = .ok (l, x) s2 →
       source c (place opShift [op1, op2] 2) c.width tagsLogic op2 s2 = .ok y s3 →
       let d := shiftData op c.bitsOf (y.data.toNat % c.bitsOf) x.data
       let t := logicTag ([x.tag, y.tag].map (asType tagsLogic tagInt))
       checkDest c l t s3 = .ok () s3 → (s3.pu c.pu).push (storesOf s3 c.pu l ⟨d, t⟩) = some b →
       exec j s = .next (completed c opShift [op1, op2] s3 b (fun p => (regOf l ⟨d, t⟩ p).setCC (ccShift c.bitsOf d)))) ∧
     (update c (place opShift [op1, op2] 1) c.width tagsInt op1 s1 = .ok (l, x) s2 →
       source c (place opShift [op1, op2] 2) c.width tagsInt op2 s2 = .ok y s3 →
       let r := sval c.bitsOf x.data * sval c.bitsOf y.data
       let w : TWord := ⟨widen c.bitsOf r, tagInt⟩
       checkDest c l tagInt s3 = .ok () s3 → (s3.pu c.pu).push (storesOf s3 c.pu l w) = some b →
       (fits c.bitsOf r = true ∨ pswIOV (s.pu c.pu).psw = false) →
       exec (.mul h op1 op2) s =
         .next (completed c opShift [op1, op2] s3 b (fun p => (regOf l w p).setCC (ccInt c.bitsOf r))))) ∧
  (∀ (k : Nat) (x : Word), k < 64 →
     shiftData .shl 64 k x = x <<< k ∧ shiftData .shr 64 k x = x >>> k ∧ shiftData .sar 64 k x = x.sshiftRight k ∧
     shiftData .rol 64 k x = x.rotateLeft k ∧
     ccShift 64 x = if x = 0 then 0 else if x.msb then 1 else 2) ∧
  (∀ (h : Hdr) (op1 op2 : Spec) (s s1 s2 : State) (c : Ctx) (y : TWord),
     (∀ j signed, (j, signed) ∈ [(Instr.mulp h op1 op2, true), (.mulpu h op1 op2, false)] →
       Starts h (opPairSrc false) [op1, op2] s c s1 →
       let x := (s1.pu c.pu).reg (regNum op1)
       accepted c tagsInt x.tag = true → accepted c tagsInt ((s1.pu c.pu).reg (regNum op1 + 1)).tag = true →
       source c (place (opPairSrc false) [op1, op2] 2) 8 tagsInt op2 s1 = .ok y s2 →
       let r : Int := if signed then x.data.toInt * y.data.toInt else (x.data.toNat * y.data.toNat : Nat)
       exec j s = .next (completed c (opPairSrc false) [op1, op2] s2 (s2.pu c.pu).mb (fun p =>
         (setPair (regNum op1) (intWord (BitVec.ofInt 64 (r / 2 ^ 64))) (intWord (BitVec.ofInt 64 r)) p).setCC
           (if r = 0 then 0 else if r < 0 then 1 else 2)))) ∧
     (∀ j signed q r, (j, signed) ∈ [(Instr.div h op1 op2, true), (.divu h op1 op2, false)] →
       Starts h (opPairSrc true) [op1, op2] s c s1 →
       let x := (s1.pu c.pu).reg (regNum op1)
       accepted c tagsInt x.tag = true → accepted c tagsInt ((s1.pu c.pu).reg (regNum op1 + 1)).tag = true →
       source c (place (opPairSrc true) [op1, op2] 2) c.width tagsInt op2 s1 = .ok y s2 →
       divide signed c.bitsOf x.data y.data = some (q, r) →
       exec j s = .next (completed c (opPairSrc true) [op1, op2] s2 (s2.pu c.pu).mb (fun p =>
         (setPair (regNum op1) (intWord (widen c.bitsOf q)) (intWord (widen c.bitsOf r)) p).setCC
           (if q = 0 then 0 else if q < 0 then 1 else 2)))) ∧
     (∀ a d : Word, divide true 64 a d = if d = 0 ∨ (a = BitVec.intMin 64 ∧ d = -1) then none
       else some (a.toInt.tdiv d.toInt, a.toInt.tmod d.toInt)) ∧
     (∀ a d : Word, divide false 64 a d = if d = 0 then none else some (((a.toNat / d.toNat : Nat) : Int), ((a.toNat % d.toNat : Nat) : Int))))

/-- CMP and CMPU set CC from the two operands and change nothing else but, for BFP operands, the flags of R124. What CMP finds on
64-bit operands: INT as signed numbers, PTR and BYTES as unsigned ones; operands of different types are refused without 0xEB. -/
def Obligations.Compares : Prop :=
  (∀ (h : Hdr) (op1 op2 : Spec) (s s1 s2 : State) (c : Ctx) (x y : TWord) (l : Loc), Starts h opCmp [op1, op2] s c s1 →
     (∀ t cc fl, cmpOperands c tagsCmp op1 op2 s1 = .ok (x, l, y) s2 → cmpType c.relax x.tag y.tag = some t →
       cmpAs c t x.data y.data = some (cc, fl) →
       exec (.cmp h op1 op2) s =
         .next (completed c opCmp [op1, op2] s2 (s2.pu c.pu).mb (fun p => (fpRaise fl c.ia p).setCC cc))) ∧
     (cmpOperands c tagsCmpu op1 op2 s1 = .ok (x, l, y) s2 → x.tag = y.tag ∨ c.relax = true →
       let u := x.data.toNat % 2 ^ c.bitsOf
       let v := y.data.toNat % 2 ^ c.bitsOf
       exec (.cmpu h op1 op2) s =
         .next (completed c opCmp [op1, op2] s2 (s2.pu c.pu).mb
           (fun p => p.setCC (if u = v then 0 else if u < v then 1 else 2))))) ∧
  (∀ (c : Ctx) (x y : Word), c.narrow = false →
     cmpAs c tagInt x y = some (if x = y then 0 else if x.slt y then 1 else 2, 0) ∧
     (∀ t, t = tagPtr ∨ t = tagBytes → cmpAs c t x y = some (if x = y then 0 else if x.ult y then 1 else 2, 0)) ∧
     (∀ t u : Tag, t ≠ u → cmpType false t u = none) ∧ (∀ t : Tag, t ≠ tagUninit → cmpType false t t = some t))

/-- TAGGET gives the tag as a number tagged INT; TAGCHK sets CC 0 where the mask of op2 holds the tag of op1 and 1 where not; TAGSET
changes the tag of op1 alone, a memory word's in one act. MKDESC stores both words tagged DESC where the attribute word is
valid; LCA gives the virtual address tagged CODE. The model's own readings here: log entries 26, 27, 131. -/
def Obligations.Tag_and_descriptor_instructions : Prop :=
  (∀ (h : Hdr) (op1 op2 : Spec) (s s1 s2 s3 : State) (c : Ctx) (w v : TWord),
     (Starts h opTagget [op1, op2] s c s1 → tagOperand c (place opTagget [op1, op2] 2) op2 s1 = .ok w s2 →
       exec (.tagget h op1 op2) s = .next (completed c opTagget [op1, op2] s2 (s2.pu c.pu).mb
         (fun p => p.setReg (regNum op1) ⟨w.tag.setWidth 64, tagInt⟩))) ∧
     (Starts h opTagchk [op1, op2] s c s1 → tagOperand c (place opTagchk [op1, op2] 1) op1 s1 = .ok w s2 →
       source c (place opTagchk [op1, op2] 2) 8 tagsInt op2 s2 = .ok v s3 → v.data.toNat < 2 ^ 16 →
       exec (.tagchk h op1 op2) s = .next (completed c opTagchk [op1, op2] s3 (s3.pu c.pu).mb
         (fun p => p.setCC (if v.data.toNat.testBit w.tag.toNat then 0 else 1)))) ∧
     (∀ n : BitVec 4, op1 = .reg n → Starts h opTagset [op1, op2] s c s1 →
       source c (place opTagset [op1, op2] 2) 8 tagsInt op2 s1 = .ok v s2 → v.data.toNat < 16 →
       v.data.toNat ∉ [8, 0xB, 0xC, 0xD, 0xE] →
       let old := (s2.pu c.pu).reg n.toNat
       (pswPL (s.pu c.pu).psw = 0 ∨ (v.data.toNat ∉ [9, 0xA] ∧ old.tag ≠ tagSealed ∧ old.tag ≠ tagPoison)) →
       exec (.tagset h op1 op2) s = .next (completed c opTagset [op1, op2] s2 (s2.pu c.pu).mb
         (fun p => p.setReg n.toNat ⟨old.data, BitVec.ofNat 4 v.data.toNat⟩))) ∧
     (∀ b o m sa, specIsMem op1 = true ∨ specIsStack op1 = true → Starts h opTagset [op1, op2] s c s1 →
       specAddr c (place opTagset [op1, op2] 1) op1 s1 = .ok (b, o) sa → memLoc c 1 b o 8 .rmw .w .memory sa = .ok m s2 →
       source c (place opTagset [op1, op2] 2) 8 tagsInt op2 s2 = .ok v s3 → v.data.toNat < 16 →
       v.data.toNat ∉ [8, 0xB, 0xC, 0xD, 0xE] →
       let old := dieWord s3 (c.pu / 10) (m.abs / 8)
       let new := BitVec.ofNat 4 v.data.toNat
       let u := s3.modPu c.pu (fun p => { p with touched := p.touched ++ [(false, m.abs / 64)] })
       let x := retag u c.pu (m.abs / 8) new
       (pswPL (s.pu c.pu).psw = 0 ∨ (v.data.toNat ∉ [9, 0xA] ∧ old.tag ≠ tagSealed ∧ old.tag ≠ tagPoison)) →
       storesWaiting (s3.pu c.pu) = false → strictPending (s3.pu c.pu).mb = false → unlatched s3 c.pu = true →
       atomSent c s1 = .ok false s1 → mayRead s3 c.pu (m.abs / 64) = true → mayOwn u c.pu (m.abs / 64) = true →
       policyStore (bankPolicy s3 c.pu m.bank) new = true →
       exec (.tagset h op1 op2) s =
         .next (completed c opTagset [op1, op2] (requested x c.pu .nearAtomic m.abs []) (s3.pu c.pu).mb id) ∧
       (memGet x (m.abs / 8)).tag = new ∧ (∀ a, a ≠ m.abs / 8 → Kept s3 x a) ∧
       (s.dram = [] → (∀ e ∈ s.dir, e.2.dead s = false) → (memGet x (m.abs / 8)).data = old.data))) ∧
  (∀ (h : Hdr) (op1 op2 op3 : Spec) (s s1 s2 s3 : State) (c : Ctx),
     (∀ ms m, Starts h opMkdesc [op1, op2, op3] s c s1 →
       longOperand c (place opMkdesc [op1, op2, op3] 1) 2 16 op1 s1 = .ok ms s2 →
       let b := (s2.pu c.pu).reg (regNum op2)
       let a := (s2.pu c.pu).reg (regNum op3)
       accepted c tagsIntPtr b.tag = true → accepted c tagsInt a.tag = true → attrValid a.data = true →
       let ws : List TWord := [⟨b.data, tagDesc⟩, ⟨a.data, tagDesc⟩]
       pairPolicy c ms ws s2 = .ok () s2 → (s2.pu c.pu).push (pairStores s2 c.pu ms ws) = some m →
       exec (.mkdesc h op1 op2 op3) s = .next (completed c opMkdesc [op1, op2, op3] s2 m id)) ∧
     (∀ b o va r, Starts h opLca [op1, op2] s c s1 → specAddr c (place opLca [op1, op2] 2) op2 s1 = .ok (b, o) s2 →
       bankAddr c 2 b o 1 6 .x s2 = .ok (va, r) s3 →
       exec (.lca h op1 op2) s = .next (completed c opLca [op1, op2] s3 (s3.pu c.pu).mb
         (fun p => p.setReg (regNum op1) ⟨BitVec.ofNat 64 va, tagCode⟩))))

/-- BR and BRR go to their target; BC and BCR go there when the mask's bit for CC is 1 (bit 3 for CC 0), and otherwise to the next
instruction. No register but IA, and G15 where the stack moves, changes. The model's own readings here: log entry 30. -/
def Obligations.Branches_go_to_their_target : Prop :=
  ∀ (h : Hdr) (op1 op2 : Spec) (s s1 s2 s3 v : State) (c : Ctx) (m : TWord) (t : Nat),
    (Starts h (opBranch [(.A, .addr)]) [op1] s c s1 → bankTarget c (place (opBranch [(.A, .addr)]) [op1] 1) op1 s1 = .ok t s2 →
      checkTarget c t (arrived c (opBranch [(.A, .addr)]) [op1] s2 (s2.pu c.pu).mb id t) = .ok () v →
      exec (.br h op1) s = .next (ended v c.pu id)) ∧
    (Starts h (opBranch [(.R, .rd)]) [op1] s c s1 → ((s1.pu c.pu).reg (regNum op1)).tag = tagCode →
      t = ((s1.pu c.pu).reg (regNum op1)).data.toNat →
      checkTarget c t (arrived c (opBranch [(.R, .rd)]) [op1] s1 (s1.pu c.pu).mb id t) = .ok () v →
      exec (.brr h op1) s = .next (ended v c.pu id)) ∧
    (∀ i, i = opBranch [(.S, .rd), (.A, .addr)] → Starts h i [op1, op2] s c s1 →
      source c (place i [op1, op2] 1) 8 tagsAny op1 s1 = .ok m s2 → accepted c tagsInt m.tag = true → m.data.toNat < 16 →
      bankTarget c (place i [op1, op2] 2) op2 s2 = .ok t s3 →
      (m.data.toNat.testBit (3 - pswCC (s.pu c.pu).psw) = false →
        exec (.bc h op1 op2) s = .next (completed c i [op1, op2] s3 (s3.pu c.pu).mb id)) ∧
      (m.data.toNat.testBit (3 - pswCC (s.pu c.pu).psw) = true →
        checkTarget c t (arrived c i [op1, op2] s3 (s3.pu c.pu).mb id t) = .ok () v →
        exec (.bc h op1 op2) s = .next (ended v c.pu id))) ∧
    (∀ i, i = opBranch [(.S, .rd), (.R, .rd)] → Starts h i [op1, op2] s c s1 →
      source c (place i [op1, op2] 1) 8 tagsAny op1 s1 = .ok m s2 → accepted c tagsInt m.tag = true → m.data.toNat < 16 →
      ((s2.pu c.pu).reg (regNum op2)).tag = tagCode → t = ((s2.pu c.pu).reg (regNum op2)).data.toNat →
      (m.data.toNat.testBit (3 - pswCC (s.pu c.pu).psw) = false →
        exec (.bcr h op1 op2) s = .next (completed c i [op1, op2] s2 (s2.pu c.pu).mb id)) ∧
      (m.data.toNat.testBit (3 - pswCC (s.pu c.pu).psw) = true →
        checkTarget c t (arrived c i [op1, op2] s2 (s2.pu c.pu).mb id t) = .ok () v →
        exec (.bcr h op1 op2) s = .next (ended v c.pu id)))

/-- CALL and CALLR store the next instruction's address tagged RETADDR below RSP, and RSP points to it; RET goes to the address RSP
points to, and RSP rises by 8. RSREAD gives the entry RSP points to as a number; RSDROP discards 1 to 255 entries; STRSP and
SRSP store and load RSP. -/
def Obligations.Calls_and_the_return_stack : Prop :=
  (∀ (h : Hdr) (op1 : Spec) (s s1 s2 s3 v : State) (c : Ctx) (t a : Nat) (b : List MbEntry) (st : Store),
     let va := ((s2.pu c.pu).rsp.toNat + 2 ^ 64 - 8) % 2 ^ 64
     let down := fun p : Pu => { p with rsp := BitVec.ofNat 64 va }
     st = { abs := a, va := va, len := 8,
            data := BitVec.ofNat 64 (if pswT (s.pu c.pu).psw then c.next else c.next % 2 ^ 52),
            tag := some tagRetaddr, device := false, strict := false, part := 0 } →
     (∀ i, i = opBranch [(.A, .addr)] → Starts h i [op1] s c s1 → bankTarget c (place i [op1] 1) op1 s1 = .ok t s2 →
       rsAccess c va .rstore s2 = .ok a s3 → (s3.pu c.pu).push [st] = some b →
       checkTarget c t (arrived c i [op1] s3 b down t) = .ok () v → exec (.call h op1) s = .next (ended v c.pu id)) ∧
     (∀ i, i = opBranch [(.R, .rd)] → Starts h i [op1] s c s2 → ((s2.pu c.pu).reg (regNum op1)).tag = tagCode →
       t = ((s2.pu c.pu).reg (regNum op1)).data.toNat →
       rsAccess c va .rstore s2 = .ok a s3 → (s3.pu c.pu).push [st] = some b →
       checkTarget c t (arrived c i [op1] s3 b down t) = .ok () v → exec (.callr h op1) s = .next (ended v c.pu id)) ∧
     (∀ i w, i = opBranch [] → Starts h i [] s c s1 → rsEntry c (s1.pu c.pu).rsp.toNat s1 = .ok w s2 →
       checkTarget c w.toNat (arrived c i [] s2 (s2.pu c.pu).mb (fun p => { p with rsp := p.rsp + 8 }) w.toNat) = .ok () v →
       exec (.ret h) s = .next (ended v c.pu id))) ∧
  (∀ (h : Hdr) (op1 : Spec) (s s1 s2 s3 : State) (c : Ctx) (l : Loc) (w : TWord) (b : List MbEntry),
     (∀ a, Starts h opRsD [op1] s c s1 → target c (place opRsD [op1] 1) 8 op1 s1 = .ok l s2 →
       checkDest c l tagInt s2 = .ok () s2 → rsEntry c (s2.pu c.pu).rsp.toNat s2 = .ok a s3 →
       (s3.pu c.pu).push (storesOf s3 c.pu l (intWord a)) = some b →
       exec (.rsread h op1) s = .next (completed c opRsD [op1] s3 b (fun p => regOf l (intWord a) p))) ∧
     (Starts h opRsS [op1] s c s1 → source c (place opRsS [op1] 1) 8 tagsOwn op1 s1 = .ok w s2 →
       accepted c tagsInt w.tag = true → 1 ≤ w.data.toNat → w.data.toNat ≤ 255 → rsEntries c (s2.pu c.pu).rsp.toNat w.data.toNat s2 = .ok () s3 →
       exec (.rsdrop h op1) s = .next (completed c opRsS [op1] s3 (s3.pu c.pu).mb
         (fun p => { p with rsp := p.rsp + BitVec.ofNat 64 (8 * w.data.toNat) }))) ∧
     (Starts h opRsD [op1] s c s1 → target c (place opRsD [op1] 1) 8 op1 s1 = .ok l s2 → checkDest c l tagInt s2 = .ok () s2 →
       (s2.pu c.pu).push (storesOf s2 c.pu l (intWord (s2.pu c.pu).rsp)) = some b →
       exec (.strsp h op1) s = .next (completed c opRsD [op1] s2 b (fun p => regOf l (intWord (s.pu c.pu).rsp) p))) ∧
     (Starts h opSrsp [op1] s c s1 → source c (place opSrsp [op1] 1) 8 tagsInt op1 s1 = .ok w s2 → w.data.toNat % 8 = 0 →
       exec (.srsp h op1) s =
         .next (completed c opSrsp [op1] s2 (s2.pu c.pu).mb (fun p => { p with rsp := w.data }))))

/-- SYNC, SYNCS, FPSYNC and NOP change nothing but IA; SYNC does so once no store waits and none is lost, SYNCS once no store waits
in the buffer. TBPURGE and TBPURGEP empty the translation buffers of the PU, or of every PU of its partition. CTLWR, CTLRD,
PFXWR, PFXRD, STPU and RDTOD: control registers keep only their assigned bits, PREFIX only PFX; STPU gives PU number and
partition; RDTOD gives the time of day, always above the PU's last value. The model's own readings here: log entries 17, 34. -/
def Obligations.Barriers_purges_and_control_registers : Prop :=
  (∀ (h : Hdr) (s s1 : State) (c : Ctx),
     (∀ j, (j = .fpsync h ∨ (j = .sync h ∧ storesPending (s1.pu c.pu) = false ∧ firstLost (s1.pu c.pu).mb = none) ∨
         (j = .syncs h ∧ storesWaiting (s1.pu c.pu) = false)) → Starts h opBarrier [] s c s1 →
       exec j s = .next (completed c opBarrier [] s1 (s1.pu c.pu).mb id)) ∧
     (∀ i, i = opSys 1 [] false 3 false → Starts h i [] s c s1 →
       exec (.nop h) s = .next (completed c i [] s1 (s1.pu c.pu).mb id)) ∧
     (∀ i, i = opSys 2 [] false 2 true → Starts h i [] s c s1 →
       exec (.tbpurge h) s = .next (completed c i [] s1 (s1.pu c.pu).mb (fun p => { p with tbMark := s1.tbHist.length })) ∧
       ∃ t, exec (.tbpurgep h) s = .next t ∧ (∀ a, Kept s1 t a) ∧
         ∀ k, (k = c.pu ∨ (k < 60 ∧ puPart s1 k = pswPart (s.pu c.pu).psw) → (t.pu k).tbMark = s1.tbHist.length) ∧
           (∀ r, (t.pu k).reg r = (s.pu k).reg r))) ∧
  (∀ (h : Hdr) (op1 op2 : Spec) (s s1 s2 s3 : State) (c : Ctx) (l : Loc) (a v : TWord) (b : List MbEntry) (i : OpInfo),
     (i = opSys 2 [(.S, .rd), (.S, .rd)] true 1 true → Starts h i [op1, op2] s c s1 →
       source c (place i [op1, op2] 1) 8 tagsInt op1 s1 = .ok a s2 → source c (place i [op1, op2] 2) 8 tagsInt op2 s2 = .ok v s3 →
       a.data.toNat < 32 →
       exec (.ctlwr h op1 op2) s =
         .next (completed c i [op1, op2] s3 (s3.pu c.pu).mb (fun p => p.setCtl a.data.toNat v.data))) ∧
     (i = opSys 2 [(.D, .wr), (.S, .rd)] true 2 true → Starts h i [op1, op2] s c s1 →
       target c (place i [op1, op2] 1) 8 op1 s1 = .ok l s2 → source c (place i [op1, op2] 2) 8 tagsInt op2 s2 = .ok a s3 →
       checkDest c l tagInt s3 = .ok () s3 → a.data.toNat < 32 →
       let w := intWord ((s.pu c.pu).ctlReg a.data.toNat)
       (s3.pu c.pu).push (storesOf s3 c.pu l w) = some b →
       exec (.ctlrd h op1 op2) s = .next (completed c i [op1, op2] s3 b (fun p => regOf l w p))) ∧
     (i = opSys 2 [(.S, .rd)] true 1 true → Starts h i [op1] s c s1 → source c (place i [op1] 1) 8 tagsInt op1 s1 = .ok v s2 →
       pfxOk s2 (pswPart (s.pu c.pu).psw) v.data = true →
       exec (.pfxwr h op1) s = .next (completed c i [op1] s2 (s2.pu c.pu).mb
         (fun p => { p with pfxArea := v.data &&& 0x000FFFFFFFFFE000 }))) ∧
     (i = opSys 2 [(.D, .wr)] true 2 true → Starts h i [op1] s c s1 → target c (place i [op1] 1) 8 op1 s1 = .ok l s2 →
       checkDest c l tagInt s2 = .ok () s2 → (s2.pu c.pu).push (storesOf s2 c.pu l (intWord (s.pu c.pu).pfxArea)) = some b →
       exec (.pfxrd h op1) s = .next (completed c i [op1] s2 b (fun p => regOf l (intWord (s.pu c.pu).pfxArea) p))) ∧
     (i = opSys 1 [(.R, .wr)] false 2 false → Starts h i [op1] s c s1 →
       exec (.stpu h op1) s = .next (completed c i [op1] s1 (s1.pu c.pu).mb
         (fun p => p.setReg (regNum op1) (intWord (BitVec.ofNat 64 (c.pu + 256 * pswPart (s.pu c.pu).psw)))))) ∧
     (i = opSys 1 [(.P, .wr)] false 3 false → Starts h i [op1] s c s1 →
       let t := max s.tod (s.pu c.pu).lastTod
       exec (.rdtod h op1) s = .next (completed c i [op1] s1 (s1.pu c.pu).mb (fun p =>
         { (p.setReg (regNum op1) (intWord (BitVec.ofNat 64 (t / 2 ^ 64)))).setReg (regNum op1 + 1) (intWord (BitVec.ofNat 64 t))
           with lastTod := t + 1 }))))

/-- SVC takes the supervisor-call interruption with its number as code, the old PSW at the next instruction; the entry is R138's.
RETI loads the old PSW of the class it names and clears the class's busy bit; PSWLD loads a PSW from memory. Both obey R46 and
R50. What a PSW load refuses (R46, R50): a PSW that R46 does not allow, a change of partition outside PL0, and a more privileged
level. The model's own readings here: log entries 34, 39. -/
def Obligations.Svc_and_psw_loads : Prop :=
  (∀ (h : Hdr) (op1 : Spec) (s s1 s2 v : State) (c : Ctx) (w : TWord) (i : OpInfo), i = opSys 1 [(.S, .rd)] true 3 true →
     Starts h i [op1] s c s1 → source c (place i [op1] 1) 8 tagsInt op1 s1 = .ok w s2 → w.data.toNat < 256 →
     trapped (arrived c i [op1] s2 (s2.pu c.pu).mb id c.next) c.pu
       { cls := 2, code := w.data.toNat, fail := BitVec.ofNat 64 c.ia, ia := BitVec.ofNat 64 c.next, ilen := c.len,
         slot := 0, unit := 0, acc := 0, param := 0 } = some v →
     exec (.svc h op1) s = .next v) ∧
  (∀ (h : Hdr) (op1 : Spec) (s s1 s2 s3 : State) (c : Ctx) (new : BitVec 128) (i : OpInfo),
     (∀ w, i = opSys 1 [(.S, .rd)] true 2 true → Starts h i [op1] s c s1 →
       source c (place i [op1] 1) 8 tagsInt op1 s1 = .ok w s2 → w.data.toNat < 6 → strictPending (s2.pu c.pu).mb = false →
       (s.pu c.pu).isBusy w.data.toNat = true → mayRead s2 c.pu (oldPswAddr s2 c.pu w.data.toNat / 64) = true →
       oldPsw s2 c.pu w.data.toNat = some new → pswLoadFault s2 c.pu new = none →
       let read := s2.modPu c.pu (fun p => { p with touched := p.touched ++ [(false, oldPswAddr s2 c.pu w.data.toNat / 64)] })
       exec (.reti h op1) s = .next (ended read c.pu (fun p =>
         { p.moveStack i [op1] with psw := new, busy := p.busy &&& ~~~(BitVec.ofNat 6 (2 ^ w.data.toNat)) }))) ∧
     (∀ ms hi lo, i = opSys 2 [(.M, .rd)] true 2 true → Starts h i [op1] s c s1 →
       longOperand c (place i [op1] 1) 2 8 op1 s1 = .ok ms s2 → readPair c tagsInt ms s2 = .ok [hi, lo] s3 →
       new = hi.data ++ lo.data → pswLoadFault s3 c.pu new = none →
       exec (.pswld h op1) s = .next (ended s3 c.pu (fun p => { p.moveStack i [op1] with psw := new })))) ∧
  (∀ (s : State) (n : Nat) (new : BitVec 128), pswLoadFault s n new = none →
     pswFld new 127 125 = 0 ∧ pswFld new 105 64 = 0 ∧ pswTRS new ≠ 3 ∧ (pswPL new = 0 ↔ pswPart new = 0) ∧
     (pswPart new = 0 ∨ pswPart new = puPart s n) ∧ (pswPL (s.pu n).psw ≠ 0 → pswPart new = pswPart (s.pu n).psw) ∧
     pswPL (s.pu n).psw ≤ pswPL new)

/-- The SIGPU rows: the order in op2 acts on the PU that op1 names, and CC reports it; CC 3, and no effect, where the target is not
operational or of another partition. (A stop that a PU sends itself also stops it at this boundary: not this statement.) What
each order does at an operational target (R113). The model's own readings here: log entries 18, 35, 127. -/
def Obligations.Sigpu_orders : Prop :=
  (∀ (h : Hdr) (op1 op2 : Spec) (j : Instr) (order : Nat) (s s1 s2 s3 : State) (c : Ctx) (a w : TWord),
     (j, order) ∈ [(Instr.sigpuSense h op1 op2, 0), (.sigpuExternalCall h op1 op2, 1), (.sigpuStop h op1 op2, 2),
       (.sigpuRestart h op1 op2, 3), (.sigpuSetPrefix h op1 op2, 4)] →
     Starts h opSigpu [op1, op2] s c s1 → source c (place opSigpu [op1, op2] 1) 8 tagsInt op1 s1 = .ok a s2 →
     source c (place opSigpu [op1, op2] 2) 8 tagsInt op2 s2 = .ok w s3 → a.data.toNat < 60 → orderOk w.data = true →
     bits w.data.toNat 7 0 = order → unlatched s3 c.pu = true →
     (notOperational s3 a.data.toNat (pswPart (s.pu c.pu).psw) = true →
       exec j s = .next (completed c opSigpu [op1, op2] (requested s3 c.pu .sigpu a.data.toNat [intWord 3]) (s3.pu c.pu).mb
         (fun p => p.setCC 3))) ∧
     (notOperational s3 a.data.toNat (pswPart (s.pu c.pu).psw) = false → (order ≠ 2 ∨ a.data.toNat ≠ c.pu) →
       (order = 4 → pfxOk s3 (puPart s3 a.data.toNat) w.data = true) →
       let r := sigpuOrder s3 c.pu a.data.toNat order w.data
       exec j s = .next (completed c opSigpu [op1, op2]
         (requested r.1 c.pu .sigpu a.data.toNat [intWord (BitVec.ofNat 64 r.2)]) (s3.pu c.pu).mb (fun p => p.setCC r.2)))) ∧
  (∀ (s : State) (n t : Nat) (w : Word), n ≠ t →
     sigpuOrder s n t 0 w = (s, if puState s t = 1 then 0 else 1) ∧
     (((s.pu t).xcall.isSome ∨ (s.pu t).stopHeld = true) → sigpuOrder s n t 1 w = (s, 2)) ∧
     ((s.pu t).xcall = none → (s.pu t).stopHeld = false → (sigpuOrder s n t 1 w).2 = 0 ∧
       ((sigpuOrder s n t 1 w).1.pu t).xcall = some n) ∧
     (puState s t = 2 → sigpuOrder s n t 2 w = (s, 1)) ∧
     (puState s t ≠ 2 → (s.pu t).stopHeld = false → pswW (s.pu t).psw = false →
       (sigpuOrder s n t 2 w).2 = 0 ∧ ((sigpuOrder s n t 2 w).1.pu t).stopHeld = true) ∧
     (((s.pu t).restart.isSome ∨ (s.pu t).stopHeld = true) → sigpuOrder s n t 3 w = (s, 2)) ∧
     ((s.pu t).restart = none → (s.pu t).stopHeld = false → puState s t ≠ 2 → (sigpuOrder s n t 3 w).2 = 0 ∧
       ((sigpuOrder s n t 3 w).1.pu t).restart = some (0x100 + n)) ∧
     (puState s t = 2 → (sigpuOrder s n t 4 w).2 = 0 ∧ ((sigpuOrder s n t 4 w).1.pu t).pfxArea = w &&& 0x000FFFFFFFFFE000) ∧
     (puState s t ≠ 2 → sigpuOrder s n t 4 w = (s, 1)))

/-- ADDBF, SUBBF, MULBF, DIVBF, MINBF, MAXBF and FMABF write op1 with the rounded result tagged BFP, raise its flags (R119, R126)
and set CC by its kind. NEGBF, ABSBF, SQRTBF, RNDBF, CVTIB, CVTBI, CVTBW and CVTBN write op1 from one operand. LFPC loads TE,
FLAGS and RM of FPC and keeps PEND, MULT and PCAUSE; STFPC and STFIA store FPC and FPFIA tagged INT. Rounding to nearest, ties
to even, at double precision: an integer of at most 53 bits is exact, and a sum of two such integers that fits is exact and
raises nothing. -/
def Obligations.Float_instructions : Prop :=
  (∀ (h : Hdr) (op1 op2 op3 : Spec) (s s1 s2 s3 s4 : State) (c : Ctx) (l : Loc) (x y z : TWord) (b : List MbEntry) (i : OpInfo),
     (∀ j (g : Fmt → Rm → Word → Word → Nat × Nat), (j, g) ∈ [
         (Instr.addbf h op1 op2, fun f rm x y => f.add rm (f.read x) (f.read y)),
         (.subbf h op1 op2, fun f rm x y => f.sub rm (f.read x) (f.read y)),
         (.mulbf h op1 op2, fun f rm x y => f.mul rm (f.read x) (f.read y)),
         (.divbf h op1 op2, fun f rm x y => f.div rm (f.read x) (f.read y)),
         (.minbf h op1 op2, fun f _ x y => f.pick false x y), (.maxbf h op1 op2, fun f _ x y => f.pick true x y)] →
       i = opFp 1 [(.D, .rw), (.S, .rd)] true → Starts h i [op1, op2] s c s1 →
       update c (place i [op1, op2] 1) c.width tagsBfp op1 s1 = .ok (l, x) s2 →
       source c (place i [op1, op2] 2) c.width tagsBfp op2 s2 = .ok y s3 →
       let r := g c.fmt (rmOf (s.pu c.pu).fpc) x.data y.data
       checkDest c l tagBfp s3 = .ok () s3 → (s3.pu c.pu).push (storesOf s3 c.pu l (bfpWord r.1)) = some b →
       exec j s = .next (completed c i [op1, op2] s3 b
         (fun p => (fpRaise r.2 c.ia (regOf l (bfpWord r.1) p)).setCC (c.fmt.cc r.1)))) ∧
     (i = opFp 1 [(.D, .rw), (.S, .rd), (.S, .rd)] true → Starts h i [op1, op2, op3] s c s1 →
       update c (place i [op1, op2, op3] 1) c.width tagsBfp op1 s1 = .ok (l, z) s2 →
       source c (place i [op1, op2, op3] 2) c.width tagsBfp op2 s2 = .ok x s3 →
       source c (place i [op1, op2, op3] 3) c.width tagsBfp op3 s3 = .ok y s4 →
       let r := c.fmt.fma (rmOf (s.pu c.pu).fpc) (c.fmt.read x.data) (c.fmt.read y.data) (c.fmt.read z.data)
       checkDest c l tagBfp s4 = .ok () s4 → (s4.pu c.pu).push (storesOf s4 c.pu l (bfpWord r.1)) = some b →
       exec (.fmabf h op1 op2 op3) s = .next (completed c i [op1, op2, op3] s4 b
         (fun p => (fpRaise r.2 c.ia (regOf l (bfpWord r.1) p)).setCC (c.fmt.cc r.1))))) ∧
  (∀ (h : Hdr) (op1 op2 : Spec) (s s1 s2 s3 : State) (c : Ctx) (l : Loc) (x : TWord) (b : List MbEntry) (i : OpInfo),
     (∀ j (g : Fmt → Nat → Nat), (j, g) ∈ [(Instr.negbf h op1, fun f n => (n + f.signBit) % 2 ^ f.total),
         (.absbf h op1, fun f n => n % f.signBit)] → i = opFp 1 [(.D, .rw)] true → Starts h i [op1] s c s1 →
       update c (place i [op1] 1) c.width tagsBfp op1 s1 = .ok (l, x) s2 →
       let r := g c.fmt (x.data.toNat % 2 ^ c.fmt.total)
       checkDest c l tagBfp s2 = .ok () s2 → (s2.pu c.pu).push (storesOf s2 c.pu l (bfpWord r)) = some b →
       exec j s = .next (completed c i [op1] s2 b
         (fun p => (fpRaise 0 c.ia (regOf l (bfpWord r) p)).setCC (c.fmt.cc r)))) ∧
     (∀ j (src dst : Fmt) (ls ld : Nat) (ok : List Tag) (g : Rm → Word → Nat × Nat) (n : Bool),
       (j, src, dst, ls, ld, ok, g, n) ∈ [
         (Instr.sqrtbf h op1 op2, c.fmt, c.fmt, c.width, c.width, tagsBfp, fun rm w => c.fmt.sqrt rm (c.fmt.read w), true),
         (.rndbf h op1 op2, c.fmt, c.fmt, c.width, c.width, tagsBfp, fun rm w => c.fmt.rint rm (c.fmt.read w), true),
         (.cvtib h op1 op2, c.fmt, c.fmt, 8, c.width, tagsInt, fun rm w => c.fmt.ofInt rm w.toInt, true),
         (.cvtbw h op1 op2, fmt32, fmt64, 4, 8, tagsBfp, fun rm w => fpConvert fmt32 fmt64 rm (fmt32.read w), false),
         (.cvtbn h op1 op2, fmt64, fmt32, 8, 4, tagsBfp, fun rm w => fpConvert fmt64 fmt32 rm (fmt64.read w), false)] →
       i = opFp 2 [(.D, .wr), (.S, .rd)] n → Starts h i [op1, op2] s c s1 →
       target c (place i [op1, op2] 1) ld op1 s1 = .ok l s2 → source c (place i [op1, op2] 2) ls ok op2 s2 = .ok x s3 →
       let r := g (rmOf (s.pu c.pu).fpc) x.data
       checkDest c l tagBfp s3 = .ok () s3 → (s3.pu c.pu).push (storesOf s3 c.pu l (bfpWord r.1)) = some b →
       exec j s = .next (completed c i [op1, op2] s3 b
         (fun p => (fpRaise r.2 c.ia (regOf l (bfpWord r.1) p)).setCC (dst.cc r.1)))) ∧
     (i = opFp 2 [(.D, .wr), (.S, .rd)] true → Starts h i [op1, op2] s c s1 →
       target c (place i [op1, op2] 1) 8 op1 s1 = .ok l s2 → source c (place i [op1, op2] 2) c.width tagsBfp op2 s2 = .ok x s3 →
       let r := fpToInt (rmOf (s.pu c.pu).fpc) (c.fmt.read x.data)
       let w := intWord (BitVec.ofInt 64 r.1)
       checkDest c l tagInt s3 = .ok () s3 → (s3.pu c.pu).push (storesOf s3 c.pu l w) = some b →
       exec (.cvtbi h op1 op2) s =
         .next (completed c i [op1, op2] s3 b (fun p => (fpRaise r.2.2 c.ia (regOf l w p)).setCC r.2.1)))) ∧
  (∀ (h : Hdr) (op1 : Spec) (s s1 s2 : State) (c : Ctx) (l : Loc) (x : TWord) (b : List MbEntry),
     (Starts h opLfpc [op1] s c s1 → source c (place opLfpc [op1] 1) 8 tagsInt op1 s1 = .ok x s2 →
       bits x.data.toNat 2 0 ≤ 4 →
       exec (.lfpc h op1) s = .next (completed c opLfpc [op1] s2 (s2.pu c.pu).mb (fun p =>
         { p with fpc := (p.fpc &&& ~~~0x0000001F00001F07) ||| (x.data &&& 0x0000001F00001F07) }))) ∧
     (∀ j w, (j, w) ∈ [(Instr.stfpc h op1, (s.pu c.pu).fpc), (.stfia h op1, (s.pu c.pu).fpfia)] →
       Starts h opStfpc [op1] s c s1 → target c (place opStfpc [op1] 1) 8 op1 s1 = .ok l s2 →
       checkDest c l tagInt s2 = .ok () s2 → (s2.pu c.pu).push (storesOf s2 c.pu l (intWord w)) = some b →
       exec j s = .next (completed c opStfpc [op1] s2 b (fun p => regOf l (intWord w) p)))) ∧
  (∀ (rm : Rm) (m n : Nat), 0 < m → m < 2 ^ 53 →
     (fmt64.round rm false m 0).2 = 0 ∧ fmt64.read (BitVec.ofNat 64 (fmt64.round rm false m 0).1) =
       .fin false (m * 2 ^ (52 - Nat.log2 m)) ((Nat.log2 m : Int) - 52) ∧
     (m + n < 2 ^ 53 → fmt64.add rm (.fin false m 0) (.fin false n 0) = fmt64.round rm false (m + n) 0))

/-- The flags an operation raises accumulate in FPC; an enabled one makes the deferred trap pending with the instruction's address,
unless class 1 is busy, and a second one while it is pending sets MULT. -/
def Obligations.Float_flags_and_deferred_trap : Prop :=
  ∀ (fl ia : Nat) (p : Pu), fl < 32 →
    let q := fpRaise fl ia p
    let on := fl &&& bits p.fpc.toNat 36 32
    bits q.fpc.toNat 12 8 = bits p.fpc.toNat 12 8 ||| fl ∧ bits q.fpc.toNat 36 32 = bits p.fpc.toNat 36 32 ∧
    bits q.fpc.toNat 2 0 = bits p.fpc.toNat 2 0 ∧
    (on = 0 ∨ p.isBusy 1 = true →
      bit q.fpc.toNat 47 = bit p.fpc.toNat 47 ∧ bit q.fpc.toNat 46 = bit p.fpc.toNat 46 ∧ q.fpfia = p.fpfia) ∧
    (on ≠ 0 → p.isBusy 1 = false → bit p.fpc.toNat 47 = false →
      bit q.fpc.toNat 47 = true ∧ bit q.fpc.toNat 46 = false ∧ bits q.fpc.toNat 44 40 = on ∧ q.fpfia = BitVec.ofNat 64 ia) ∧
    (on ≠ 0 → p.isBusy 1 = false → bit p.fpc.toNat 47 = true →
      bit q.fpc.toNat 47 = true ∧ bit q.fpc.toNat 46 = true ∧ bits q.fpc.toNat 44 40 = bits p.fpc.toNat 44 40 ∧
        q.fpfia = p.fpfia)

/-- ADDP and SUBP write the low 31 digits with the sign of the exact result, CC 3 where it has more; CMPP compares; CVTPI and CVTIP
convert; CVTPI leaves op1 unchanged where the value does not fit. A packed decimal pair reads back as the value it was packed
from, for every magnitude of at most 31 digits. -/
def Obligations.Decimal_instructions : Prop :=
  (∀ (h : Hdr) (op1 op2 : Spec) (s s1 s2 : State) (c : Ctx) (x y : Int) (i : OpInfo),
     (∀ j r, (j, r) ∈ [(Instr.addp h op1 op2, x + y), (.subp h op1 op2, x - y)] →
       i = opDec 1 [(.P, .rw), (.P, .rd)] false → Starts h i [op1, op2] s c s1 → decPair c 1 op1 s1 = .ok (some x) s1 →
       decPair c 2 op2 s1 = .ok (some y) s1 →
       let w := packPair (decide (r < 0)) r.natAbs
       let cc := if 10 ^ 31 ≤ r.natAbs then 3 else if r = 0 then 0 else if r < 0 then 1 else 2
       (cc ≠ 3 ∨ pswDOV (s.pu c.pu).psw = false) →
       exec j s =
         .next (completed c i [op1, op2] s1 (s1.pu c.pu).mb (fun p => (setPair (regNum op1) w.1 w.2 p).setCC cc))) ∧
     (i = opDec 1 [(.P, .rd), (.P, .rd)] false → Starts h i [op1, op2] s c s1 → decPair c 1 op1 s1 = .ok (some x) s1 →
       decPair c 2 op2 s1 = .ok (some y) s1 →
       exec (.cmpp h op1 op2) s = .next (completed c i [op1, op2] s1 (s1.pu c.pu).mb
         (fun p => p.setCC (if x = y then 0 else if x < y then 1 else 2)))) ∧
     (i = opDec 2 [(.R, .wr), (.P, .rd)] false → Starts h i [op1, op2] s c s1 → decPair c 2 op2 s1 = .ok (some y) s1 →
       (-2 ^ 63 ≤ y ∧ y < 2 ^ 63 → exec (.cvtpi h op1 op2) s = .next (completed c i [op1, op2] s1 (s1.pu c.pu).mb
         (fun p => (p.setReg (regNum op1) (intWord (BitVec.ofInt 64 y))).setCC (if y = 0 then 0 else if y < 0 then 1 else 2)))) ∧
       (y < -2 ^ 63 ∨ 2 ^ 63 ≤ y → pswIOV (s.pu c.pu).psw = false →
         exec (.cvtpi h op1 op2) s = .next (completed c i [op1, op2] s1 (s1.pu c.pu).mb (fun p => p.setCC 3)))) ∧
     (∀ w, i = opDec 2 [(.P, .wr), (.S, .rd)] true → Starts h i [op1, op2] s c s1 →
       source c (place i [op1, op2] 2) 8 tagsInt op2 s1 = .ok w s2 →
       let v := w.data.toInt
       let d := packPair (decide (v < 0)) v.natAbs
       exec (.cvtip h op1 op2) s = .next (completed c i [op1, op2] s2 (s2.pu c.pu).mb
         (fun p => (setPair (regNum op1) d.1 d.2 p).setCC (if v = 0 then 0 else if v < 0 then 1 else 2))))) ∧
  (∀ (neg : Bool) (m : Nat), m < 10 ^ 31 → pairValue (packPair neg m).1.data (packPair neg m).2.data =
     some (if neg then -(m : Int) else m))

/-- CAS, FADD and the atomic forms of ADD, SUB, AND, OR, XOR, NEG and NOT, run near: the word becomes the operation's result in one
act, CAS and FADD get the old word, CC reports, and of the other words and registers nothing changes but by the line's way into
the PU's L2. What an atomic finds (R103): CAS swaps exactly when the whole word, tag included, equals op2; FADD adds and returns
the old word. -/
def Obligations.Near_atomics : Prop :=
  (∀ (h : Hdr) (op1 op2 op3 : Spec) (j : Instr) (op : AtomOp) (i : OpInfo) (sp : List Spec) (s s1 s2 s3 : State) (c : Ctx)
       (m : MLoc) (a b : TWord) (pair : Report) (res : AtomRes),
     Starts h i sp s c s1 →
     ((j = .cas h op1 op2 op3 ∧ op = .cas ∧ i = opCas ∧ sp = [op1, op2, op3] ∧
         pair = m.report ∧ casOthers c sp s2 = .ok (a, b) s3) ∨
       (j = .fadd h op1 op2 op3 ∧ op = .fadd ∧ i = opFadd ∧ sp = [op1, op2, op3] ∧ pair = m.report ∧
         faddOther c sp s2 = .ok (a, b) s3) ∨
       ((j, op, i, sp) ∈ [(Instr.add h op1 op2, AtomOp.add, opArith, [op1, op2]), (.sub h op1 op2, .sub, opArith, [op1, op2]),
           (.and h op1 op2, .and, opArith, [op1, op2]), (.or h op1 op2, .or, opArith, [op1, op2]),
           (.xor h op1 op2, .xor, opArith, [op1, op2]), (.neg h op1, .neg, opUnary, [op1]), (.not h op1, .not, opUnary, [op1])] ∧
         c.atomic = true ∧ b = intWord 0 ∧
         ∃ l2, secondOperand c i (op.accepts false) sp s2 = .ok (l2, a) s3 ∧ pair = l2.report c 2)) →
     atomSent c s1 = .ok false s1 → atomicLoc c (place i sp 1) (sp.headD (.reg 0)) s1 = .ok m s2 →
     inWindow m.abs = false → inDevice m.abs = false → storesWaiting (s3.pu c.pu) = false →
     strictPending (s3.pu c.pu).mb = false → unlatched s3 c.pu = true → runsFar s3 c.pu (m.abs / 64) = false →
     mayOwn s3 c.pu (m.abs / 64) = true →
     let r := atomReq c s3 m op (.ok (a, b)) pair
     let u := nearAtomic s3 c.pu r
     let w := m.abs / 8
     atomApply r (memGet (takeOwn s3 c.pu (m.abs / 64)) w) = .ok res → (res.cc ≠ 3 ∨ pswIOV (s.pu c.pu).psw = false) →
     exec j s = .next (completed c i sp (requested u c.pu .nearAtomic m.abs [res.old, intWord (BitVec.ofNat 64 res.cc)])
       (s3.pu c.pu).mb (fun p =>
         (if op = .fadd ∨ (op = .cas ∧ res.cc ≠ 0) then p.setReg (regNum op2) res.old else p).setCC res.cc)) ∧
     memGet u w = res.write.getD (memGet (takeOwn s3 c.pu (m.abs / 64)) w) ∧
     (∀ v, LinesMoved s3 (takeOwn s3 c.pu (m.abs / 64)) ∧ (v ≠ w → memGet u v = memGet (takeOwn s3 c.pu (m.abs / 64)) v)) ∧
     ∀ k, (u.pu k).arch = (s3.pu k).arch) ∧
  (∀ (r : AtomReq) (w : TWord), r.narrow = false → tagFault r.relax (r.op.accepts false) w.tag = none →
     policyLoad r.policy w.tag = true →
     (r.op = .cas → policyStore r.policy r.b.tag = true →
       atomApply r w = .ok (if w = r.a then ⟨some r.b, w, 0⟩ else ⟨none, w, 1⟩)) ∧
     (r.op = .fadd → w.tag = tagInt → r.a.tag = tagInt → policyStore r.policy tagInt = true →
       ∃ cc, atomApply r w = .ok ⟨some (intWord (w.data + r.a.data)), w, cc⟩ ∧
         (cc = 3 ↔ w.data.toInt + r.a.data.toInt ≠ (w.data + r.a.data).toInt)))

/-- MOVL: one unit of work moves at most to the next 4 KiB boundary of either operand, places its stores behind the earlier ones,
and advances both pairs; when a length is used up CC compares the lengths and IA passes the instruction. A pair advanced by a
unit: the offset rises and the length falls by the bytes of the unit, bank and tags stay. The model's own readings here: log
entry 36. -/
def Obligations.Movl_moves_one_unit : Prop :=
  (∀ (h : Hdr) (op1 op2 : Spec) (s s1 s2 s3 s4 s5 s6 : State) (c : Ctx) (d r : PairOp) (w1 w2 : Word),
     Starts h opMovl [op1, op2] s c s1 → pairOp c 1 op1 s1 = .ok (d, w1) s1 → pairOp c 2 op2 s1 = .ok (r, w2) s1 →
     lenOk w1 = true → lenOk w2 = true →
     let l := min d.len r.len
     let cc := if d.len = r.len then 0 else if d.len < r.len then 1 else 2
     (l = 0 → exec (.movl h op1 op2) s = .next (ended s1 c.pu (afterUnit c true cc id))) ∧
     (0 < l → (s1.pu c.pu).unitHold = [] → strictPending (s1.pu c.pu).mb = false →
       ∀ k va1 a1 va2 a2, k = min l (min (toBoundary (d.va s1 c.pu)) (toBoundary (r.va s1 c.pu))) →
       let whole := d.va s1 c.pu % 8 == r.va s1 c.pu % 8
       unitLoc c d k .store .w s1 = .ok (va1, a1) s2 → checkNarrows c d va1 a1 whole (chunksOf a1 k) s2 = .ok () s3 →
       unitLoc c r k .load .r s3 = .ok (va2, a2) s4 → checkSource c r va2 a2 whole (chunksOf a2 k) s4 = .ok () s5 →
       checkWholes c d va1 a1 a2 whole (chunksOf a1 k) s5 = .ok () s6 →
       let held := unitStores (copyChunks s6 c.pu a1 a2 whole (chunksOf a1 k) []) a1 va1 whole (chunksOf a1 k)
       exec (.movl h op1 op2) s = .next (ended s6 c.pu (afterUnit c (decide (k = l)) cc
         (fun p => { r.advance k (d.advance k p) with unitHold := held }.drain))))) ∧
  (∀ (o : PairOp) (k : Nat) (p : Pu), o.off + k < 2 ^ 64 → k ≤ o.len → o.len ≤ 2 ^ 32 → o.bank < 8 →
     let q := o.advance k p
     (q.reg o.n).data.toNat = o.off + k ∧ (q.reg o.n).tag = (p.reg o.n).tag ∧
     (q.reg (o.n + 1)).tag = (p.reg (o.n + 1)).tag ∧ bits (q.reg (o.n + 1)).data.toNat 63 61 = o.bank ∧
     bits (q.reg (o.n + 1)).data.toNat 32 0 = o.len - k ∧ (∀ j, j ≠ o.n → j ≠ o.n + 1 → q.reg j = p.reg j))

/-- CMPB and EXPB: with no source left they end with CC 0, at a fenced engine with CC 3, and otherwise post their unit to the
cluster's Bellows engine and wait for it. BELLOWS_UNIT: the engine serves the waiting unit of the next slot; a compression unit
without chaining writes the block it compressed, tagged BYTES, and advances the pairs by the source bytes taken and the class
size; an expansion unit writes the expanded bytes and advances by the block and its length. The model's own readings here: log
entry 37. -/
def Obligations.Bellows_instructions : Prop :=
  (∀ (h : Hdr) (op1 op2 op3 : Spec) (s s1 s2 : State) (c : Ctx) (d r : PairOp) (w1 w2 : Word) (t : TWord),
     pairOp c 1 op1 s1 = .ok (d, w1) s1 → pairOp c 2 op2 s1 = .ok (r, w2) s1 → lenOk w1 = true → lenOk w2 = true →
     (Starts h opCmpb [op1, op2, op3] s c s1 → source c (place opCmpb [op1, op2, op3] 3) 8 tagsInt op3 s1 = .ok t s2 →
       cmpCtlOk t.data.toNat (r.va s2 c.pu) = true →
       (∀ cc, belStop s2 c.pu r.len (bit t.data.toNat 3) = some cc →
         exec (.cmpb h op1 op2 op3) s = .next (ended s2 c.pu (afterUnit c true cc id))) ∧
       (belStop s2 c.pu r.len (bit t.data.toNat 3) = none → storesPending (s2.pu c.pu) = false → unlatched s2 c.pu = true →
         exec (.cmpb h op1 op2 op3) s = .next (posted s2 c.pu .compress (continues h s) h.pfx [op1, op2, op3] c.len))) ∧
     (Starts h opExpb [op1, op2] s c s1 →
       (∀ cc, belStop s1 c.pu r.len false = some cc →
         exec (.expb h op1 op2) s = .next (ended s1 c.pu (afterUnit c true cc id))) ∧
       (belStop s1 c.pu r.len false = none → storesPending (s1.pu c.pu) = false → unlatched s1 c.pu = true →
         exec (.expb h op1 op2) s = .next (posted s1 c.pu .expand (continues h s) h.pfx [op1, op2] c.len)))) ∧
  (∀ (e : Fin 12) (k : Nat) (n : Fin 60) (s s1 s2 s3 s4 s5 s6 : State) (c : Ctx) (d r : PairOp) (w1 w2 : Word)
       (op1 op2 op3 : Spec) (pfx : List (BitVec 4)) (bc mc cont : Bool) (t : TWord) (v va0 va : Nat) (src dst : List Part),
     ((slotOrder (spGet 4 s.belLast e.val)).findSome? (fun k =>
       ((clusterPus e.val)[k]?).bind (fun n => if waitsFor s n.val .compress .expand then some (k, n) else none))) =
         some (k, n) →
     let t0 := answerUnit { s with belLast := spSet 4 s.belLast e.val k } n.val (b2n bc + 2 * b2n mc)
     let h : Hdr := { pu := n, pfx := pfx, vote := .agree }
     pairOp c 1 op1 s1 = .ok (d, w1) s1 → pairOp c 2 op2 s1 = .ok (r, w2) s1 → lenOk w1 = true → lenOk w2 = true →
     bit v 0 = false →
     (((s.pu n.val).job = some ⟨.compress, cont, pfx, [op1, op2, op3]⟩ → Serves h opCmpb [op1, op2, op3] t0 c s1 →
       source c (place opCmpb [op1, op2, op3] 3) 8 tagsInt op3 s1 = .ok t s2 →
       cmpCtlOk t.data.toNat (r.va s2 c.pu) = true → bit t.data.toNat 3 = false → belStop s2 c.pu r.len false = none →
       storesPending (s2.pu c.pu) = false → engineUnit c h .compress (continues h t0) [op1, op2, op3] s2 = .ok v s3 →
       sourceSpan c r (min r.len 4096) s3 = .ok (va0, src) s4 →
       let z := compressBlock (bits t.data.toNat 1 0) (bit t.data.toNat 2) (partBytes s4 c.pu src) (groupTags s4 c.pu src)
       classSize z.cls ≤ d.len → targetSpan c d (classSize z.cls) (fun _ _ => tagBytes) s4 = .ok (va, dst) s5 →
       exec (.bellowsUnit e .agree bc mc) s = .next (served s5 c.pu (partStores va bytesTag dst z.bytes)
         (afterUnit c (z.ilen == r.len) 0 (fun p => r.advance z.ilen (d.advance (classSize z.cls) p))))) ∧
     (∀ hd out tags src2 va1, (s.pu n.val).job = some ⟨.expand, cont, pfx, [op1, op2]⟩ → Serves h opExpb [op1, op2] t0 c s1 →
       belStop s1 c.pu r.len false = none → storesPending (s1.pu c.pu) = false →
       engineUnit c h .expand (continues h t0) [op1, op2] s1 = .ok v s3 → sourceSpan c r (min r.len 16) s3 = .ok (va0, src) s4 → 16 ≤ r.len →
       readHeader (partBytes s4 c.pu src) = some hd → classSize hd.cls ≤ r.len → hd.ilen ≤ d.len →
       sourceSpan c r (classSize hd.cls) s4 = .ok (va1, src2) s5 →
       expandBlock hd (partBytes s5 c.pu src2) = .ok (out, tags) →
       targetSpan c d hd.ilen (expTag hd.kt tags) s5 = .ok (va, dst) s6 →
       exec (.bellowsUnit e .agree bc mc) s = .next (served s6 c.pu
         (partStores va (fun p => if p.2.2 = 8 then some (expTag hd.kt tags va p.1) else none) dst out)
         (afterUnit c (classSize hd.cls == r.len) 0 (fun p => r.advance (classSize hd.cls) (d.advance hd.ilen p)))))))

/-- MLOCK takes the free Mute engine of the cluster, or reports who holds it; MFREE gives it up. MSEAL and MOPEN: at an engine that
is fenced, frozen or stopped CC 3, at one the PU does not hold CC 2; otherwise the unit is posted to the engine. The model's own
readings here: log entry 37. -/
def Obligations.Mute_instructions : Prop :=
  (∀ (h : Hdr) (op1 : Spec) (s s1 : State) (c : Ctx) (i : OpInfo), unlatched s1 c.pu = true →
     let e := engineOf c.pu
     (i = { opLen := 1, slots := [(.R, .wr)], o := false, a := false, n := false, pl := 3, t4 := false } →
       Starts h i [op1] s c s1 →
       let done (s : State) (w : Word) (cc : Nat) : State :=
         completed c i [op1] (requested s c.pu .mlock 0 [intWord w, intWord (BitVec.ofNat 64 cc)]) (s1.pu c.pu).mb
           (fun p => (p.setReg (regNum op1) (intWord w)).setCC cc)
       (mutDown s1 e = true → exec (.mlock h op1) s = .next (done s1 0xFFFFFFFFFFFFFFFF 3)) ∧
       (mutDown s1 e = false → mutState s1 e = 0 →
         exec (.mlock h op1) s = .next (done (setMut s1 e 1 c.pu) (BitVec.ofNat 64 c.pu) 0)) ∧
       (mutDown s1 e = false → mutState s1 e = 1 → mutOwner s1 e = c.pu →
         exec (.mlock h op1) s = .next (done s1 (BitVec.ofNat 64 c.pu) 1)) ∧
       (mutDown s1 e = false → mutState s1 e = 1 → mutOwner s1 e ≠ c.pu →
         exec (.mlock h op1) s = .next (done s1 (BitVec.ofNat 64 (mutOwner s1 e)) 2))) ∧
     (i = { opLen := 1, slots := [], o := false, a := false, n := false, pl := 3, t4 := false } → Starts h i [] s c s1 →
       (mutState s1 e = 1 → mutOwner s1 e = c.pu → exec (.mfree h) s =
         .next (completed c i [] (requested (setMut s1 e 0 0x3F) c.pu .mfree 0 [intWord 0]) (s1.pu c.pu).mb
           (fun p => p.setCC 0))) ∧
       (mutState s1 e ≠ 1 ∨ mutOwner s1 e ≠ c.pu →
         exec (.mfree h) s = .next (completed c i [] (requested s1 c.pu .mfree 0 [intWord 1]) (s1.pu c.pu).mb
           (fun p => p.setCC 1))))) ∧
  (∀ (h : Hdr) (op1 op2 op3 : Spec) (s s1 s2 s3 s4 : State) (c : Ctx) (d r : PairOp) (w1 w2 : Word) (j : Instr)
       (isOpen : Bool) (bank off : Nat) (b : PBlock) (wrap : List TWord),
     (j, isOpen) ∈ [(Instr.mseal h op1 op2 op3, false), (.mopen h op1 op2 op3, true)] →
     Starts h opMute [op1, op2, op3] s c s1 → pairOp c 1 op1 s1 = .ok (d, w1) s1 → pairOp c 2 op2 s1 = .ok (r, w2) s1 →
     specAddr c (place opMute [op1, op2, op3] 3) op3 s1 = .ok (bank, off) s2 → readBlock c 3 bank off s2 = .ok b s3 →
     readWrap c b (!continues h s) s3 = .ok wrap s4 → lenOk w1 = true → lenOk w2 = true → ctlOk b isOpen = true → r.len ≤ d.len →
     (mutDown s4 (engineOf c.pu) = true → exec j s = .next (ended s4 c.pu (afterUnit c true 3 id))) ∧
     (mutDown s4 (engineOf c.pu) = false → holdsMute s4 c.pu = false →
       exec j s = .next (ended s4 c.pu (afterUnit c true 2 id))) ∧
     (mutDown s4 (engineOf c.pu) = false → holdsMute s4 c.pu = true → storesPending (s4.pu c.pu) = false →
       unlatched s4 c.pu = true →
       exec j s = .next (posted s4 c.pu (if isOpen then .opening else .sealing) (continues h s) h.pfx [op1, op2, op3] c.len)))

/-- MUTE_UNIT, a payload unit of MSEAL or MOPEN without an engine check: the destination gets the encrypted bytes, tagged BYTES, or
the decrypted ones with every word SEALED, and the parameter block its new state with CHK; the pairs advance. -/
def Obligations.Mute_unit_writes_payload : Prop :=
  ∀ (e : Fin 12) (n : Fin 60) (s s1 s2 s3 s4 s5 s6 s7 s8 s9 : State) (c : Ctx) (d r : PairOp) (w1 w2 : Word)
      (op1 op2 op3 : Spec) (pfx : List (BitVec 4)) (isOpen first : Bool) (bank off va0 va : Nat) (b : PBlock) (wrap ws : List TWord)
      (key : SlotKey) (src dst : List Part),
    (clusterPus e.val).find? (fun n => waitsFor s n.val .sealing .opening) = some n →
    (s.pu n.val).job = some ⟨if isOpen then .opening else .sealing, first, pfx, [op1, op2, op3]⟩ →
    let h : Hdr := { pu := n, pfx := pfx, vote := .agree }
    let cont := continues h s
    Serves h opMute [op1, op2, op3] (answerUnit s n.val 0) c s1 →
    pairOp c 1 op1 s1 = .ok (d, w1) s1 → pairOp c 2 op2 s1 = .ok (r, w2) s1 →
    specAddr c (place opMute [op1, op2, op3] 3) op3 s1 = .ok (bank, off) s2 → readBlock c 3 bank off s2 = .ok b s3 →
    readWrap c b (!cont) s3 = .ok wrap s4 → lenOk w1 = true → lenOk w2 = true → ctlOk b isOpen = true → r.len ≤ d.len →
    mutDown s4 (engineOf c.pu) = false → holdsMute s4 c.pu = true → storesPending (s4.pu c.pu) = false →
    engineUnit c h (if isOpen then .opening else .sealing) cont [op1, op2, op3] s4 = .ok 0 s5 →
    slotChecks c b wrap (!cont) (!cont) s5 = .ok key s6 → (cont = true ∨ stateOk s6 c.pu b isOpen (some d) = true) →
    (cont = true ∨ lengthOk b r.len = true) →
    openBlock c b isOpen (if isOpen then d.bank * 2 ^ 61 + d.off % 2 ^ 33 else 0) s6 = .ok ws s7 →
    ctlPhase (blk ws 0) ≠ 2 → bits (blk ws 2) 32 0 = 0 → r.len ≠ 0 →
    let u := min r.len (min (toBoundary (d.va s7 c.pu)) (toBoundary (r.va s7 c.pu)))
    sourceSpan c r u s7 = .ok (va0, src) s8 →
    (if isOpen then sealedSpan c d u else targetSpan c d u (fun _ _ => tagBytes)) s8 = .ok (va, dst) s9 →
    let k : MKey := { alg := key.alg, key := key.key, iv := blockIv ws }
    let inp := partBytes s9 c.pu src
    let m := closeAad k (blockState ws)
    let out := crypt k m.paytot inp
    let m' := absorb k m (if isOpen then inp else out)
    let ws' := putState ws { m' with paytot := m'.paytot + u }
    exec (.muteUnit e .agree false) s = .next (served s9 c.pu
      (partStores va (fun p => if isOpen then some tagSealed else bytesTag p) dst out ++ writeBack s9 c.pu b ws')
      (afterUnit c (u == r.len && !ctlFin (blk ws' 0)) 0 (fun p => r.advance u (d.advance u p))))

/-- A custom instruction that reaches END writes its held registers, moves G15, sets CC where SETCC ran, and places its held stores
in order in the merging buffer (R156). The model's own readings here: log entries 44, 45, 132, 133, 146. -/
def Obligations.Custom_instruction_ends : Prop :=
  ∀ (h : Hdr) (j : BitVec 6) (ops : List Spec) (run : MicroRun) (s s1 s2 : State) (c : Ctx)
      (img : OpenImage) (w : Word) (m : Micro) (b : List MbEntry), ready s h.pu.val = true → h.vote = .agree →
    binding s h.pu.val j.toNat = some (img, w) → bits w.toNat 62 61 ≤ ops.length →
    decodeCustom h (some (img, w)) (ops.take (bits w.toNat 62 61)) (atStart s h.pu.val) = .ok c s1 →
    pswPL (s.pu h.pu.val).psw ≤ bits w.toNat 49 48 → (c.relax = false ∨ pswTRP (s.pu h.pu.val).psw = true) →
    let m0 := Micro.start run
    let e := uPlan s1 (bits w.toNat 12 0) m0 8
      { c := { c with relax := false }, slots := ops.take (bits w.toNat 62 61), img := img, relax := c.relax,
        irq := (dueAsync (atStart s h.pu.val) h.pu.val).isSome || (dueMc ((atStart s h.pu.val).pu h.pu.val)).isSome,
        plan := ⟨[], []⟩ }
    let pops := e.popSlots.length
    let pushes := e.pushSlots.length
    uRun e 16385 (bits w.toNat 12 0) m0 s1 = .ok m s2 → ReadsOnly h.pu.val s1 s2 →
    (∀ t ∈ m.stores, t.loc.len = 8) → (s2.pu h.pu.val).push (m.stores.map (fun t => storeOf s2 h.pu.val t.loc t.w)) = some b →
    exec (.customInstruction h j ops run) s = .next (ended s2 h.pu.val (fun p =>
      let p := m.g.foldl (fun p e => p.setReg e.1 e.2) { p with mb := b }
      let p := if pops = 0 ∧ pushes = 0 then p
        else p.setReg 15 (intWord (BitVec.ofNat 64 ((p.reg 15).data.toNat + 8 * pops + 2 ^ 64 - 8 * pushes)))
      let p := match m.cc with | some k => p.setCC k | none => p
      let p := match m.tod with | some t => { p with lastTod := t + 1 } | none => p
      p.setIA c.next))

/-- IOSTART, IOHALT, IOCLEAR, IOTEST and IOSENSE send one request to the channel subsystem and report its answer: the five
conditions of R311 and R314 to R317 in order, CC and, for IOSTART, DEFERRED in op3; IOTEST and IOSENSE store the words they are
given. What the channel subsystem answers: CC 3, and no effect, where the IOQ is not this partition's, is not configured, or the
subsystem is disabled; IOSTART accepts a start exactly when the subsystem is enabled, a path of the group is up, the IOQ is not
suspended, and it holds fewer than 16 starts with room in the commit ring. The model's own readings here: log entry 46. -/
def Obligations.Io_instructions : Prop :=
  (∀ (h : Hdr) (op1 op2 op3 : Spec) (s s1 s2 s3 s4 : State) (c : Ctx) (d : TWord) (ms : List MLoc) (p : Nat),
     p = pswPart (s.pu c.pu).psw → d.data.toNat < 2 ^ 18 →
     let clear (s : State) : Prop := storesWaiting (s.pu c.pu) = false ∧ strictPending (s.pu c.pu).mb = false ∧
       unlatched s c.pu = true ∧ (s.pu c.pu).chanCnt < 8
     let counted (r : State × List Nat) : State := requested (r.1.modPu c.pu (fun p => { p with chanCnt := p.chanCnt + 1 })) c.pu
       .io d.data.toNat (r.2.map (fun n => intWord (BitVec.ofNat 64 n)))
     (∀ rd, Starts h opIostart [op1, op2, op3] s c s1 → source c (place opIostart [op1, op2, op3] 1) 8 tagsInt op1 s1 = .ok d s2 →
       longOperand c (place opIostart [op1, op2, op3] 2) 4 32 op2 s2 = .ok ms s3 → readPair c tagsInt ms s3 = .ok rd s4 →
       let ws : List Word := rd.map (fun w => w.data)
       let w0 := (ws.headD 0).toNat
       bits w0 63 59 = p → bits w0 58 56 = 0 → bits w0 54 48 = 0 → (ws.getD 3 0).toNat % 16 = 0 → clear s4 →
       let r := ioStart c.pu p d.data.toNat ((ms.head?.map (·.abs)).getD 0) ws s4
       exec (.iostart h op1 op2 op3) s = .next (completed c opIostart [op1, op2, op3] (counted r) (s4.pu c.pu).mb
         (fun p => (p.setReg (regNum op3) (intWord (BitVec.ofNat 64 (r.2.getD 1 0)))).setCC (r.2.headD 3)))) ∧
     (∀ j act, (j, act) ∈ [(Instr.iohalt h op1, ioHalt), (.ioclear h op1, ioClear)] → Starts h opIo1 [op1] s c s1 →
       source c (place opIo1 [op1] 1) 8 tagsInt op1 s1 = .ok d s2 → clear s2 →
       let r := act p d.data.toNat s2
       exec j s = .next (completed c opIo1 [op1] (counted r) (s2.pu c.pu).mb (fun p => p.setCC (r.2.headD 3)))) ∧
     (∀ j act n b, (j, act, n) ∈ [(Instr.iotest h op1 op2, ioTest, 4), (.iosense h op1 op2, ioSense, 8)] →
       Starts h opIo2 [op1, op2] s c s1 → source c (place opIo2 [op1, op2] 1) 8 tagsInt op1 s1 = .ok d s2 →
       longOperand c (place opIo2 [op1, op2] 2) n 1 op2 s2 = .ok ms s3 → (ms.head?.map (·.va)).getD 0 % (8 * n) = 0 →
       (∀ m ∈ ms.take 1, checkPolicy c m tagInt s3 = .ok () s3) →
       ((s3.pu c.pu).push (ms.map (fun m => storeOf s3 c.pu m (intWord 0)))).isSome → clear s3 →
       let r := act p d.data.toNat s3
       (s3.pu c.pu).push ((ms.zip (r.2.tail.map (BitVec.ofNat 64))).map (fun x => storeOf s3 c.pu x.1 (intWord x.2))) = some b →
       exec j s = .next (completed c opIo2 [op1, op2] (counted r) b (fun p => p.setCC (r.2.headD 3))))) ∧
  (∀ (s : State) (n p q sbk : Nat) (ws : List Word),
     (ioqThere s p q = false → ioStart n p q sbk ws s = (s, [3, 0]) ∧ ioHalt p q s = (s, [3]) ∧ ioClear p q s = (s, [3]) ∧
       ioTest p q s = (s, [3]) ∧ ioSense p q s = (s, [3])) ∧
     ((ioStart n p q sbk ws s).2.headD 3 = 0 ↔ ioqThere s p q = true ∧ csState s = 1 ∧
       (∃ k, k < 8 ∧ pathUp s (ioqGroup s q) k = true) ∧ q ∉ s.susp ∧ nStarts s q < 16 ∧ s.ring.length < 4096) ∧
     ((ioStart n p q sbk ws s).2.headD 3 = 0 → (ioStart n p q sbk ws s).1.ring = s.ring ++ [(q, spGet 0 s.xidNext q)] ∧
       (ioStart n p q sbk ws s).1.starts.length = s.starts.length + 1) ∧
     (∀ y, ioqThere s p q = true → s.stats.find? (fun y => y.ioq == q && !sequencerTakes s y) = some y →
       (ioTest p q s).2 = 0 :: y.words.map (·.toNat) ∧ (ioTest p q s).1.stats = s.stats.filter (fun z => z.id != y.id)) ∧
     (∀ v, ioqThere s p q = true → spFind s.sense q = some v → ioSense p q s = (s, 0 :: v.map (·.toNat))))

/-- An opcode that no chapter assigns raises the operation exception 0x0001 at the byte that decides it, with ILEN 0. A privileged
instruction in a less privileged level ends in the privileged-operation exception 0x0002 at itself (R83): the control, PREFIX,
PSW, SIGPU, purge, TAGSET and MKDESC rows. -/
def Obligations.Operation_and_privilege_exceptions : Prop :=
  (∀ (h : Hdr) (b1 b2 : BitVec 8) (s s1 s2 v : State), ready s h.pu.val = true → h.vote = .agree → isPrefix b1.toNat = false →
     (assigned1 b1.toNat = false ∨ (b1 = 0xF0 ∧ assigned2 b2.toNat = false)) →
     let c := encCtx s h.pu.val
     checkPfx c 0 [] h.pfx (atStart s h.pu.val) = .ok () s1 →
     fetchBytes c h.pfx.length (if b1 = 0xF0 then 2 else 1) s1 = .ok () s2 →
     let at' := (c.ia + h.pfx.length + (if b1 = 0xF0 then 1 else 0)) % 2 ^ 64
     trapped s2 h.pu.val { cls := 1, code := 0x0001, fail := BitVec.ofNat 64 at', ia := BitVec.ofNat 64 c.ia, ilen := 0,
                           slot := 0, unit := 0, acc := 6, param := 0 } = some v →
     exec (.unassignedOpcode h b1 b2) s = .next v) ∧
  (∀ (h : Hdr) (op1 op2 op3 : Spec) (j : Instr) (i : OpInfo) (sp : List Spec) (s s1 v : State) (c : Ctx),
     (j, i, sp) ∈ [(Instr.ctlwr h op1 op2, opSys 2 [(.S, .rd), (.S, .rd)] true 1 true, [op1, op2]),
       (.ctlrd h op1 op2, opSys 2 [(.D, .wr), (.S, .rd)] true 2 true, [op1, op2]),
       (.pfxwr h op1, opSys 2 [(.S, .rd)] true 1 true, [op1]), (.pfxrd h op1, opSys 2 [(.D, .wr)] true 2 true, [op1]),
       (.pswld h op1, opSys 2 [(.M, .rd)] true 2 true, [op1]), (.reti h op1, opSys 1 [(.S, .rd)] true 2 true, [op1]),
       (.stpu h op1, opSys 1 [(.R, .wr)] false 2 false, [op1]), (.srsp h op1, opSrsp, [op1]),
       (.tbpurge h, opSys 2 [] false 2 true, []), (.tbpurgep h, opSys 2 [] false 2 true, []),
       (.tagset h op1 op2, opTagset, [op1, op2]), (.mkdesc h op1 op2 op3, opMkdesc, [op1, op2, op3]),
       (.sigpuSense h op1 op2, opSigpu, [op1, op2]), (.sigpuExternalCall h op1 op2, opSigpu, [op1, op2]),
       (.sigpuStop h op1 op2, opSigpu, [op1, op2]), (.sigpuRestart h op1 op2, opSigpu, [op1, op2]),
       (.sigpuSetPrefix h op1 op2, opSigpu, [op1, op2]), (.iostart h op1 op2 op3, opIostart, [op1, op2, op3]),
       (.iohalt h op1, opIo1, [op1]), (.ioclear h op1, opIo1, [op1]), (.iotest h op1 op2, opIo2, [op1, op2]),
       (.iosense h op1 op2, opIo2, [op1, op2])] →
     ready s h.pu.val = true → h.vote = .agree → decodeM h i sp (atStart s h.pu.val) = .ok c s1 → i.pl < pswPL (s.pu h.pu.val).psw →
     trapped s1 h.pu.val { cls := 1, code := 0x0002, fail := BitVec.ofNat 64 c.ia, ia := BitVec.ofNat 64 c.ia, ilen := c.len,
                           slot := 0, unit := 0, acc := 6, param := 0 } = some v →
     exec j s = .next v)

/-- INTERRUPTION_ENTRY: the entry due first is taken. With its class not busy, its area installed, room for its stores and a valid
new PSW in the class slot, the PU gets the new PSW and the class's busy bit, and the old PSW, the interruption code, the failing
address, the parameter and TOD[95:32], at class 0 the registers too, stand in the merging buffer behind what waited there. With
no other entry due after it, or the vote on this bundle alone, that is the whole command. The model's own readings here: log
entries 10, 24. -/
def Obligations.Interruption_entry : Prop :=
  ∀ (pu : Fin 60) (s : State) (e : Entry) (b1 b2 : List MbEntry), canRun s pu.val = true → atBoundary (s.pu pu.val) = true →
    dueEntry s pu.val false = some e → (∀ m, e = .imm m → m.pswv = true) → (s.pu pu.val).due = .none →
    let n := pu.val
    let u := leaveUnit s n
    let p := s.pu n
    let x := entryExc u n e
    let slot := areaBase s n + 0x100 + 0x40 * x.cls
    let old := pswSet p.psw 63 0 x.ia.toNat
    let sts := [intStore slot (old.toNat / 2 ^ 64), intStore (slot + 8) (old.toNat % 2 ^ 64),
      intStore (slot + 0x20) (codeWord x (match e with | .imm m => m.regv | .mc _ _ => true | _ => false) true),
      wordStore (slot + 0x28) (intWord x.fail), wordStore (slot + 0x30) (intWord x.param),
      wordStore (slot + 0x38) (intWord (todMid s))] ++ (if x.cls = 0 then saveStores u n (areaBase s n) else [])
    let busy := p.busy ||| BitVec.ofNat 6 (2 ^ x.cls)
    p.isBusy x.cls = false → areaOk s (pswPart p.psw) slot = true → mayRead u n (slot / 64) = true → (u.pu n).push sts = some b1 →
    (u.pu n).push (sts ++ [intStore (areaBase s n) busy.toNat]) = some b2 →
    let view := u.modPu n (fun p => { p with mb := b1 })
    let hi := puView view n ((slot + 0x10) / 8)
    let lo := puView view n ((slot + 0x18) / 8)
    hi.tag = tagInt → lo.tag = tagInt → pswValid (hi.data ++ lo.data) (puPart s n) = true →
    pswPart (hi.data ++ lo.data) = pswPart p.psw → puLocked s n = false →
    p.stopHeld = false → p.loaderStop = false → p.stepArm = false → p.haltReq = false →
    ∃ t, takeEntry u n e = some t ∧ (t.pu n).psw = hi.data ++ lo.data ∧ (t.pu n).busy = busy ∧ (t.pu n).mb = b2 ∧
      (∀ k, (t.pu n).reg k = p.reg k) ∧ t.mem = s.mem ∧
      exec (.interruptionEntry ⟨pu, .agreeOnly⟩) s = .next t ∧
      (dueEntry t n false = none → exec (.interruptionEntry ⟨pu, .agree⟩) s = .next t)

/-- An entry whose class is busy, whose area cannot be stored to, or whose new PSW is not valid puts the PU into lockup: PULOCK is
LOCKED with reason, class and code, and the attention bit is set. PULOCK_CLEAR ends it: the PU is STOPPED with no busy bit, or
runs for the restart that is pending. -/
def Obligations.Lockup_and_its_end : Prop :=
  (∀ (s : State) (n : Nat) (e : Exc) (r v : Bool), n < 60 → e.cls < 8 → e.code < 2 ^ 16 → (s.pu n).isBusy e.cls = true →
    ∃ t, enter s n e r v = some t ∧ puLocked t n = true ∧ ccsFld t (puReg n 0xE00) 55 48 = 1 ∧
      ccsFld t (puReg n 0xE00) 42 40 = e.cls ∧ ccsFld t (puReg n 0xE00) 31 16 = e.code ∧ ccsGet t (puReg n 0xE08) = e.ia ∧
      ccsFld t 0x0203001018 1 1 = 1 ∧ (t.pu n).psw = (s.pu n).psw) ∧
  (∀ (pu : Fin 60) (s : State), puLocked s pu.val = true →
    ∃ t, exec (.pulockClear pu) s = .next t ∧ puLocked t pu.val = false ∧ (t.pu pu.val).busy = 0 ∧ t.mem = s.mem ∧
      ((s.pu pu.val).restart = none → puState t pu.val = 2) ∧
      ((s.pu pu.val).restart.isSome = true → (s.pu pu.val).halted = false → (s.pu pu.val).loaderStop = false →
        loading s pu.val = false → puState t pu.val = 1))

/-- A bundle that is missing (R176) is a dissent (R178): a full triad masks the core, and a resync is due, with retirement where
DISSTRK holds two dissents of the window; a duplex PU retakes, and checkstops at the third mismatch of the window; else a retake
is due. DISSENT_WINDOW_EXPIRY takes times of 2^20 shutters or more out of DISSTRK (R185). The model's own readings here: log
entries 50, 62. -/
def Obligations.Dissents_are_masked_retaken_or_expire : Prop :=
  ∀ (pu : Fin 60) (role : Role) (s : State),
    let n := pu.val
    let num (s : State) := ccsFld s (dissReg n role) 57 56
    let age (k : Nat) := (shCount s + 2 ^ 24 - k) % 2 ^ 24
    (canRun s n = true → votes s n role = true → puMode s n ≠ 2 → (s.pu n).due = .none →
      let entry := atBoundary (s.pu n) && (dueEntry s n false).isSome
      ∃ t, exec (.missingBundle pu role) s = .next t ∧ Quiet s t ∧
        (fullTriad s n = true → (t.pu n).masked = some role ∧
          (t.pu n).resync = some (.dissent role 1 (decide (2 ≤ num (dissExpire s n role))))) ∧
        (puMode s n = 1 → ((s.pu n).dupTimes.filter (fun k => decide (shCount s < k + 2 ^ 20))).length < 2 →
          (t.pu n).due = .retake 1 false false (nextSeq s n) entry) ∧
        (puMode s n = 1 → 2 ≤ ((s.pu n).dupTimes.filter (fun k => decide (shCount s < k + 2 ^ 20))).length → puState t n = 3) ∧
        (puMode s n ≠ 1 → fullTriad s n = false → (t.pu n).due = .retake 1 false false 0 entry)) ∧
    ∃ t, exec (.dissentWindowExpiry pu role) s = .next t ∧ Quiet s t ∧
      (num s = 0 → t = s) ∧
      (num s = 1 → num t = if 2 ^ 20 ≤ age (ccsFld s (dissReg n role) 23 0) then 0 else 1) ∧
      (num s = 2 → age (ccsFld s (dissReg n role) 23 0) < 2 ^ 20 →
        num t = if 2 ^ 20 ≤ age (ccsFld s (dissReg n role) 47 24) then 1 else 2)

/-- RESYNC clears the mask, retires the core where that is due (its role vacant, the PU duplex, the lowest free stand-in in sync),
ends a debug exit, and keeps every architected register (R180, R186, R193); RETAKE counts, puts a masked core in step, and the
instruction or entry is due to run again (R181). The model's own readings here: log entry 19. -/
def Obligations.Resync_and_retake_keep_the_registers : Prop :=
  ∀ (pu : Fin 60) (pause : Fin 1537) (role : Role) (cause : BitVec 4) (entry : Bool) (seq : Nat) (s : State),
    let n := pu.val
    puLocked s n = false → noVoter s n = false → (s.pu n).stopHeld = false → (s.pu n).loaderStop = false →
    (s.pu n).stepArm = false → (s.pu n).haltReq = false →
    (∀ r, (s.pu n).resync = some r → steady (s.pu n) = true →
      ∃ t, exec (.resync pu pause .pass .none) s = .next t ∧ Quiet s t ∧ (t.pu n).resync = none ∧ (t.pu n).due = (s.pu n).due ∧
        ccsFld t (puReg n 0) 47 32 = pause.val ∧
        (r = .debugExit → puMode t n = if roles.all (roleFilled s n) then 0 else 1) ∧
        (r = .dissent role cause true → roleFilled t n role = false ∧ puMode t n = 1 ∧
          (∀ c cs, freeStandIns s (n / 10) = c :: cs → (t.pu n).standIn = some ⟨role, c, 0⟩))) ∧
    ((s.pu n).due = .retake cause false false seq entry → puState s n = 1 →
      ∃ t, exec (.retake pu pause .pass .none none) s = .next t ∧ Quiet s t ∧ (t.pu n).due = .retaken cause false seq entry ∧
        (t.pu n).resync = none ∧
        ccsFld t (puReg n 0) 47 32 = pause.val ∧
        ccsFld t (puReg n 0x28) 47 32 = min (ccsFld s (puReg n 0x28) 47 32 + 1) 0xFFFF)

/-- A stand-in that passes its self-test is given the microstore, one that fails is retired; after the copy it takes the vacated
role (R186, R187). The model's own readings here: log entry 49. -/
def Obligations.Stand_ins_pass_their_phases : Prop :=
  ∀ (pu : Fin 60) (pause : Fin 1537) (y : StandIn) (s : State),
    let n := pu.val
    (s.pu n).standIn = some y → y.core < 34 →
    (y.phase = 0 → (∃ t, exec (.standinSelftestDone pu true) s = .next t ∧ Quiet s t ∧
        (t.pu n).standIn = some { y with phase := 1 }) ∧
      ∃ t, exec (.standinSelftestDone pu false) s = .next t ∧ Quiet s t ∧
        (30 ≤ y.core → bit (sifree t (n / 10)) (y.core - 30) = false)) ∧
    (y.phase = 1 → s.loader.any (fun j => j.part == puPart s n) = false → ∃ t, exec (.standinCopyDone pu) s = .next t ∧ Quiet s t ∧ (t.pu n).standIn = some { y with phase := 2 }) ∧
    (y.phase = 2 → steady (s.pu n) = true → calm s n = true → noVoter s n = false →
      ∃ t, exec (.standinInsertion pu pause .pass .none) s = .next t ∧ Quiet s t ∧ (t.pu n).standIn = none ∧
        roleFilled t n y.role = true ∧ roleCore t n y.role = y.core ∧ ccsFld t (puReg n 0) 47 32 = pause.val)

/-- MOVESLATE gives a checkstopped PU's registers to a SPARE one, which runs while the source goes OFFLINE (R191); PAIRTEST forms an
OFFLINE PU again, SPARE when two of its cores are good (R192). -/
def Obligations.Pucmd_moves_work_and_tests_cores : Prop :=
  ∀ (pu : Fin 60) (target : BitVec 6) (good : BitVec 3) (discard : Bool) (s : State),
    let n := pu.val
    let busy (s : State) := ccsFld s (pucmdst n) 63 63
    let status (s : State) := ccsFld s (pucmdst n) 55 48
    (busy s = 0 → puState s n = 3 → moveTargetOk s n target.toNat = true →
      ∃ t, exec (.moveslate pu target) s = .next t ∧ Quiet s t ∧ busy t = 1 ∧ (t.pu n).puJob = some (.move target.toNat)) ∧
    (busy s = 0 → puState s n ≠ 3 → ∃ t, exec (.moveslate pu target) s = .next t ∧ Quiet s t ∧ busy t = 0 ∧ status t = 3) ∧
    ((s.pu n).puJob = some (.move target.toNat) → moveTargetOk s n target.toNat = true →
      ∃ t, exec (.moveslateComplete pu) s = .next t ∧ (t.pu target.toNat).arch = (s.pu n).arch ∧ puState t target.toNat = 1 ∧
        puState t n = 4 ∧ busy t = 0 ∧ status t = 1 ∧ t.mem = s.mem) ∧
    (busy s = 0 → puState s n = 4 →
      ∃ t, exec (.pairtest pu discard) s = .next t ∧ Quiet s t ∧ busy t = 1 ∧ puState t n = 5 ∧ (t.pu n).puJob = some .test) ∧
    ((s.pu n).puJob = some .test →
      let keep := roles.filter (fun r => (testCore s n r).isSome && good.getLsbD (2 - roleNum r))
      ∃ t, exec (.pairtestComplete pu good) s = .next t ∧ busy t = 0 ∧ status t = 1 ∧ t.mem = s.mem ∧
        puState t n = if 2 ≤ keep.length then 0 else 4)

/-- MERGING_BUFFER_PERFORM writes the oldest memory entry, and no other word of memory, in one act, the line taken by the L2 or from
every cache, and takes it out of the buffer (R201); a device store past its time is lost with its code (R226), and a device load
past its time ends in the interruption 0x0053, which is due (R229). The model's own readings here: log entries 55, 62. -/
def Obligations.Merging_buffer_and_device_timeouts : Prop :=
  ∀ (pu : Fin 60) (s : State),
    let n := pu.val
    (∀ e, dieFenced s (n / 10) = false → nextEntry (s.pu n).mb = some e → e.device = false → (s.pu n).unitHold = [] →
      mayPerform s n (e.line / 64) = true → spSorted e.words = true →
      let u := takeLine s n (e.line / 64)
      (∀ x ∈ e.words, (applyWrite? (memGet u (e.line / 8 + x.1)) x.2).isSome = true) →
      ∃ t, exec (.mergingBufferPerform pu 0) s = .next t ∧ (t.pu n).mb = replaceEntry none (s.pu n).mb ∧
        (∀ k, (t.pu k).arch = (s.pu k).arch) ∧ LinesMoved s u ∧
        ∀ w, memGet t w = match e.words.find? (fun x => e.line / 8 + x.1 == w) with
          | some x => applyWrite (memGet u w) x.2
          | none => memGet u w) ∧
    (∀ e, (s.pu n).mb.find? MbEntry.late = some e →
      ∃ t, exec (.deviceStoreTimeout pu) s = .next t ∧ Quiet s t ∧
        ∃ x ∈ (t.pu n).mb, x.phase = .lost 0x0050 ∧ x.vline = e.vline) ∧
    (∀ d, (s.pu n).devLoad = some d → d.ticks = 0 →
      ∃ t, exec (.deviceLoadTimeout pu) s = .next t ∧ Quiet s t ∧ (t.pu n).devLoad = none ∧ (t.pu n).latch = [] ∧
        (t.pu n).prog = some { cls := 1, code := 0x0053, fail := BitVec.ofNat 64 d.va, ia := iaOf s n, ilen := d.ilen,
                               slot := d.slot, unit := d.unit, acc := 1, param := 0 })

/-- The L2 commands: LOCK sets WAYS to PLWAYS or ends with BADWAYS, and UNLOCK clears WAYS and every reserve mark (R205); PRELOAD
and RANGEINV run until their end (R204, R206); EN = 0 drains the L2, which holds nothing once disabled, and EN = 1 enables it
again (R207). The model's own readings here: log entry 53. -/
def Obligations.L2_commands_act_on_the_l2 : Prop :=
  ∀ (pu : Fin 60) (s : State),
    let n := pu.val
    let a := ccsFld s (l2Reg n 0x18) 50 6
    let k := ccsFld s (l2Reg n 0x20) 16 0
    let busy (s : State) := ccsFld s (l2Reg n 0x28) 63 63
    let status (s : State) := ccsFld s (l2Reg n 0x28) 55 48
    let state (s : State) := ccsFld s (l2Reg n 0) 63 62
    (busy s = 0 →
      (l2On s n = true → plWays s n ≠ 0 → popCount (plWays s n) 16 ≤ 12 →
        ∃ t, exec (.lock pu) s = .next t ∧ Quiet s t ∧ lockedWays t n = plWays s n ∧ status t = 1) ∧
      (l2On s n = true → (plWays s n = 0 ∨ 12 < popCount (plWays s n) 16) →
        ∃ t, exec (.lock pu) s = .next t ∧ Quiet s t ∧ lockedWays t n = lockedWays s n ∧ status t = 4) ∧
      (∃ t, exec (.unlock pu) s = .next t ∧ Quiet s t ∧ lockedWays t n = 0 ∧ (t.pu n).l2resv = [] ∧ status t = 1) ∧
      (∀ j cmd, (j, cmd) ∈ [(Instr.preload pu, 1), (.rangeinv pu, 4)] → l2On s n = true → 0 < k → k ≤ 65536 →
        ccsFld s (l2Reg n 0x18) 51 51 = 0 → a + k ≤ 2 ^ 45 →
        ∃ t, exec j s = .next t ∧ Quiet s t ∧ busy t = 1 ∧ (t.pu n).l2cmd = some (cmd, a, k)) ∧
      (state s = 0 → ∃ t, exec (.l2Drain pu) s = .next t ∧ Quiet s t ∧ state t = 1 ∧ ccsFld t (l2Reg n 0) 0 0 = 0) ∧
      (state s = 2 → ∃ t, exec (.l2Enable pu) s = .next t ∧ Quiet s t ∧ state t = 0 ∧ ccsFld t (l2Reg n 0) 0 0 = 1)) ∧
    (state s = 1 → ∃ t, exec (.l2DrainComplete pu) s = .next t ∧ MovesLines s t ∧ state t = 2 ∧ (t.pu n).l2 = [] ∧ lockedWays t n = 0) ∧
    (∀ a k, (s.pu n).l2cmd = some (4, a, k) →
      ∃ t, exec (.l2CommandComplete pu) s = .next t ∧ MovesLines s t ∧ busy t = 0 ∧ status t = 1 ∧
        ∀ x ∈ (t.pu n).l2, x.line < a ∨ a + k ≤ x.line) ∧
    (∀ a k, (s.pu n).l2cmd = some (1, a, k) →
      (preloadRun n (plWays s n) k a [] 0 s = none → exec (.l2CommandComplete pu) s = .next s) ∧
      (∀ u skip st, preloadRun n (plWays s n) k a [] 0 s = some (u, skip, st) →
        ∃ t, exec (.l2CommandComplete pu) s = .next t ∧ MovesLines s t ∧ busy t = 0 ∧ (t.pu n).l2 = (u.pu n).l2 ∧
          ccsFld t (l2Reg n 0x28) 31 16 = min skip 0xFFFF ∧
          status t = if (List.range k).all (fun i => installed s (64 * (a + i))) then 1 else 6))

/-- PATROL_SCRUB_READ corrects or poisons the line it reads in DRAM, and no cache's copy (R213 to R215). Writes of zone,
device-region and MEMMAP registers come into force at their tick and not before (R59, R211, R223), and ACTIVE follows MEMMAP
(R211). The model's own readings here: log entries 54, 57. -/
def Obligations.Scrub_and_delayed_registers : Prop :=
  (∀ (die : Fin 6) (mc : Fin 2) (line : BitVec 45) (s : State),
    let l := line.toNat
    let a := dieReg die.val (0x200100 + 0x100 * mc.val)
    ccsFld s (dieReg die.val 0x200010) 31 0 ≠ 0 → homeOf s (64 * l) = some die.val → l / 4 % 2 = mc.val →
    exec (.patrolScrubRead die mc line .clean) s = .next s ∧
    (∃ t, exec (.patrolScrubRead die mc line .corrected) s = .next t ∧ Quiet s t ∧
      ccsFld t a 15 0 = min (ccsFld s a 15 0 + 1) 0xFFFF) ∧
    (∃ t, exec (.patrolScrubRead die mc line .lost) s = .next t ∧ (∀ k, (t.pu k).arch = (s.pu k).arch) ∧
      ccsFld t a 31 16 = min (ccsFld s a 31 16 + 1) 0xFFFF ∧ ccsGet t (a + 8) = BitVec.ofNat 64 (64 * l) ∧
      (dirFind s l = none → ∀ w, memGet t w = if w / 8 = l then poisonWord else memGet s w) ∧
      ((dirFind s l).isSome = true → t.mem = s.mem ∧
        ∀ i < 8, memGet s (8 * l + i) ≠ poisonWord → (8 * l + i, poisonWord) ∈ t.dram)) ∧
    (∀ ws, ws.length = 8 → ∃ t, exec (.patrolScrubRead die mc line (.miscorrected ws)) s = .next t ∧
      (∀ k, (t.pu k).arch = (s.pu k).arch) ∧ ccsFld t a 15 0 = min (ccsFld s a 15 0 + 1) 0xFFFF ∧
      (dirFind s l = none → ∀ i (hi : i < ws.length), memGet t (8 * l + i) = ws[i]) ∧
      ((dirFind s l).isSome = true → t.mem = s.mem))) ∧
  (∀ (s : State) (j : Instr) (names : List RegName), (j, names) ∈ [(Instr.zoneEffect, [RegName.pzorg, .pzend]),
      (.deviceRegionEffect, [.pregorg, .pregend, .pdevctl]), (.memmapEffect, [.memmap])] →
    ∃ t, exec j s = .next t ∧ Quiet s t ∧ (∀ a r ix, regAt a = some (r, ix) → r.name ∈ names →
      ((∀ p ∈ s.pend, p.addr = a → p.ticks = 0) → inForce t a = ccsGet t a) ∧
      ((∀ p ∈ s.pend, p.addr = a → p.ticks ≠ 0) → inForce t a = inForce s a)) ∧
      (j = .memmapEffect → ∀ d < 6, ccsFld t (dieReg d 0x200008) 63 63 =
        b2n (rangeValid t d && (List.range 6).all (fun e => !(rangeValid t e && rangesMeet t d e)))))

/-- REGISTER_WRITE (R9, R10): RW fields are written, RWL ones while the module is open, W1C ones cleared, RO ones kept; a write to
an unassigned address, or without power, has no effect (R24); a zone register keeps its old value in force until its tick (R59).
The model's own readings here: log entries 63, 64. -/
def Obligations.Register_writes_follow_access_types : Prop :=
  ∀ (addr : BitVec 40) (v : Word) (s : State), s.boot.pwrGood = true →
    (regAt addr.toNat = none → exec (.registerWrite addr v) s = .next s) ∧
    (∀ r ix, regAt addr.toNat = some (r, ix) →
      (r.name ∈ [RegName.modid, .shcount, .pustat, .pucnt, .voterst, .l2cmda, .l2cmdn, .l2err, .dirlogt, .scrubint, .bootaddr,
          .keksel, .lksel, .toderr, .epseq, .mutkv] →
        let m := r.rw ||| (if modSealed s then 0 else r.rwl)
        ∃ t, exec (.registerWrite addr v) s = .next t ∧ Quiet s t ∧
          (∀ a, ccsGet t a = if a = addr.toNat then ((ccsGet s a &&& ~~~m) ||| (v &&& m)) &&& ~~~(v &&& r.w1c)
            else ccsGet s a)) ∧
      (r.name = .pzorg ∨ r.name = .pzend → partSealed s (ix.headD 0) = false →
        ∃ t, exec (.registerWrite addr v) s = .next t ∧ Quiet s t ∧ ccsGet t addr.toNat = v &&& r.rwl ∧
          ∀ a, inForce t a = inForce s a))

/-- What the requests of a PU do at an idle home (R237): a line no node holds is granted E, M or nothing, and entered as owned by
the die; a shared line gains the reader, or is given up to an upgrade; an owned line is snooped first. A non-caching write
merges its bytes and leaves no copy. The codes find nothing here. The model's own readings here: log entries 93, 97. -/
def Obligations.Requests_at_an_idle_home : Prop :=
  ∀ (pu : Fin 60) (line : BitVec 45) (s : State) (h : Nat),
    let n := pu.val
    let d := n / 10
    let l := line.toNat
    let who := Requester.pu pu
    let answer (op : HomeOp) (g : Moesi) (needs : Bool) : Cmp :=
      { op := op, who := who, line := l, txn := 0, grant := g, needs := needs, ans := [], alone := true, refused := false,
        part := chargedTo s who }
    let found : Found := { dir := .clean, dram := .clean }
    s.atNode = [] → s.homeQ = [] → s.txns = [] → s.cmps = [] → homeOf s (64 * l) = some h → dieFenced s d = false → nodeFailed s d = false →
    (dirFind s l = none → (setEntries s l).length < 16 →
      (∀ j op g, (j, op, g) ∈ [(Instr.rds who line ⟨found, .none⟩, HomeOp.rds, Moesi.E), (.rdx who line found, .rdx, .M)] →
        l2On s n = true → dieHolds s d l = false →
        ∃ t e, exec j s = .next t ∧ Quiet s t ∧ dirFind t l = some e ∧ e.st = .X ∧ e.owner = d ∧ e.vec = 2 ^ d ∧
          t.cmps = [answer op g true]) ∧
      (∃ t, exec (.rdnc who ⟨line, found⟩) s = .next t ∧ Quiet s t ∧ dirFind t l = none ∧ t.txns = [] ∧ t.cmps = [answer .rdnc .I true]) ∧
      (∀ wr part, ∃ t, exec (.wrnc who ⟨line, found⟩ wr none part) s = .next t ∧ dirFind t l = none ∧ t.txns = [] ∧
        (∀ i < 8, memGet t (8 * l + i) = match wr[i]? with
          | some m => if m.mask = 0 then memGet s (8 * l + i) else applyWrite (memGet s (8 * l + i))
              { mask := m.mask, data := m.word.data, tag := if m.mask = 0xFF then some m.word.tag else none }
          | none => memGet s (8 * l + i)) ∧
        (∀ w, w / 8 ≠ l → memGet t w = memGet s w) ∧ ∀ k, (t.pu k).arch = (s.pu k).arch)) ∧
    (∀ e, dirFind s l = some e → e.st = .S → e.vec ≠ 0 → (vecNodes s e).foldl (fun v k => v + 2 ^ k) 0 = e.vec →
      (l2On s n = true → dieHolds s d l = false →
        ∃ t e', exec (.rds who line ⟨found, .none⟩) s = .next t ∧ MovesLines s t ∧ dirFind t l = some e' ∧ e'.st = .S ∧
          e'.vec = setBits e.vec d d 1 ∧ t.cmps = [answer .rds .S true]) ∧
      (l2StateOf s who l = some .S → e.vec = 2 ^ d →
        ∃ t e', exec (.upg who ⟨line, found⟩) s = .next t ∧ Quiet s t ∧ dirFind t l = some e' ∧ e'.st = .X ∧ e'.owner = d ∧
          e'.vec = 2 ^ d ∧ t.cmps = [answer .upg .M false])) ∧
    (∀ e, dirFind s l = some e → e.st ≠ .S → e.dead s = false → l2On s n = true → dieHolds s d l = false →
      ∃ t u, exec (.rds who line ⟨found, .none⟩) s = .next t ∧ Quiet s t ∧ dirFind t l = some e ∧ t.cmps = [] ∧ t.txns = [u] ∧
        u.snoops = [{ node := e.owner, kind := .snps, ticks := 0, ans := none, txn := 0 }] ∧ u.src = some e.owner)

/-- A die answers a snoop with what it held and, but for SNPS and SNPN, holds the line no more; the ACK of the last snoop of an RDS
shares the line (R237, R238); a snoop unanswered at the fourth tick fails the node (R249). The model's own readings here: log
entry 96. -/
def Obligations.Snoops_and_their_answers : Prop :=
  ∀ (node : Fin 10) (line : BitVec 45) (s : State) (u : Txn) (x : Snoop),
    let k := node.val
    let l := line.toNat
    s.txns = [u] → u.req.line = l → u.snoops = [x] → x.node = k → s.homeQ = [] → s.atNode = [] →
    (∀ j kind, (j, kind) ∈ [(Instr.snps node ⟨line, .none⟩, SnoopKind.snps), (.snpx node ⟨line, .none⟩, .snpx),
        (.snpn node ⟨line, .none⟩, .snpn), (.snpi node line, .snpi), (.snpr node ⟨line, .none⟩, .snpr)] →
      x.kind = kind → x.ans = none → k < 6 → nodeFailed s k = false →
      ∃ t, exec j s = .next t ∧ Quiet s t ∧
        t.txns = [{ u with snoops := [{ x with ans := some (dieHolds s k l, dieDirty s k l) }] }] ∧
        (kind ≠ .snps → kind ≠ .snpn → dieHolds t k l = false) ∧ (kind = .snpn → dieHolds t k l = dieHolds s k l)) ∧
    (∀ held dirty m e data, x.ans = some (held, dirty) → x.kind = .snps → x.ticks < 4 → k < 6 → nodeFailed s k = false →
      u.req.op = .rds → u.req.who = .pu m →
      nodeFailed s (m.val / 10) = false → u.done = false → u.grant = .S → u.held = false → u.dirty = false → u.src = some k →
      u.got = false → dirFind s l = some e → e.st ≠ .S → e.owner = k →
      ∃ t e', exec (.ack node line held dirty data) s = .next t ∧ Quiet s t ∧ dirFind t l = some e' ∧
        e'.st = (if dirty then .O else .S) ∧ bit e'.vec (m.val / 10) = true ∧
        t.cmps.length = s.cmps.length + 1 ∧ ∀ c ∈ t.cmps, c ∈ s.cmps ∨ (c.who = .pu m ∧ c.line = l ∧ c.grant = .S ∧ c.needs = true)) ∧
    (4 ≤ x.ticks → ∃ t, exec (.homeSnoopTimeout node line) s = .next t ∧ nodeFailed t k = true)

/-- The requester's side (R233, R236, R246): DATA fills the L2 of a reader, CMP gives a writer the line alone and a far atomic its
answer, CMPACK closes the transaction; a die's writeback or clean departure frees the entry it owned, a guest's writeback writes
the line under TAGMODE. The model's own readings here: log entry 97. -/
def Obligations.Completion_and_departures : Prop :=
  (∀ (pu : Fin 60) (line : BitVec 45) (s : State),
    let n := pu.val
    let l := line.toNat
    let who := Requester.pu pu
    (∀ u data, s.txns = [u] → u.req.who = who → u.req.line = l → u.req.op = .rds → u.got = false → u.src = none → l2On s n = true →
      nodeFailed s (n / 10) = false →
      (fillWay (trkPut (trkRoom s (n / 10) l) (n / 10) l (some u.grant)) n l).isSome = true →
      ∃ t, exec (.data who line data) s = .next t ∧ MovesLines s t ∧ ((t.pu n).l2Line l).map (·.state) = some u.grant ∧
        t.txns = [{ u with got := true }]) ∧
    (∀ c, s.cmps = [c] → c.who = who → c.line = l → c.needs = false →
      let d := n / 10
      let alone := (diePus d).foldl (fun s m => if m = n then s else l2Inval s m l true) (l3Put { s with cmps := [] } d l none)
      (c.op = .rdx ∨ c.op = .upg → l2On s n = true →
        (fillWay (trkPut (trkRoom alone d l) d l (some .M)) n l).isSome = true →
        ∃ t, exec (.cmpResponse who line) s = .next t ∧ MovesLines s t ∧ t.cmps = [] ∧ ((t.pu n).l2Line l).map (·.state) = some .M) ∧
      (c.op = .atom → ∃ t, exec (.cmpResponse who line) s = .next t ∧ Quiet s t ∧ t.cmps = [] ∧ (t.pu n).atomReq = none ∧
        ∀ e ∈ (t.pu n).latch, e.kind = .farAtomic → e.resp ≠ none)) ∧
    (∀ u, s.txns = [u] → u.req.who = who → u.req.line = l → u.done = true → s.cmps = [] → s.homeQ = [] → s.atNode = [] →
      ∃ t, exec (.cmpack who line) s = .next t ∧ Quiet s t ∧ t.txns = []) ∧
    (∀ r h, (s.pu n).atomReq = some r → r.done = false → r.abs / 64 = l → s.atNode = [] → s.homeQ = [] → s.txns = [] → s.cmps = [] →
      homeOf s (64 * l) = some h → dieFenced s (n / 10) = false → nodeFailed s (n / 10) = false → dirFind s l = none →
      (setEntries s l).length < 16 →
      ∃ t, exec (.atom ⟨pu, { dir := .clean, dram := .clean }, .none⟩) s = .next t ∧ (∃ c, t.cmps = [c] ∧ c.op = .atom ∧ c.ans = atomAnswer (atomApply r (memGet s (r.abs / 8)))) ∧
        l3Get t h l = some .M ∧ (∀ a, Kept (atomStore s r) t a) ∧ (∀ a, a / 8 = l → memGet t a = memGet (atomStore s r) a) ∧ ∀ k, (t.pu k).arch = (s.pu k).arch)) ∧
  (∀ (node : Fin 10) (line : BitVec 45) (data : List TWord) (s : State) (e : DirEnt),
    let k := node.val
    let l := line.toNat
    dirFind s l = some e → e.owner = k → e.st = .X → e.dead s = false →
    (k < 6 → (dieDirty s k l = true → ∃ t, exec (.wb node ⟨line, .none⟩ data) s = .next t ∧ Quiet s t ∧ dirFind t l = none ∧
        dieHolds t k l = false) ∧
      (dieHolds s k l = true → dieDirty s k l = false → ∃ t, exec (.evc node line) s = .next t ∧ MovesLines s t ∧ dirFind t l = none ∧ dieHolds t k l = false)) ∧
    (6 ≤ k → (∃ t, exec (.evc node line) s = .next t ∧ MovesLines s t ∧ dirFind t l = none) ∧
      (data.length = 8 → ∃ t, exec (.wb node ⟨line, .none⟩ data) s = .next t ∧ dirFind t l = none ∧
        (∀ i (hi : i < data.length), memGet t (8 * l + i) = ⟨data[i].data, agentTag (tagMode s (k - 6)) data[i].tag⟩) ∧
        ∀ w, w / 8 ≠ l → memGet t w = memGet s w)))

/-- SHUTTER_TICK advances SHCOUNT and closes the counts of the shutter (R19, R271); arriving flits enter the sending queue, and a
slot goes to the first candidate of its kind, which leaves it, with a claim for a displaced grant (R264 to R267, R273); a COMMIT
checks the other bank, and the banks exchange at their tick (R258, R259). The model's own readings here: log entries 58, 98,
156. -/
def Obligations.Shutter_tick_slots_and_commits : Prop :=
  (∀ lost s, s.boot.pwrGood = true → s.boot.ran = true →
    ∃ t, exec (.shutterTick lost) s = .next t ∧ Quiet s t ∧ shCount t = (shCount s + 1) % 2 ^ 53 ∧
      (∀ n, (t.pu n).chanCnt = 0) ∧ t.served = [] ∧ t.refused = [] ∧
      ∀ p < 32, ccsFld t (partReg p 0x500) 20 0 = spGet 0 s.refused p % 2 ^ 21 ∧
        ccsFld t (partReg p 0x500) 41 21 = min ((queuedParts s ++ waitingParts s).count p) (2 ^ 21 - 1)) ∧
  (∀ (node : Fin 7) (link : BitVec 5) (r : Fin 2) (slot : Fin 4096) (arriving : List FabMsg) (s : State),
    let n := node.val
    let l := link.toNat
    let key := fabKey n l r.val
    let f := (arriving.map (flitFor s)).foldl enqueue (s.fabLink key)
    let w := f.queue
    let kind := slotKind slot.val (slotEntry s n l r.val (activeBank s n l r.val) slot.val)
    linkExists n l r.val = true → slot.val < linkSlots l → f.next ≤ slot.val → link ≠ 0x18 →
    (∀ p x, kind = .granted p → (∀ y ∈ w, y.kind = .response ∨ y.kind = .request) → flitOf w p = some x →
      ∃ t, exec (.slotArbitration node link r slot arriving) s = .next t ∧ Quiet s t ∧
        t.fabLink key = { f with queue := w.erase x, next := slot.val + 1, won := some x, guar := f.guar + 1 } ∧
        spGet 0 t.served x.part = spGet 0 s.served x.part + 1) ∧
    (∀ p y, kind = .granted p → flitKind w false .urgentReply = some y → (flitOf w p).isSome = true →
      ∃ t, exec (.slotArbitration node link r slot arriving) s = .next t ∧ Quiet s t ∧ t.served = s.served ∧
        t.fabLink key =
          { f with queue := w.erase y, next := slot.val + 1, won := some y, ctl := f.ctl + 1, claims := f.claims ++ [p] }) ∧
    (∀ x, kind = .best → f.claims = [] → (∀ y ∈ w, y.kind = .response ∨ y.kind = .request) → bestFor f.ptr w = some x →
      ∃ t, exec (.slotArbitration node link r slot arriving) s = .next t ∧ Quiet s t ∧
        t.fabLink key =
          { f with queue := w.erase x, next := slot.val + 1, won := some x, be := f.be + 1, ptr := (x.part + 1) % 32 }) ∧
    (w = [] → ∃ t, exec (.slotArbitration node link r slot arriving) s = .next t ∧ Quiet s t ∧ t.served = s.served ∧
      t.fabLink key = { f with next := slot.val + 1, won := none })) ∧
  (∀ (node : Fin 7) (link : BitVec 5) (r : Fin 2) (s : State),
    let n := node.val
    let l := link.toNat
    let a := slotCmt n l r.val
    linkExists n l r.val = true →
    ((∀ j < linkSlots l, slotFault s n l r.val j = none) →
      ∃ t, exec (.commit node link r) s = .next t ∧ Quiet s t ∧ ccsFld t a 55 48 = 1 ∧ ccsFld t a 62 62 = 1 ∧
        (t.fabLink (fabKey n l r.val)).commit = some 2 ∧ activeBank t n l r.val = activeBank s n l r.val) ∧
    (∀ j c, j < linkSlots l → slotFault s n l r.val j = some c → (∀ i < j, slotFault s n l r.val i = none) →
      ∃ t, exec (.commit node link r) s = .next t ∧ Quiet s t ∧ ccsFld t a 55 48 = c ∧ ccsFld t a 43 32 = j ∧
        activeBank t n l r.val = activeBank s n l r.val) ∧
    (∀ f, s.fab = [(fabKey n l r.val, f)] → f.commit = some 0 →
      ∃ t, exec .slotBankExchange s = .next t ∧ Quiet s t ∧ activeBank t n l r.val = 1 - activeBank s n l r.val ∧
        ccsFld t a 62 62 = 0))

/-- The states of a guest link (R277, R285, R296, R297): each event takes the link where R277 says, with CAUSE where it goes DOWN.
The model's own readings here: log entry 101. -/
def Obligations.Guest_links_change_state : Prop :=
  ∀ (k : Fin 4) (s : State),
    let p := k.val
    let st := lstate s p
    let age := shCount s - (s.gp p).since
    let cause (s : State) := ccsFld s (gpReg p 8) 55 48
    (st = 0 → (s.gp p).trained = false → ∃ t, exec (.gpctlEn k true) s = .next t ∧ Quiet s t ∧ lstate t p = 1) ∧
    (1 ≤ st → st ≤ 3 → ∃ t, exec (.gpctlEn k false) s = .next t ∧ Quiet s t ∧ lstate t p = 0 ∧ cause t = 1) ∧
    (st = 0 → ccsFld s (gpReg p 0) 63 63 = 1 → 1024 ≤ age →
      ∃ t, exec (.linkDownRetry k) s = .next t ∧ Quiet s t ∧ lstate t p = 1) ∧
    (st = 1 → (∃ t, exec (.trainComplete k .up) s = .next t ∧ Quiet s t ∧ lstate t p = 2) ∧
      (∃ t, exec (.trainComplete k .refused) s = .next t ∧ Quiet s t ∧ lstate t p = 0 ∧ cause t = 2) ∧
      ∃ t, exec (.trainComplete k .timeout) s = .next t ∧ Quiet s t ∧ lstate t p = 0 ∧ cause t = 3) ∧
    (st = 2 → (s.gp p).replay = [] → (s.gp p).txWait = [] →
      ∃ t, exec (.speedComplete k true) s = .next t ∧ Quiet s t ∧ lstate t p = 3 ∧
        t.sent = s.sent ++ [⟨.guest, [p, flitOut (s.gp p) [1, portInit p]]⟩]) ∧
    (st = 2 → ∃ t, exec (.speedComplete k false) s = .next t ∧ Quiet s t ∧ lstate t p = 0 ∧ cause t = 3) ∧
    (∀ record, st = 3 → recOpc record = 0x3F → bit (recSt record) 0 = false → recAux record = 0 →
      1 ≤ bits record.toNat 95 88 →
      ∃ t, exec (.init k record) s = .next t ∧ Quiet s t ∧ lstate t p = 4 ∧ gpCaching t p = false ∧
        (t.gp p).devCrd = bits record.toNat 95 88) ∧
    (st = 3 → 16 ≤ age → ∃ t, exec (.initTimeout k) s = .next t ∧ Quiet s t ∧ lstate t p = 0 ∧ cause t = 3) ∧
    (st = 6 → age ≤ 64 → (s.gp p).back < 8 →
      ∃ t, exec (.retrainEnd k true) s = .next t ∧ Quiet s t ∧ lstate t p =
        if (s.gp p).back = 4 ∧ (s.gp p).quiet = true ∧ (s.gp p).opens = [] ∧ (s.gp p).devs = [] then 5 else (s.gp p).back) ∧
    (st = 6 → ∃ t, exec (.retrainEnd k false) s = .next t ∧ lstate t p = 0 ∧ cause t = 5) ∧
    (∀ c : Fin 9, c ≠ 0 → st ≠ 0 → ∃ t, exec (.guestLinkDown k c) s = .next t ∧ lstate t p = 0 ∧ cause t = c.val ∧
      (t.gp p).devs = [] ∧
      (t.gp p).opens = ((s.gp p).opens.filter (fun q => !q.gone)).map (fun q => { q with dead := true })) ∧
    (st = 4 → (s.gp p).opens = [] → (s.gp p).devs = [] →
      ∃ t, exec (.quiesce k) s = .next t ∧ Quiet s t ∧ lstate t p = 5) ∧
    (st = 4 → (s.gp p).opens ≠ [] → ∃ t, exec (.quiesce k) s = .next t ∧ Quiet s t ∧ lstate t p = 4 ∧ (t.gp p).quiet = true) ∧
    (st = 5 → ∃ t, exec (.gpResume k) s = .next t ∧ Quiet s t ∧ lstate t p = 4) ∧
    (st = 5 → gpCaching s p = true → ∃ t, exec (.flush k) s = .next t ∧ Quiet s t ∧ lstate t p = 7 ∧
      t.sent = s.sent ++ [⟨.guest, [p, nullOut (s.gp p) 1]⟩]) ∧
    (st = 7 → ∃ t, exec (.flushed k) s = .next t ∧ lstate t p = 5 ∧ gpCaching t p = false) ∧
    (∀ v, (gpIdle s p = true → ∃ t, exec (.gpbindWrite k v) s = .next t ∧ Quiet s t ∧
        ccsGet t (gpReg p 0x10) = v &&& 0x800000000000001F) ∧
      (gpIdle s p = false → ∃ t, exec (.gpbindWrite k v) s = .next t ∧ Quiet s t ∧
        ccsGet t (gpReg p 0x10) = ccsGet s (gpReg p 0x10) ∧ ccsFld t (gpReg p 8) 58 58 = 1))

/-- Flits and credits (R279 to R281, R286): a flit the FEC cannot correct is counted and answered once with a NAK; one in sequence
is taken and its ACKSEQ sent; a NAK or the timeout replays what no ACKSEQ covers, the fourth time with a retrain; credits are
added. The model's own readings here: log entry 100. -/
def Obligations.Flits_are_received_and_replayed : Prop :=
  ∀ (k : Fin 4) (s : State),
    let p := k.val
    let g := s.gp p
    let errs (s : State) (hi lo : Nat) := ccsFld s (gpReg p 0x300) hi lo
    (∀ count, (∃ t, exec (.creditReturn k 1 count) s = .next t ∧ Quiet s t ∧ t.gp p = { g with snpCrd := g.snpCrd + count.toNat }) ∧
      ∃ t, exec (.creditReturn k 2 count) s = .next t ∧ Quiet s t ∧ t.gp p = { g with devCrd := g.devCrd + count.toNat }) ∧
    (carries s p = true →
      (∀ flit, ∃ t, exec (.flitReceive k flit false) s = .next t ∧ Quiet s t ∧ (t.gp p).nak = true ∧
        errs t 63 48 = min (errs s 63 48 + 1) 0xFFFF ∧
        t.sent = s.sent ++ if g.nak then [] else [⟨.guest, [p, nullOut { g with nakDue := true } 0]⟩]) ∧
      (∀ flit : BitVec 2048,
        let b := bytesBE 256 flit.toNat
        let c := ofBE ((b.drop 236).take 6)
        ofBE ((b.drop 242).take 8) = (crc64 (b.take 242)).toNat → (b.drop 232).take 4 = [0, 0, 0, 0] → bits c 27 0 = 0 →
        bits c 47 38 = (g.rxSeq + 1) % 1024 → g.rxBytes = [] → g.descs = [] → g.replay = [] → g.txWait = [] →
        ∃ t, exec (.flitReceive k flit true) s = .next t ∧ Quiet s t ∧ (t.gp p).rxSeq = (g.rxSeq + 1) % 1024 ∧
          (t.gp p).nak = false ∧ (t.gp p).rxBytes = (b.take 232).drop 192 ∧
          t.sent = s.sent ++ [⟨.guest, [p, nullOut { g with rxSeq := (g.rxSeq + 1) % 1024 } 0]⟩]) ∧
      (∀ (f : TxFlit) (ackseq : BitVec 10), g.replay = [f] → ackseq.toNat ≠ f.seq → g.txWait = [] →
        ∀ j ∈ [Instr.nakReplay k ackseq, .replayTimeout k], ∃ t, exec j s = .next t ∧ Quiet s t ∧
          lstate t p = (if g.replays < 3 then lstate s p else 6) ∧
          t.sent = s.sent ++ [⟨.guest, [p, ofBE (flitBody f.payload f.descs (linkControl g f.seq false 0))]⟩] ∧
          errs t 47 32 = min (errs s 47 32 + 1) 0xFFFF))

/-- A guest's request is admitted or refused with a NACK, and leaves the queue with a home credit once its window and zone still
permit it (R287, R288); a device load or store goes to the port that serves its address, and the agent's answer ends it (R290,
R292). The model's own readings here: log entries 102, 103. -/
def Obligations.Guest_requests_and_device_accesses : Prop :=
  (∀ (k : Fin 4) (record : BitVec 128) (data : List Word) (s : State),
    let p := k.val
    4 ≤ lstate s p → 1 ≤ recOpc record → recOpc record ≤ 5 →
    (nackReason s p record = none → ∃ t, exec (.guestRequest k record data) s = .next t ∧ Quiet s t ∧
      (t.gp p).opens = (s.gp p).opens ++ [⟨record, recBytes s p record data, false, false, false⟩]) ∧
    (∀ c, nackReason s p record = some c → (s.gp p).replay = [] → (s.gp p).txWait = [] → lstate s p ≠ 6 →
      ∃ t, exec (.guestRequest k record data) s = .next t ∧ Quiet s t ∧ (t.gp p).opens = (s.gp p).opens ∧
        spGet 0 t.refused (gpPart s p) = spGet 0 s.refused (gpPart s p) + 1 ∧
        t.sent = s.sent ++
          [⟨.guest, [p, flitOut (s.gp p) [0, mkRec 0x1A (recTxn record) 0 c 0 (recAddr record) (recLen record) 0]]⟩])) ∧
  (∀ (k : Fin 4) (q : GReq) (found : Found) (s : State),
    let p := k.val
    let a := recAddr q.record
    (s.gp p).opens = [q] → q.gone = false → q.dead = false →
    (∀ h, accessOk s p (recOpc q.record) a = true → homeOf s a = some h →
      (nodeFailed s h = false → creditLeft s h (creditHolder (.guest k)) = true →
        ∃ t, exec (.guestRequestDispatch k 0 found) s = .next t ∧ (t.gp p).opens = [{ q with gone := true }]) ∧
      (nodeFailed s h = false → creditLeft s h (creditHolder (.guest k)) = false →
        exec (.guestRequestDispatch k 0 found) s = .next s)) ∧
    (accessOk s p (recOpc q.record) a = false ∨ (∃ h, homeOf s a = some h ∧ nodeFailed s h = true) →
      ∃ t, exec (.guestRequestDispatch k 0 found) s = .next t ∧ Quiet s t ∧
        (t.gp p).opens = if recOpc q.record ≤ 3 then [{ q with gone := true, answered := true }] else [])) ∧
  (∀ (pu : Fin 60) (s : State) (k : Nat),
    let n := pu.val
    k < 4 → unreachable s k = false → lstate s k ≠ 6 → 0 < (s.gp k).devCrd →
    (∀ d, (s.pu n).devLoad = some d → d.sent = false → outPort s (pswPart (s.pu n).psw) d.abs = some k →
      ∃ t, exec (.drd pu) s = .next t ∧ Quiet s t ∧ (t.pu n).devLoad = some { d with sent := true } ∧
        (t.gp k).devCrd = (s.gp k).devCrd - 1 ∧
        (t.gp k).devs = (s.gp k).devs ++ [{ txn := (portTxn s k).1, pu := n, write := false, abs := d.abs, len := d.len }]) ∧
    (∀ e bad, nextEntry (s.pu n).mb = some e → e.device = true → inWindow e.line = false → (s.pu n).unitHold = [] →
      outPort s e.part e.line = some k →
      ∃ t, exec (.dwr ⟨pu, bad⟩) s = .next t ∧ Quiet s t ∧ (bad = true → (t.pu n).mcExt.isSome = true) ∧
        (t.pu n).mb = replaceEntry (some { e with phase := .sent (devTimeout s e.part) }) (s.pu n).mb ∧
        (t.gp k).devs = (s.gp k).devs ++ [{ txn := (portTxn s k).1, pu := n, write := true, abs := e.line, len := e.len }])) ∧
  (∀ (k : Fin 4) (record : BitVec 128) (data : List Word) (s : State) (d : GDev),
    4 ≤ lstate s k.val → (s.gp k.val).devs = [d] → d.txn = recTxn record → devWaits s d = true → bit (recSt record) 0 = false →
    ∃ t, exec (.drsp k record data) s = .next t ∧ Quiet s t ∧ (t.gp k.val).devs = [] ∧
      (d.write = false → (t.pu d.pu).devLoad = none ∧ ∀ e ∈ (t.pu d.pu).latch, e.kind = .deviceRead → e.resp ≠ none) ∧
      (d.write = true → (s.pu d.pu).unitHold = [] → (t.pu d.pu).mb = endStore d.abs none (s.pu d.pu).mb))

/-- A held start becomes active on the engine with the fewest exchanges (R301); its CCEs are fetched and checked (R303, R304); its
ending or progress is stored with one I/O interruption (R318, R320, R322); its timer halts it (R319), and the loss of every path
ends it with UNCERT (R327). The commit ring gives up its oldest start (R324), and a start that no copy holds ends with STATELOST
(R329). The model's own readings here: log entries 105, 107, 109. -/
def Obligations.Starts_run_and_end : Prop :=
  ∀ (ioq : Fin 262144) (s : State),
    let q := ioq.val
    (∀ x n, nextStart s = some x → pickEngine s = some n → engineLoad s n < 4096 → csState s = 1 →
      ∃ t e, exec .startDispatch s = .next t ∧ Quiet s t ∧ exchOf t x.ioq = some e ∧ e.engine = n ∧
        e.path = firstPath s (ioqGroup s x.ioq) ∧ e.more = true ∧ e.idx = 0) ∧
    (∃ t, exec .journalSpill s = .next t ∧ Quiet s t ∧ t.ring = s.ring.tail ∧ t.starts = s.starts) ∧
    (∀ x kept, s.boot.pwrGood = true → s.boot.ran = true → x.ioq < 262144 → x.xid < 2 ^ 32 → s.starts.find? (fun y => y.ioq == x.ioq && y.xid == x.xid) = some x →
      x.exch = none → x.gone = false → progressOf s x = none → x.user < 2 ^ 32 →
      ∃ t st, exec (.shutterTick [⟨Fin.ofNat 262144 x.ioq, BitVec.ofNat 32 x.xid, kept⟩]) s = exec (.shutterTick []) t ∧ Quiet s t ∧
        t.ring = s.ring.filter (· != (x.ioq, x.xid)) ∧ t.stats = s.stats ++ [st] ∧ st.ioq = x.ioq ∧ st.ending = true ∧ ccsFld t 0x0201000008 15 0 = min (ccsFld s 0x0201000008 15 0 + 1) 0xFFFF ∧
        ∀ w, st.words.head? = some w → bits w.toNat 63 60 = 2 ∧ bits w.toNat 58 58 = 1 ∧ bits w.toNat 55 48 = 0xC ∧
          bits w.toNat 31 0 = if kept then x.user else 0) ∧
    (∀ x e, activeOf s q = some (x, e) →
      (∀ c, e.more = true → e.nxtDone = false → e.halt = none → e.ending = none →
        (e.idx = 0 ∨ guestOwns s ((x.rest.toNat + 16 * (e.idx - 1)) / 64) = false) → readCce s x e.idx = some c →
        (cceErr c (if e.nxt.isEmpty then none else some (cmdClass e.nxt)) = none →
          ∃ t, exec (.cceFetch ioq) s = .next t ∧ Quiet s t ∧
            exchOf t q = some { e with nxt := e.nxt ++ [c], idx := e.idx + 1, nxtDone := !c.chd }) ∧
        (∀ err, e.nxt = [] → cceErr c none = some err →
          ∃ t d, exec (.cceFetch ioq) s = .next t ∧ Quiet s t ∧ (exchOf t q).bind (·.ending) = some d ∧ d.kind = 2 ∧ d.err = err)) ∧
      (∀ d, e.ending = some d → progressOf s x = none → x.gone = false → x.pu.isSome = true →
        ∃ t st, exec (.statusStore ioq) s = .next t ∧ Quiet s t ∧ t.stats = s.stats ++ [st] ∧ st.ioq = q ∧ st.ending = true ∧
          (∀ w, st.words.head? = some w → d.kind < 16 → d.err < 256 → d.devst < 256 → x.user < 2 ^ 32 →
            bits w.toNat 63 60 = d.kind ∧ bits w.toNat 55 48 = d.err) ∧
          t.ioInts = s.ioInts ++ [{ ioq := q, status := s.statSeq }] ∧ ∀ y ∈ t.starts, ¬(y.ioq = q ∧ y.xid = x.xid)) ∧
      (∀ i, e.ending = none → e.progDue = some i → progressOf s x = none → x.gone = false →
        ∃ t st, exec (.statusStore ioq) s = .next t ∧ Quiet s t ∧ t.stats = s.stats ++ [st] ∧ st.ioq = q ∧ st.ending = false ∧
          (exchOf t q).bind (·.progDue) = none) ∧
      (x.tmo ≠ 0 → x.tmo * 1024 < e.ticks → e.halt = none → e.ending = none →
        ∃ t, exec (.startTimerExpiry ioq) s = .next t ∧ Quiet s t ∧
          exchOf t q = some { e with halt := some { clear := false, timed := true, sends := 0, result := none } }) ∧
      (pathless s q e = true → max 1 (ccsFld s 0x0201000000 47 32) * 1024 < e.lost → e.ending = none →
        ∃ t d, exec (.pathLossTimeout ioq) s = .next t ∧ Quiet s t ∧ (exchOf t q).bind (·.ending) = some d ∧ d.kind = 2 ∧
          d.err = 0xB ∧ d.uncert = true))

/-- A failed engine leaves service, a spare takes its exchanges (R326); CSCTL enables the subsystem with a new epoch and disables it
while it holds nothing (R325); a range register waits for its tick, and an empty range is refused (R299). The model's own
readings here: log entry 112. -/
def Obligations.Channel_subsystem_is_configured : Prop :=
  (∀ (engine : Fin 18) (s : State),
    let n := engine.val
    let role (s : State) (k : Nat) := ccsFld s (0x0201000100 + 8 * k) 63 62
    role s n ≠ 2 → ∃ t, exec (.channelEngineFailure engine) s = .next t ∧ Quiet s t ∧ role t n = 2 ∧
      (role s n = 0 → role s 16 = 1 → role t 16 = 0 ∧ ccsFld t (0x0201000100 + 8 * 16) 55 48 = n ∧
        ∀ x ∈ t.starts, ∀ e, x.exch = some e → e.engine ≠ n)) ∧
  (∀ (v : Word) (s : State), modSealed s = false →
    (bit v.toNat 63 = true → csState s = 0 → journalOk s = true →
      ∃ t, exec (.csctlEnable v) s = .next t ∧ Quiet s t ∧ ccsFld t 0x0201000000 63 63 = 1 ∧ csState t ≠ 0 ∧
        ccsFld t 0x0201000000 47 32 = bits v.toNat 47 32 ∧ t.epoch = todMid s ∧ t.xidNext = []) ∧
    (bit v.toNat 63 = true → csState s = 0 → journalOk s = false →
      ∃ t, exec (.csctlEnable v) s = .next t ∧ Quiet s t ∧ csState t = 0 ∧ ccsFld t 0x0201000008 55 48 = 2) ∧
    (bit v.toNat 63 = false → csState s ≠ 0 → s.starts = [] → (∀ y ∈ s.stats, y.ending = false) →
      ∃ t, exec (.csctlEnable v) s = .next t ∧ Quiet s t ∧ csState t = 0 ∧ ccsFld t 0x0201000000 63 63 = 0)) ∧
  (∀ (p : Fin 32) (r : Fin 64) (v : Word) (s : State),
    let a := partReg p.val (0x800 + 8 * r.val)
    partSealed s p.val = false →
    (bit v.toNat 63 = false → heldIoqs s = [] → ∃ t, exec (.pioqrWrite p r v) s = .next t ∧ Quiet s t ∧
      ccsGet t a = v &&& 0x8003FFFF0001FFFF ∧ ∀ b, inForce t b = inForce s b) ∧
    (bit v.toNat 63 = true → bits v.toNat 16 0 = 0 → ∃ t, exec (.pioqrWrite p r v) s = .next t ∧ Quiet s t ∧
      ccsGet t a = ccsGet s a ∧ ccsFld t 0x0201000008 61 61 = 1))

/-- Channel ports and pairs: link up and down (R330, R340), priority flow control (R331), neighbours (R332), LOGIN and ECHO with
their answers (R339, R340), and the checks of a received frame (R335). The model's own readings here: log entries 111, 113, 154. -/
def Obligations.Ports_and_pairs : Prop :=
  ∀ (port : Fin 16) (cu : Fin 4096) (s : State),
    let p := port.val
    let key := 4096 * p + cu.val
    let a := chpReg p 0x28
    (ccsFld s (chpReg p 0) 63 63 = 1 → ∃ t, exec (.channelPortLinkUp port) s = .next t ∧ Quiet s t ∧ chpLink t p = true) ∧
    (∃ t, exec (.channelPortLinkDown port) s = .next t ∧ Quiet s t ∧ chpLink t p = false ∧ (t.pair key).oper = false) ∧
    (∃ t, exec (.pfcPauseExpiry port) s = .next t ∧ Quiet s t ∧ chpPaused t p = false) ∧
    (chpLink s p = true →
      (∀ level : BitVec 22, 3 * 2 ^ 19 ≤ level.toNat → ∃ t, exec (.pfcPause port level) s = .next t ∧ Quiet s t ∧
        ccsFld t a 61 61 = 1 ∧ t.sent.length = s.sent.length + 1) ∧
      (∀ level : BitVec 22, ccsFld s a 61 61 = 1 → level.toNat ≤ 2 ^ 20 → ∃ t, exec (.pfcPause port level) s = .next t ∧ Quiet s t ∧
        ccsFld t a 61 61 = 0 ∧ t.sent.length = s.sent.length + 1) ∧
      (∀ enable quanta, enable.getLsbD 3 = true → ∃ t, exec (.pfcFrameReceive port enable quanta) s = .next t ∧ Quiet s t ∧
        chpPaused t p = decide (quanta ≠ 0)) ∧
      (∀ target asker, target.toNat = chpIp s p → ∃ t, exec (.neighborSolicitation port target asker) s = .next t ∧ Quiet s t ∧
        t.sent = s.sent ++ [⟨.neighbor, [p, target.toNat, ccsFld s (chpReg p 8) 47 0, asker.toNat]⟩]) ∧
      (∀ f, frameType f = 0x02 → (s.pair key).login.isSome = true →
        ∃ t, exec (.loginacc port cu f) s = .next t ∧ Quiet s t ∧ (t.pair key).oper = decide (frameArg f / 256 = 0)) ∧
      (∀ f v, frameType f = 0x04 → (s.pair key).oper = true → (s.pair key).echo = some v → ofBE (f.data.take 8) = v →
        if echoInTime s key v = false then exec (.echorep port cu f) s = .next s else ∃ t, exec (.echorep port cu f) s = .next t ∧ Quiet s t ∧ (t.pair key).echo = none ∧ (t.pair key).misses = 0 ∧
          ccsFld t a 31 0 = ((todMid s).toNat + 2 ^ 64 - v) % 2 ^ 32) ∧
      (∀ b fcs, checkFrame s p b fcs = .error .bad → ∃ t, exec (.channelFrameReceive port b fcs) s = .next t ∧ Quiet s t ∧
        t.starts = s.starts ∧ ccsFld t (chpReg p 0x30) 15 0 = min (ccsFld s (chpReg p 0x30) 15 0 + 1) 0xFFFF) ∧
      (∀ b fcs c f t, checkFrame s p b fcs = .ok (c, f) → frameIn s p c f = some t →
        exec (.channelFrameReceive port b fcs) s = .next t)) ∧
    (pairUsed s key = true → ccsFld s (cuReg cu.val 0x10) 63 63 = 1 → (s.pair key).oper = false → (s.pair key).login = none →
      mayLeave s key 0x01 = true →
      ∃ t, exec (.login port cu) s = .next t ∧ Quiet s t ∧ (t.pair key).login = some 0 ∧ t.sent.length = s.sent.length + 1) ∧
    ((s.pair key).oper = true → (s.pair key).echo = none → mayLeave s key 0x03 = true →
      ∃ t, exec (.echo port cu) s = .next t ∧ Quiet s t ∧ (t.pair key).echo = some (todMid s).toNat ∧
        t.sent.length = s.sent.length + 1) ∧
    ((s.pair key).echo.isSome = true →
      ∃ t, exec (.echoTimeout port cu) s = .next t ∧ Quiet s t ∧ (t.pair key).echo = none ∧
        (t.pair key).oper = (if 2 ≤ (s.pair key).misses then false else (s.pair key).oper) ∧
        (t.pair key).misses = if 2 ≤ (s.pair key).misses then 0 else (s.pair key).misses + 1)

/-- Frames that an exchange sends (R343 to R347): each leaves on the exchange's path when it may, a sequenced one is kept until an
ACK covers it, and memory and the PUs are untouched. The model's own readings here: log entries 105, 107, 145. -/
def Obligations.Frames_an_exchange_sends : Prop :=
  ∀ (ioq : Fin 262144) (s : State) (x : Start) (e : Exch) (k : Nat),
    let q := ioq.val
    let sent (j : Instr) (out : Exch → Prop) : Prop :=
      ∃ t e', exec j s = .next t ∧ Quiet s t ∧ t.sent.length = s.sent.length + 1 ∧ exchOf t q = some e' ∧ out e'
    activeOf s q = some (x, e) → exchPair s x e = some k → e.ending = none →
    (e.halt = none → e.out.length < 64 → e.moved = false →
      (∀ c l, e.nxt.head? = some c → e.nxt.getLast? = some l → e.more = true → e.nxtDone = true → e.nxtStop = none →
        mayLeave s k 0x10 = true →
        sent (.cmdFrame ioq) (fun e' => e'.cur = e.nxt ∧ e'.more = false ∧ e'.nxt = [] ∧ e'.txSeq = seqAdd e.txSeq 1 ∧
          e'.out = e.out ++ [⟨e.txSeq, 0x10, c.cmd * 256 + b2n l.chc * 128 + b2n c.tc * 64, false, [], [], e.rxSeq⟩])) ∧
      (let stop := min e.limit ((e.off / 8192 + 1) * 8192)
       let g := gather s (ioqPart s x.ioq) e.cur 9000 e.off stop { ents := e.ents, data := [], tags := [], tc := false, stop := none, wait := false }
       cmdClass e.cur = 1 → e.more = false → e.devEnd = none → e.off < e.limit → g.wait = false → g.stop = none → g.data ≠ [] →
        mayLeave s k 0x11 = true →
        sent (.dataFrame (.send ioq)) (fun e' => e'.off = e.off + g.data.length ∧ e'.ents = g.ents ∧ e'.txSeq = seqAdd e.txSeq 1 ∧
          e'.out = e.out ++ [⟨e.txSeq, 0x11, 0, e.off + g.data.length == e.limit, g.data, if g.tc then g.tags else [], e.rxSeq⟩])) ∧
      (∀ st, e.curStop = some st → e.termed = false → e.more = false → e.devEnd = none → st.off ≤ e.off →
        mayLeave s k 0x13 = true →
        sent (.term ioq) (fun e' => e'.termed = true ∧ e'.out = e.out ++ [⟨e.txSeq, 0x13, 0, false, bytesBE 8 st.off, [], e.rxSeq⟩])) ∧
      (∀ f, e.out = [f] → e.expiries + 1 < chpRetry s (k / 4096) → mayLeave s k 0x11 = true →
        sent (.retransmissionTimeout ioq) (fun e' => e'.out = e.out ∧ e'.expiries = e.expiries + 1))) ∧
    (e.moved = false → cmdClass e.cur = 2 → e.ckpts < ccesBelow e.cur e.stored → mayLeave s k 0x12 = true →
      sent (.ckpt ioq) (fun e' => e'.ckpts = e.ckpts + 1)) ∧
    (e.moved = false → e.ackDue = true → mayLeave s k 0x08 = true → sent (.ackDelayExpiry ioq) (fun e' => e'.ackDue = false)) ∧
    (e.resume = true ∨ e.moved = true → e.moved = false ∨ e.out = [] → mayLeave s k 0x16 = true →
      sent (.resumeFrame ioq false) (fun e' => e'.ackDue = false ∧ e'.resume = true ∧ e'.moved = false)) ∧
    (∀ h, e.halt = some h →
      (h.sends = 0 → mayLeave s k (if h.clear then 0x21 else 0x20) = true →
        sent (if h.clear then .clear ioq else .halt ioq) (fun e' => e'.halt = some { h with sends := 1 })) ∧
      (8 ≤ h.sends → h.result = none → ∃ t d, exec (.haltRetransmissionTimeout ioq) s = .next t ∧ Quiet s t ∧
        (exchOf t q).bind (·.ending) = some d ∧ d.uncert = true ∧ d.kind = if h.clear then 4 else 3)) ∧
    (∀ a, s.endacks = [a] → a.ioq = q → mayLeave s (4096 * a.port + a.cu) 0x15 = true →
      ∃ t, exec (.endack ioq) s = .next t ∧ Quiet s t ∧ t.endacks = [] ∧ t.sent.length = s.sent.length + 1)

/-- Frames that an exchange receives (R341, R345, R346): an ACK frees what it covers, data in sequence is stored, CMDEND ends the
command, and the answer of a halt or clear ends the start. The model's own readings here: log entries 106, 110. -/
def Obligations.Frames_an_exchange_receives : Prop :=
  ∀ (port : Fin 16) (cu : Fin 4096) (f : ChanFrame) (s : State) (x : Start) (e : Exch),
    let q := frameIoq f
    chpLink s port.val = true → (s.pair (4096 * port.val + cu.val)).oper = true →
    s.starts.find? (fun x => x.ioq == q && x.xid == frameXid f && x.exch.isSome) = some x → x.exch = some e →
    seqAfter (frameAck f) e.txSeq = false →
    (frameType f = 0x08 → ∃ t, exec (.channelAck port cu f) s = .next t ∧ Quiet s t ∧ exchOf t q = some (e.acked (frameAck f))) ∧
    (frameType f = 0x11 → frameSeq f = e.rxSeq → e.rxCnt % 16 ≠ 15 →
      ∀ s1 e1, takeData s x { e.acked (frameAck f) with resume := false } f.data
        (if bit f.w0.toNat 58 then some f.tags else none) (bit f.w0.toNat 57) = some (s1, e1) →
      ∃ t e', exec (.dataFrame (.receive port cu f)) s = .next t ∧ t.mem = s1.mem ∧ exchOf t q = some e' ∧
        e'.rxSeq = seqAdd e1.rxSeq 1 ∧ e'.off = e.off + f.data.length ∧ e'.stored = e1.stored ∧ e'.ackDue = true ∧
        ∀ n, (t.pu n).arch = (s.pu n).arch) ∧
    (frameType f = 0x14 → frameSeq f = e.rxSeq → e.rxCnt % 16 ≠ 15 → e.more = false → cmdClass e.cur ≠ 2 → e.devEnd = none →
      e.halt = none → e.ending = none → e.curStop = none → (∃ l, e.cur.getLast? = some l ∧ l.chc = false) →
      ofBE (f.data.take 8) = chainTotal e.cur → bit (frameArg f) 7 = false →
      ∃ t d, exec (.cmdend port cu f) s = .next t ∧ Quiet s t ∧ (exchOf t q).bind (·.ending) = some d ∧ d.kind = 1 ∧ d.err = 0 ∧
        d.devst = frameArg f / 256) ∧
    (∀ h, e.halt = some h → e.ending = none → h.result = none → h.sends ≠ 0 → frameArg f % 4 = 0 →
      (frameType f = 0x22 → h.clear = false → ∃ t d, exec (.haltack port cu f) s = .next t ∧ Quiet s t ∧
        (exchOf t q).bind (·.ending) = some d ∧ d.kind = 3 ∧ d.uncert = false) ∧
      (frameType f = 0x23 → h.clear = true → ∃ t d, exec (.clearack port cu f) s = .next t ∧ Quiet s t ∧
        (exchOf t q).bind (·.ending) = some d ∧ d.kind = 4 ∧ d.uncert = false))

/-- The self-tests, holdings and windows of the cluster engines (R362, R365, R381), the ownership of key slots (R369), and the
key-encryption and link-key commands (R368, R383). A key is accepted exactly when RFC 3394 unwraps it, whatever the keys are.
The model's own readings here: log entries 63, 81. -/
def Obligations.Engines_and_keys : Prop :=
  ∀ (e : Fin 12) (p : Fin 32) (cu : Fin 4096) (s : State),
    let n := e.val
    let bel := belReg n 0
    let mu := mutReg n 0
    (belDown s n = true →
      (∃ t, exec (.belcmdTest e true) s = .next t ∧ Quiet s t ∧ belDown t n = false ∧ ccsFld t bel 41 40 = 0 ∧ ccsFld t bel 39 32 = 1) ∧
      ∃ t, exec (.belcmdTest e false) s = .next t ∧ Quiet s t ∧ belDown t n = true ∧ ccsFld t bel 39 32 = 2) ∧
    (mutState s n = 2 →
      (∃ t, exec (.mutcmdTest e true) s = .next t ∧ Quiet s t ∧ mutState t n = (if frozen s then 3 else 0) ∧
        ccsFld t mu 39 32 = 1) ∧
      ∃ t, exec (.mutcmdTest e false) s = .next t ∧ Quiet s t ∧ mutState t n = 2 ∧ ccsFld t mu 39 32 = 2) ∧
    (mutState s n = 1 → ∃ t, exec (.release e) s = .next t ∧ Quiet s t ∧ mutState t n = 0 ∧ mutOwner t n = 0x3F) ∧
    (∀ mute k, k = (if mute = true then 12 + n else n) → (recentChecks s k).length < 4 →
      ∃ t, exec (.engineCheckWindowExpiry e mute) s = .next t ∧ Quiet s t ∧
        ccsFld t (if mute then mu else bel) 41 40 = (recentChecks s k).length ∧ spGet [] t.engTimes k = recentChecks s k) ∧
    (∀ v, (partSealed s p.val = false → (∀ q < 32, q ≠ p.val → v &&& ccsGet s (pkeyown q n) = 0) →
        ∃ t, exec (.pkeyownWrite p e v) s = .next t ∧ Quiet s t ∧ ccsGet t (pkeyown p.val n) = v ∧
          inForce t (pkeyown p.val n) = inForce s (pkeyown p.val n)) ∧
      (∀ q, partSealed s p.val = false → q < 32 → q ≠ p.val → v &&& ccsGet s (pkeyown q n) ≠ 0 →
        ∃ t, exec (.pkeyownWrite p e v) s = .next t ∧ Quiet s t ∧ ccsGet t (pkeyown p.val n) = ccsGet s (pkeyown p.val n) ∧
          ccsFld t mu 60 60 = 1) ∧
      (partSealed s p.val = true → exec (.pkeyownWrite p e v) s = .next s)) ∧
    (∀ j cmd, (j, cmd) ∈ [(Instr.provision, 1), (.kekErase, 2)] →
      (ccsFld s 0x40138 63 63 = 0 → ∃ t b, exec j s = .next t ∧ Quiet s t ∧ ccsFld t 0x40138 63 63 = 1 ∧ t.kekJob = some b ∧
        b.cmd = cmd ∧ b.sel = ccsFld s 0x40100 4 0) ∧
      (ccsFld s 0x40138 63 63 = 1 → ∃ t, exec j s = .next t ∧ Quiet s t ∧ t.kekJob = s.kekJob ∧ ccsFld t 0x40008 60 60 = 1)) ∧
    (∀ j, s.kekJob = some j → j.cut = false → j.sel < 32 →
      let u := keyUnwrap Config.provisionKey (wrapBytes j.wrap)
      (j.cmd = 1 → (partSealed s j.sel = false ∨ spFind s.keks j.sel = none) →
        ∃ t, exec .kekCommandComplete s = .next t ∧ Quiet s t ∧ ccsFld t 0x40138 63 63 = 0 ∧
          ccsFld t 0x40138 55 48 = (if u.isSome then 1 else 2) ∧
          spFind t.keks j.sel = if u.isSome then u else spFind s.keks j.sel) ∧
      (j.cmd = 2 → ∃ t, exec .kekCommandComplete s = .next t ∧ Quiet s t ∧ ccsFld t 0x40138 63 63 = 0 ∧
        ccsFld t 0x40138 55 48 = 1 ∧ spFind t.keks j.sel = none ∧ spFind t.imageKeys j.sel = none ∧
        ∀ f < 12, ∀ k < 64, slotOwner s f k = j.sel → spFind t.slotKeys (64 * f + k) = none)) ∧
    (∀ j cmd, (j, cmd) ∈ [(Instr.linkKeyLoad, 1), (.linkKeyErase, 2)] → ccsFld s 0x0205000040 63 63 = 0 →
      ∃ t b, exec j s = .next t ∧ Quiet s t ∧ ccsFld t 0x0205000040 63 63 = 1 ∧ t.lkJob = some b ∧ b.cmd = cmd ∧
        b.sel = ccsFld s 0x0205000008 11 0) ∧
    (∀ j, s.lkJob = some j → j.cut = false →
      let u := (spFind s.keks 0).bind (fun kek => keyUnwrap kek (wrapBytes j.wrap))
      (j.cmd = 1 → ∃ t, exec .linkKeyCommandComplete s = .next t ∧ Quiet s t ∧
        ccsFld t 0x0205000040 55 48 = (if u.isSome then 1 else 2) ∧ (linkKey t j.sel).cur = (linkKey s j.sel).cur ∧
        (linkKey t j.sel).next = match u with | some k => some (k, 2) | none => (linkKey s j.sel).next) ∧
      (j.cmd = 2 → ∃ t, exec .linkKeyCommandComplete s = .next t ∧ Quiet s t ∧ ccsFld t 0x0205000040 55 48 = 1 ∧
        linkKey t j.sel = noLinkKey)) ∧
    ((linkKey s cu.val).grace = 0 → ∃ t, exec (.linkKeyGraceExpiry cu) s = .next t ∧ Quiet s t ∧ (linkKey t cu.val).prev = none ∧
      (linkKey t cu.val).cur = (linkKey s cu.val).cur)

/-- CUT_TRIGGER: a Cut event reports the highest level of its triggers; level 1 freezes the Mute engines, level 2 erases slot keys
and link keys and locks debug, level 3 erases the key-encryption keys (R385, R386). UNFREEZE ends the freezing once no trigger
lasts (R388). Temperatures out of range make the condition of trigger 3 present (R386, R449); four withheld reseeds set ENT
(R382). The model's own readings here: log entries 75, 76. -/
def Obligations.Cut_events_and_randomness : Prop :=
  ∀ (s : State),
    (∀ (present : BitVec 4) (fire : BitVec 2) (part : Fin 32),
      let m := (present.toNat &&& (0xF ^^^ (ccsFld s 0x40008 53 48 % 16))) ||| fire.toNat * 16
      let l := maskLevel s m
      let by' := if fire.getLsbD 0 then part.val else 0
      m ≠ 0 → ∃ t, exec (.cutTrigger present fire part) s = .next t ∧ Quiet s t ∧ ccsFld t 0x40008 33 32 = l ∧
        ccsFld t 0x40008 21 16 = m ∧ ccsFld t 0x40008 28 24 = by' ∧
        ccsFld t 0x40008 15 0 = min (ccsFld s 0x40008 15 0 + 1) 0xFFFF ∧ ccsGet t 0x40010 = todMid s ∧
        (∀ k ∈ pusOf s 0, (t.pu k).cutEv = (s.pu k).cutEv ++ [BitVec.ofNat 64 (m * 2 ^ 16 + l * 2 ^ 8 + by')]) ∧
        (1 ≤ l → frozen t = true ∧ ∀ e < 12, 2 ≤ mutState t e) ∧
        (2 ≤ l → t.slotKeys = [] ∧ t.linkKeys = [] ∧ t.dbg.unlocked = false) ∧ (3 ≤ l → t.keks = [])) ∧
    (frozen s = true → maskLevel s (ccsFld s 0x40008 53 48) = 0 →
      ∃ t, exec .unfreeze s = .next t ∧ Quiet s t ∧ frozen t = false ∧ cutLow t = false ∧
        (∀ e < 12, mutState t e = if mutState s e = 3 then 0 else mutState s e) ∧
        (∀ hi lo, (hi, lo) ∈ [(63, 62), (61, 60)] → ccsFld t 0x0205000000 hi lo =
          if ccsFld s 0x0205000000 hi lo = 3 then 0 else ccsFld s 0x0205000000 hi lo) ∧
        t.slotKeys = s.slotKeys ∧ t.linkKeys = s.linkKeys ∧ t.keks = s.keks ∧ t.imageKeys = s.imageKeys) ∧
    (frozen s = false ∨ maskLevel s (ccsFld s 0x40008 53 48) ≠ 0 →
      ∃ t, exec .unfreeze s = .next t ∧ Quiet s t ∧ frozen t = frozen s ∧ cutLow t = cutLow s ∧ ccsFld t 0x40008 60 60 = 1) ∧
    (∀ (readings : List (Fin 7 × Int)) (v : Int), s.boot.pwrGood = true → readings.filter (fun r => r.1.val == 6) = [(6, v)] →
      ∃ t, exec (.temperatureSample readings) s = .next t ∧ Quiet s t ∧ ccsFld t 0x0200000000 7 0 = min v.toNat 255 ∧
        ((∃ r ∈ readings, 105 < r.2 ∨ r.2 < -10) → ccsFld t 0x40008 51 51 = 1) ∧
        ((∀ r ∈ readings, 0 ≤ r.2 ∧ r.2 ≤ 100) → ccsFld t 0x40008 51 51 = 0)) ∧
    (∀ (die : Fin 7),
      let ent (s : State) := if die.val = 6 then ccsFld s 0x0205000000 59 59 else ccsFld s (mutReg (2 * die.val) 0) 61 61
      (∃ t, exec (.drbgReseed die true) s = .next t ∧ Quiet s t ∧ ent t = 0 ∧ spGet 0 t.withheld die.val = 0) ∧
      (spGet 0 s.withheld die.val < 3 → ∃ t, exec (.drbgReseed die false) s = .next t ∧ Quiet s t ∧ ent t = ent s ∧
        spGet 0 t.withheld die.val = spGet 0 s.withheld die.val + 1) ∧
      (spGet 0 s.withheld die.val = 3 → ∃ t, exec (.drbgReseed die false) s = .next t ∧ Quiet s t ∧ ent t = 1))

/-- The endpoint's link and resets (R389, R402, R452), configuration space and the MSI-X structures (R390, R391), BAR0 (R392), and
the windows of BAR2 (R394, R395): what each request does and what it is answered with. The model's own readings here: log
entries 5, 87, 90, 151. -/
def Obligations.Endpoint_requests : Prop :=
  ∀ (s : State),
    let answers (t : State) (a : List Nat) : Prop := t.sent = s.sent ++ [⟨.hostCpl, a⟩]
    let rejected (posted : Bool) (t : State) : Prop := Quiet s t ∧
      ccsFld t 0x0203001008 63 48 = min (ccsFld s 0x0203001008 63 48 + 1) 0xFFFF ∧
      if posted then t.sent = s.sent else answers t [1]
    (∀ rate width, s.boot.pwrGood = true → s.boot.resetN = true → s.ep.perst = false →
      ∃ t, exec (.endpointLinkUp rate width) s = .next t ∧ Quiet s t ∧ epUp t = true ∧ ccsFld t 0x0203001000 62 60 = rate.val + 1 ∧
        ccsFld t 0x0203001000 59 57 = 2 ^ width.val) ∧
    (∃ t, exec .endpointLinkDown s = .next t ∧ Quiet s t ∧ epUp t = false) ∧
    (∃ t, exec .sePerst s = .next t ∧ Quiet s t ∧ epUp t = false ∧ t.ep.perst = true ∧ t.ep.cfg = []) ∧
    (∃ t, exec .sePerstRelease s = .next t ∧ Quiet s t ∧ t.ep = { s.ep with perst := false }) ∧
    (∀ w v, (∃ t, exec (.epwinWrite w v) s = .next t ∧ Quiet s t ∧ ccsGet t (epwin w.val) = v &&& 0xC00FFFFFFFF00000 ∧
        inForce t (epwin w.val) = inForce s (epwin w.val)) ∧
      (∀ p, s.pend = [p] → p.addr = epwin w.val → p.ticks = 0 →
        ∃ t, exec .epwinEffect s = .next t ∧ Quiet s t ∧ inForce t (epwin w.val) = ccsGet s (epwin w.val))) ∧
    (epUp s = true →
      (∃ t, exec .functionLevelReset s = .next t ∧ Quiet s t ∧ t.ep.cfg = [] ∧ t.ep.table = [] ∧ ccsGet t 0x0203001018 = 0 ∧
        (∀ w < 8, inForce t (epwin w) = 0) ∧
        ∀ m < 16, slotBusy s m = true → slotBusy t m = false ∧ ccsFld t (mbReg m 0x40) 55 48 = 0x0C) ∧
      (busMaster s = true → ∃ t, exec .busMasterDisable s = .next t ∧ Quiet s t ∧ busMaster t = false)) ∧
    (epUp s = true → s.ep.tlps = [] →
      (∀ posted, ∃ t, exec (.unsupportedRequest posted) s = .next t ∧ rejected posted t) ∧
      (∀ i, ∃ t, exec (.configRequest (.read i)) s = .next t ∧ Quiet s t ∧ answers t [0, (cfgGet s i.val).toNat]) ∧
      (∀ i be v, i.val ≠ 1 → i.val ≠ 0x11 → i.val ≠ 0x1A →
        let m := byteEnables be
        let d : Word := v.setWidth 64
        let rw := cfgRw i.val &&& m
        ∃ t, exec (.configRequest (.write i be v)) s = .next t ∧ Quiet s t ∧ t.sent.getLast? = some ⟨.hostCpl, [0]⟩ ∧
          cfgGet t i.val = ((cfgGet s i.val &&& ~~~rw) ||| (d &&& rw)) &&& ~~~(d &&& m &&& cfgW1c i.val)) ∧
      (∀ i, (memOn s = true → (∃ t, exec (.configRequest (.tableRead i)) s = .next t ∧ Quiet s t ∧
            answers t [0, (msixWord s i.val).toNat]) ∧
          ∀ v, i.val % 2 = 1 → ∃ t, exec (.configRequest (.tableWrite i true true v)) s = .next t ∧ Quiet s t ∧
            msixWord t i.val = (msixWord s i.val &&& 0xFFFFFFFE00000000) ||| (v &&& 0x1FFFFFFFF)) ∧
        (memOn s = false → (∃ t, exec (.configRequest (.tableRead i)) s = .next t ∧ rejected false t) ∧
          ∀ lo hi v, ∃ t, exec (.configRequest (.tableWrite i lo hi v)) s = .next t ∧ rejected true t)) ∧
      (∀ off v, let a := 0x0203000000 + (off : BitVec 16).toNat
        (memOn s = true → (regAt a).isSome = true →
          (∃ t, exec (.bar0Access false off true v) s = .next t ∧ Quiet s t ∧ answers t [0, (ccsReadBy s 1 a).1.toNat]) ∧
          ∀ u, ccsWrite s a v = some u → exec (.bar0Access true off true v) s = .next u) ∧
        (∀ write, memOn s = true → regAt a = none → ∃ t, exec (.bar0Access write off true v) s = .next t ∧ rejected write t) ∧
        (∀ write, ∃ t, exec (.bar0Access write off false v) s = .next t ∧ rejected write t)) ∧
      (∀ (w : Fin 8) (o : BitVec 27) (h : HostWord),
        let e := (inForce s (epwin w.val)).toNat
        let a := bits e 51 20 * 2 ^ 20 + 8 * o.toNat
        memOn s = true →
        (∀ write, bit e 63 = false → ∃ t, exec (.bar2WindowAccess w o write [h]) s = .next t ∧ rejected write t) ∧
        (bit e 63 = true → bit e 62 = false → installed s a = true → h.mask = 0xFF →
          (canOwn s (a / 64) = true → ∃ t, exec (.bar2WindowAccess w o true [h]) s = .next t ∧
            (∀ b, if b = a / 8 then memGet t b = ⟨h.data, tagBytes⟩ else Kept s t b) ∧ (∀ k, (t.pu k).arch = (s.pu k).arch)) ∧
          (canOwn s (a / 64) = false → ∃ t, exec (.bar2WindowAccess w o true [h]) s = .next t ∧ Quiet s t ∧
            t.ep.tlps = [.window (inForce s (epwin w.val)) o.toNat true [h]]) ∧
          (guestOwns s (a / 64) = false → (homeWord s (a / 8)).tag ≠ tagSealed →
            ∃ t, exec (.bar2WindowAccess w o false [h]) s = .next t ∧ Quiet s t ∧
              answers t [if (homeWord s (a / 8)).tag = tagPoison then 8 else 0, (homeWord s (a / 8)).data.toNat]) ∧
          (guestOwns s (a / 64) = false → (homeWord s (a / 8)).tag = tagSealed →
            ∃ t, exec (.bar2WindowAccess w o false [h]) s = .next t ∧ Quiet s t ∧ answers t [4])) ∧
        (bit e 63 = true → bit e 62 = true → h.mask = 0xFF → a < 2 ^ 40 → (regAt a).isSome = true →
          ∃ t, exec (.bar2WindowAccess w o false [h]) s = .next t ∧ Quiet s t ∧ answers t [0, (ccsReadBy s 1 a).1.toNat])))

/-- The mailbox (R396 to R399): a ring makes a free slot BUSY with the next sequence number or ends it with the fault of its
command; RESTART, firmware's commands, COPYIN and COPYOUT with their reads, completions and timeouts (R400), and ABORT (R403 to
R405) end the slot with their status. The model's own readings here: log entries 86, 87, 88. -/
def Obligations.Mailbox_commands : Prop :=
  ∀ (m : Fin 16) (s : State),
    let k := m.val
    let a := mbReg k 0x40
    let ends (t : State) (status : Nat) : Prop := Quiet s t ∧ ccsFld t a 63 62 = 2 ∧ ccsFld t a 55 48 = status
    let len := bits (mbArg s k 2) 31 0
    (epUp s = true → s.ep.tlps = [] →
      (memOn s = true → slotBusy s k = false →
        (mailFault s k = none → ∃ t, exec (.doorbell m true) s = .next t ∧ Quiet s t ∧ slotBusy t k = true ∧
          ccsFld t a 31 0 = ccsFld s 0x0203001030 31 0 ∧ ccsFld t 0x0203001030 31 0 = seqNext (ccsFld s 0x0203001030 31 0) ∧
          t.ep.rung = s.ep.rung ++ [k]) ∧
        (∀ c, mailFault s k = some c → ∃ t, exec (.doorbell m true) s = .next t ∧ ends t c)) ∧
      (memOn s = true → slotBusy s k = true → ∃ t, exec (.doorbell m true) s = .next t ∧ Quiet s t ∧ slotBusy t k = true ∧
        ccsFld t 0x0203001008 15 0 = min (ccsFld s 0x0203001008 15 0 + 1) 0xFFFF) ∧
      (∃ t, exec (.doorbell m false) s = .next t ∧ Quiet s t ∧ t.ep.rung = s.ep.rung ∧
        ccsFld t 0x0203001008 63 48 = min (ccsFld s 0x0203001008 63 48 + 1) 0xFFFF)) ∧
    (∀ n, n < 60 → mbArg s k 0 = n → awaits s k 4 = true →
      (3 ≤ puState s n → puState s n ≤ 5 → ∃ t, exec (.restart m) s = .next t ∧ ends t 0x0A) ∧
      (puState s n ≤ 1 → ∃ t, exec (.restart m) s = .next t ∧ ends t 1 ∧
        (t.pu n).restart = some ((s.pu n).restart.getD 0))) ∧
    (k ∈ s.ep.rung → 0x80 ≤ mbCode s k → ∃ t, exec (.firmwareMessage m) s = .next t ∧ Quiet s t ∧
      t.serv = s.serv ++ [BitVec.ofNat 64 (ccsFld s a 31 0)] ∧ k ∉ t.ep.rung) ∧
    (∀ status, (slotBusy s k = true → 0x80 ≤ mbCode s k → ∃ t, exec (.epfwdone m status) s = .next t ∧ ends t status.toNat) ∧
      (slotBusy s k = false → ∃ t, exec (.epfwdone m status) s = .next t ∧ Quiet s t ∧ slotBusy t k = false ∧
        ccsFld t 0x0203001008 15 0 = min (ccsFld s 0x0203001008 15 0 + 1) 0xFFFF)) ∧
    (∃ t, exec .epattnset s = .next t ∧ Quiet s t ∧ ccsFld t 0x0203001018 0 0 = 1) ∧
    (awaits s k 2 = true → s.ep.copies = [] → s.ep.reads = [] → busMaster s = true → len ≠ 0 →
      ∃ t rest, exec (.copyin m) s = .next t ∧ Quiet s t ∧
        t.sent = s.sent ++ ⟨.hostRead, [0, mbArg s k 0, requestLen (maxRead s) (mbArg s k 0) len]⟩ :: rest) ∧
    (awaits s k 3 = true → s.ep.copies = [] → busMaster s = true → len ≠ 0 →
      ∀ ws stop, copyWords s (requestLen (maxPayload s) (mbArg s k 0) len / 8) (mbArg s k 1) = (ws, stop) → ws ≠ [] →
      ∃ t rest, exec (.copyout m) s = .next t ∧ Quiet s t ∧ t.sent = s.sent ++ ⟨.hostWrite, mbArg s k 0 :: ws⟩ :: rest ∧
        (stop = some true → ends t 9 ∧ ccsGet t (mbReg k 0x48) = BitVec.ofNat 64 (8 * ws.length))) ∧
    (∀ (r : HostRead) (c : Copy), s.ep.reads = [r] → r.tag < 1024 → r.slot = some k → r.gone = false → s.ep.copies = [c] →
      c.slot = k → c.out = false → c.held = [] →
      (epUp s = true → r.off = c.done → r.left = 8 → canOwn s ((c.addr + c.done) / 64) = true →
        ∀ w, ∃ t, exec (.hostCompletion (BitVec.ofNat 10 r.tag) 0 false [w]) s = .next t ∧ t.ep.reads = [] ∧
          (∀ b, if b = (c.addr + c.done) / 8 then memGet t b = ⟨w, c.tag⟩ else Kept s t b) ∧
          (∀ n, (t.pu n).arch = (s.pu n).arch) ∧
          (c.done + 8 = c.len → ccsFld t a 63 62 = 2 ∧ ccsFld t a 55 48 = 1 ∧ ccsGet t (mbReg k 0x48) = BitVec.ofNat 64 c.len)) ∧
      (epUp s = true → ∀ status ep data, (status ≠ 0 ∨ ep = true) →
        ∃ t, exec (.hostCompletion (BitVec.ofNat 10 r.tag) status ep data) s = .next t ∧ ends t 8) ∧
      (bit (cfgGet s 0x22).toNat 4 = false →
        ∃ t, exec (.completionTimeout (BitVec.ofNat 10 r.tag)) s = .next t ∧ ends t 7 ∧ t.ep.reads = [])) ∧
    (∀ j kind, (j, kind) ∈ [(Instr.abortPu m, 1), (.abortIoq m, 2), (.abortChannelEngine m, 3), (.abortBellows m, 4),
        (.abortMute m, 5)] → awaits s k 1 = true → bits (mbArg s k 0) 63 56 = kind → s.ep.aborts = [] →
      (32 ≤ s.ep.abortCnt → exec j s = .next s) ∧ (s.ep.abortCnt < 32 →
      let n := bits (mbArg s k 0) 17 0
      let x := abortAct s kind n
      (∃ t, exec j s = .next t ∧ Quiet s t ∧ t.ep.rung = s.ep.rung.filter (· != k) ∧ t.ep.abortCnt = s.ep.abortCnt + 1 ∧
        t.ep.aborts = [{ slot := k, kind := kind, target := n, status := x.2.2.1, res0 := x.2.1, res1 := x.2.2.2 }]) ∧
      (kind = 1 → n < 60 → puLocked s n = false → puState s n = 1 →
        x.2.2.1 = 1 ∧ puState x.1 n = 2 ∧ (x.1.pu n).restart = none ∧ (x.1.pu n).latch.all (fun e => !(e.kind == .engine && e.resp.isNone))))) ∧
    (∀ j, s.ep.aborts = [j] → j.slot = k → j.kind ≠ 2 → j.status < 256 →
      ∃ t, exec (.abortComplete m) s = .next t ∧ ends t j.status ∧ t.ep.aborts = [] ∧ ccsGet t (mbReg k 0x48) = j.res0 ∧
        ccsGet t (mbReg k 0x50) = j.res1)

/-- TOD (R406 to R416): its advance at a tick and the seconds setting; the writes of TODSET, TODCTL and TODSTEER; an edge of PPS_IN,
its judgement, the servo of an accepted pulse, a window that closes with none; the step; the timing outputs and the clock
comparator. The model's own readings here: log entries 58, 59. -/
def Obligations.Time_of_day : Prop :=
  ∀ (s : State),
    let fld (s : State) (hi lo : Nat) := ccsFld s todstat hi lo
    (s.boot.pwrGood = true → s.boot.ran = true → s.clock.step = none → s.clock.steer = none → s.clock.servo = none →
      let x := (s.tod + (s.clock.rem + todGain s) / 10 ^ 6) % 2 ^ 128
      (∀ lost, s.clock.set = none → ∃ t, exec (.shutterTick lost) s = .next t ∧ t.tod = x ∧
        t.clock.rem = (s.clock.rem + todGain s) % 10 ^ 6) ∧
      (∀ lost v, s.clock.set = some v → x / 2 ^ 64 < v → ∃ t, exec (.shutterTick lost) s = .next t ∧ t.tod = v * 2 ^ 64 + x % 2 ^ 64 ∧
        fld t 60 59 = 2)) ∧
    (∀ v : Word, ∃ t, exec (.todset v) s = .next t ∧ Quiet s t ∧ t.clock.set = some v.toNat ∧ fld t 60 59 = 1) ∧
    (∀ v : Word,
      let per := bits v.toNat 51 32
      let ok := per ≠ 0 ∧ 1000000 % per = 0 ∧ bits v.toNat 31 16 ≠ 0 ∧ bits v.toNat 15 0 ≠ 0 ∧ bits v.toNat 15 0 ≤ 999
      (ok → ∃ t, exec (.todctlWrite v) s = .next t ∧ Quiet s t ∧ ccsGet t todctl = v &&& 0xE00FFFFFFFFFFFFF ∧
        inForce t todctl = inForce s todctl) ∧
      (¬ok → ∃ t, exec (.todctlWrite v) s = .next t ∧ Quiet s t ∧ ccsGet t todctl = ccsGet s todctl ∧ fld t 58 58 = 1)) ∧
    (∀ v : Word,
      (forceFld s todctl 63 63 = 0 → ∃ t, exec (.todsteerWrite v) s = .next t ∧ Quiet s t ∧
        t.clock.steer = some (bits v.toNat 31 0)) ∧
      (forceFld s todctl 63 63 = 1 → ∃ t, exec (.todsteerWrite v) s = .next t ∧ Quiet s t ∧ t.clock = s.clock ∧ fld t 58 58 = 1)) ∧
    (s.boot.pwrGood = true → ∀ k, ∃ t, exec (.ppsEdge k) s = .next t ∧ Quiet s t ∧
      t.clock.pulse = some { tod := todAt s k.val 32000, e := ppsError (todAt s k.val 32000) } ∧
      fld t 31 16 = min (fld s 31 16 + b2n s.clock.pulse.isSome) 0xFFFF) ∧
    (∀ p, s.clock.pulse = some p →
      (∃ t, exec (.ppsPulseAccept false) s = .next t ∧ Quiet s t ∧ t.clock.pulse = none ∧ fld t 31 16 = min (fld s 31 16 + 1) 0xFFFF ∧
        ccsGet t toderr = ccsGet s toderr) ∧
      (todState s = 0 → ∃ t, exec (.ppsPulseAccept true) s = .next t ∧ Quiet s t ∧ ccsFld t toderr 31 0 = clamp32 p.e ∧
        t.clock = { s.clock with pulse := none }) ∧
      (todState s = 1 → s.clock.cands = [] → ∃ t, exec (.ppsPulseAccept true) s = .next t ∧ Quiet s t ∧ todState t = 1 ∧
        t.clock.cands = [p.tod]) ∧
      (todState s = 1 → ∀ c, s.clock.cands = [c] → p.tod = c + 2 ^ 64 →
        ∃ t, exec (.ppsPulseAccept true) s = .next t ∧ Quiet s t ∧ todState t = 2 ∧ t.clock.cands = [] ∧
          (inWin s p.e = true → t.clock.step = s.clock.step) ∧
          (inWin s p.e = false → t.clock.step = some ((2 ^ 64 - p.tod % 2 ^ 64) % 2 ^ 64, false))) ∧
      (2 ≤ todState s → inWin s p.e = true → s.clock.accSec ≠ some (nearSec p.tod) →
        let freq := signed32 (clamp32 (signed32 (ccsFld s todsteer 63 32) - roundDiv (p.e * 2 ^ 48) (64 * 32000000000)))
        ∃ t, exec (.ppsPulseAccept true) s = .next t ∧ Quiet s t ∧ todState t = 2 ∧ ccsFld t toderr 31 0 = clamp32 p.e ∧
          ccsFld t toderr 63 32 = min (ccsFld s toderr 63 32 + 1) 0xFFFFFFFF ∧ t.clock.accSec = some (nearSec p.tod) ∧
          t.clock.servo = some (clamp32 freq, clamp32 (freq - roundDiv (p.e * 2 ^ 48) (4 * 32000000000)))) ∧
      (2 ≤ todState s → inWin s p.e = false → ∃ t, exec (.ppsPulseAccept true) s = .next t ∧ Quiet s t ∧ todState t = todState s ∧
        t.clock.servo = s.clock.servo ∧ fld t 31 16 = min (fld s 31 16 + 1) 0xFFFF)) ∧
    (s.clock.pulse = none → s.clock.closed + 1 ≤ passedSec s →
      (todState s = 2 → s.clock.accSec ≠ some (s.clock.closed + 1) → ∃ t, exec .ppsWindowClose s = .next t ∧ Quiet s t ∧
        todState t = 3 ∧ fld t 47 32 = min (fld s 47 32 + 1) 0xFFFF ∧ ccsFld t todsteer 31 0 = ccsFld s todsteer 63 32) ∧
      (todState s = 3 → s.clock.accSec ≠ some (s.clock.closed + 1) → ∃ t, exec .ppsWindowClose s = .next t ∧ Quiet s t ∧
        todState t = if 15 ≤ s.clock.misses then 1 else 3) ∧
      (2 ≤ todState s → s.clock.accSec = some (s.clock.closed + 1) →
        exec .ppsWindowClose s = .next { s with clock := { s.clock with closed := s.clock.closed + 1 } })) ∧
    (∀ u, s.clock.step = some (u, true) → s.clock.set = none →
      ∃ t, exec .todStep s = .next t ∧ Quiet s t ∧ t.tod = (s.tod + u) % 2 ^ 128 ∧ fld t 15 0 = min (fld s 15 0 + 1) 0xFFFF ∧
        t.clock.step = none) ∧
    (∀ k : Fin 4096,
      let w := (inForce s todctl).toNat
      let x := todAt s k.val 4096 % 2 ^ 64
      ∃ t, exec (.timingOutputEdge k) s = .next t ∧ Quiet s t ∧ (bit w 61 = false → t.clock.syncOut = false) ∧
        (t.clock.ppsOut = true ↔ bit w 62 = true ∧ x < bits w 15 0 * 2 ^ 64 / 1000 ∧
          (s.clock.ppsOut = true ∨ x < 4503599628))) ∧
    (∀ pu : Fin 60, ∃ t, exec (.clockComparator pu) s = .next t ∧ Quiet s t ∧ (t.pu pu.val).clkPend = clockDue s pu.val)

/-- PWRGOOD and RESET_N (R417, R418): power-up and a fall of PWRGOOD leave every state at its power-up value; a low RESET_N, and
SYSRESET, begin a system reset, which keeps memory, time of day and keys (R430); a rise of RESET_N lets the sequence go on
(R419), and the write-back of the caches ends it. The model's own readings here: log entries 3, 65, 66. -/
def Obligations.Power_up_and_system_reset : Prop :=
  ∀ (s : State),
    (∀ j good, (j = .pwrgoodRise ∧ s.boot.pwrGood = false ∧ good = true) ∨ (j = .pwrgoodFall ∧ s.boot.pwrGood = true ∧ good = false) →
      ∃ t, exec j s = .next t ∧ t.boot.pwrGood = good ∧ (∀ a, ccsGet t a = regDefault a) ∧ (∀ a, memGet t a = ⟨0, tagUninit⟩) ∧
        (∀ n, t.pu n = Pu.reset) ∧ t.pending = s.pending) ∧
    (Canonical s → ∀ j kind, (j = .resetNLow ∧ s.boot.resetN = true ∧ s.boot.pwrGood = true ∧ kind = 1) ∨
        (j = .sysreset ∧ kind = 2) →
      ∃ t, exec j s = .next t ∧ (∀ a, Kept s t a) ∧ (∀ n, (t.pu n).arch = Pu.reset.arch) ∧ t.tod = s.tod ∧ t.keks = s.keks ∧
        shCount t = shCount s ∧ ccsFld t 0x1008 59 58 = kind ∧ phase t = 1 ∧ modSealed t = false ∧
        frozen t = frozen s ∧ (∀ n < 60, puState t n = 0 ∧ puPart t n = 0) ∧ t.starts = [] ∧ t.images = [] ∧
        (kind = 2 → ∀ m < 16, slotBusy s m = true → slotBusy t m = false ∧ ccsFld t (mbReg m 0x40) 55 48 = 0x0C)) ∧
    (∃ t, exec .resetNRise s = .next t ∧ Quiet s t ∧ t.boot.resetN = true ∧ t.boot.ran = (s.boot.ran || s.boot.pwrGood) ∧
      t.dbg.extest = false) ∧
    (s.boot.wb = true → ∃ t, exec .systemResetWritebackComplete s = .next t ∧ t.mem = s.mem ∧ t.boot.wb = false ∧ t.dir = [] ∧
      t.l3 = [])

/-- The steps of the power-up sequence with triad formation (R189, R419, R424), sealing (R429), and a PU's assignment to a
partition, which resets its architected state (R42, R426). The model's own readings here: log entries 67, 73, 74. -/
def Obligations.Power_up_sequence_and_partitions : Prop :=
  ∀ (s : State),
    (bootGoes s 1 = true → ∀ dies a b node lk links,
      let fail := if a = false ∨ b = false then 1 else if node = false then 2 else if lk = false then 3 else 0
      ∃ t, exec (.arraysComplete dies a b node lk links) s = .next t ∧ phase t = (if fail = 0 then 2 else 1) ∧
        (fail ≠ 0 → ccsFld t 0x1008 7 0 = fail) ∧
        ∀ n < 60, (dies.getLsbD (n / 10) = false ∨ links.getLsbD (n / 10) = false) → puState t n = 4) ∧
    (bootGoes s 2 = true → ∀ chans, ∃ t, exec (.memoryTrainingComplete chans) s = .next t ∧
      phase t = (if ccsFld s 0x1008 57 57 = 1 then 5 else 3) ∧ t.mem = (if ccsFld s 0x1008 59 58 = 0 then [] else s.mem) ∧
      t.pus = s.pus) ∧
    (bootGoes s 5 = true → ∀ r1 r2, ∃ t, exec (.selftestComplete r1 r2) s = .next t ∧ phase t = 7 ∧
      ∀ d < 6, dieFenced s d = false → (∀ c < 34, coreGood r1.toNat r2.toNat d c = true) →
        sifree t d = 15 ∧ ∀ k < 10, puState t (10 * d + k) = 0 ∧ puMode t (10 * d + k) = 0 ∧ puPart t (10 * d + k) = 0) ∧
    (∃ t, exec .moduleSeal s = .next t ∧ Quiet s t ∧ modSealed t = true) ∧
    (∀ p : Fin 32, (modSealed s = true → ∃ t, exec (.partitionSeal p) s = .next t ∧ Quiet s t ∧ partSealed t p.val = true) ∧
      (modSealed s = false → exec (.partitionSeal p) s = .next s)) ∧
    (∀ (pu : Fin 60) (p : Fin 32),
      ((puState s pu.val = 0 ∨ puState s pu.val = 2) → (p.val = 0 ∨ s.boot.fwPu ≠ some pu.val) →
        ∃ t, exec (.pupartWrite pu p) s = .next t ∧ t.mem = s.mem ∧ puPart t pu.val = p.val ∧
          puState t pu.val = (if p.val = 0 then 0 else 2) ∧ (t.pu pu.val).arch = Pu.reset.arch ∧
          ∀ n, n ≠ pu.val → (t.pu n).arch = (s.pu n).arch) ∧
      (puState s pu.val ≠ 0 → puState s pu.val ≠ 2 → exec (.pupartWrite pu p) s = .next s))

/-- The boot commands (R420 to R422, R427, R428): LOADMC, STARTFW, IPLCHAN, IPLMEM and the partition reset begin, run and end with
their status; a PU starts with its PREFIX, PSW and a cleared area. The model's own readings here: log entries 68, 69, 70, 71,
72, 152. -/
def Obligations.Boot_commands : Prop :=
  ∀ (s : State),
    let ends (t : State) (status : Nat) : Prop := ccsFld t 0x1028 63 63 = 0 ∧ ccsFld t 0x1028 55 48 = status ∧ t.boot.job = none
    let starts (t : State) (n base : Nat) (psw : BitVec 128) : Prop := ends t 1 ∧ puState t n = 1 ∧ (t.pu n).psw = psw ∧
      (t.pu n).pfxArea = BitVec.ofNat 64 base ∧ (∀ k, k ≠ n → (t.pu k).arch = (s.pu k).arch) ∧
      ∀ a, if base / 8 ≤ a ∧ a < base / 8 + 1024 ∧ installed s (8 * a) = true then memGet t a = ⟨0, tagInt⟩ else Kept s t a
    (s.boot.job.isSome = true → ∀ (pu : BitVec 6) (p : Fin 32), ∀ j ∈ [Instr.loadmc, .startfw pu, .iplchan pu p, .iplmem pu p, .preset p],
      ∃ t, exec j s = .next t ∧ Quiet s t ∧ t.boot = s.boot ∧ ccsFld t 0x1028 62 62 = 1) ∧
    (∀ v ws, s.boot.job = some (.loadmc v ws) → v < 2 ^ 16 → ∃ t, exec .loadmcComplete s = .next t ∧ Quiet s t ∧ ends t 1 ∧
      phase t = 5 ∧ ccsFld t 0x1008 57 57 = 1 ∧ ccsFld t 0x1008 47 32 = v ∧ t.micro = ws) ∧
    (s.boot.job = none →
      (phase s ≠ 3 → phase s ≠ 7 → ∃ t, exec .loadmc s = .next t ∧ Quiet s t ∧ ends t 3 ∧ phase t = phase s) ∧
      (∀ ws, phase s = 3 ∨ phase s = 7 → bootAddr s % 8 = 0 → readWords s (bootAddr s) (8 + 24576) = some ws →
        let ds := ws.map (·.data)
        let w1 := (ds.getD 1 0).toNat
        ds.headD 0 = 0xB1C75E2781004100 → bits w1 63 56 = 1 → bits w1 14 0 = 24576 →
        rangeHeld s (bootAddr s) (8 * (8 + 24576)) = false →
        ∃ t, exec .loadmc s = .next t ∧ Quiet s t ∧
          if imageTag Config.microcodeKey ds = ownTag ds then
            phase t = 4 ∧ t.boot.job = some (.loadmc (bits w1 47 32) (tableFrom 0 (ds.drop 8)))
          else ends t 0x1C) ∧
      (∀ (pu : BitVec 6) hs body,
        let n := pu.toNat
        let a := bootAddr s
        let w (i : Nat) : Nat := (hs.getD i uninitWord).data.toNat
        let psw : BitVec 128 := BitVec.ofNat 128 (w 4 * 2 ^ 64 + w 5)
        phase s = 7 → n < 60 → puState s n = 0 → 8192 ≤ a → a % 8192 = 0 → readWords s a 8 = some hs → rangeHeld s a (max 64 (w 2)) = false →
        readWords s (a + 0x40) ((w 2 - 0x40) / 8) = some body → w 0 = 0xB1C75E2781004100 → bits (w 1) 63 56 = 3 → w 2 % 8 = 0 →
        0x40 ≤ w 2 → w 2 ≤ 2 ^ 30 → w 3 = (crc32c (wordBytes (body.map (·.data)))).toNat → pswValid psw 0 = true → pswPL psw = 0 →
        pswT psw = false →
        (startReady s (a - 8192) = true →
          ∃ t, exec (.startfw pu) s = .next t ∧ starts t n (a - 8192) psw ∧ phase t = 8 ∧ t.boot.fwPu = some n) ∧
        (startReady s (a - 8192) = false → ∃ t, exec (.startfw pu) s = .next t ∧ Quiet s t ∧ t.boot.job = some (.held 2 n 0) ∧
          ccsFld t 0x1028 63 63 = 1)) ∧
      (∀ (pu : BitVec 6) (p : Fin 32),
        (∀ c, iplFault s pu.toNat p.val = some c → ∀ j ∈ [Instr.iplchan pu p, .iplmem pu p],
          ∃ t, exec j s = .next t ∧ Quiet s t ∧ ends t c) ∧
        (∀ x y, iplFault s pu.toNat p.val = none → rangeHeld s (iplBase s p.val + 0x2000) 16 = false → readWords s (iplBase s p.val + 0x2000) 2 = some [x, y] →
          (x.tag = tagInt ∨ x.tag = tagBytes) → (y.tag = tagInt ∨ y.tag = tagBytes) →
          let psw : BitVec 128 := x.data ++ y.data
          pswPL psw = 1 → pswPart psw = p.val → pswValid psw p.val = true →
          (startReady s (iplBase s p.val) = true →
            ∃ t, exec (.iplmem pu p) s = .next t ∧ starts t pu.toNat (iplBase s p.val) psw) ∧
          (startReady s (iplBase s p.val) = false → ∃ t, exec (.iplmem pu p) s = .next t ∧ Quiet s t ∧
            t.boot.job = some (.held 4 pu.toNat p.val) ∧ ccsFld t 0x1028 63 63 = 1)) ∧
        (iplFault s pu.toNat p.val = none →
          let q := (ccsGet s 0x1020).toNat
          (ioqReady s p.val q = false → ∃ t, exec (.iplchan pu p) s = .next t ∧ Quiet s t ∧ ends t 8) ∧
          (ioqReady s p.val q = true → ∃ t, exec (.iplchan pu p) s = .next t ∧ Quiet s t ∧
            t.boot.job = some (.ipl pu.toNat p.val q (spGet 0 s.xidNext q)) ∧ ccsFld t 0x1028 63 63 = 1 ∧
            t.starts.length = s.starts.length + 1)) ∧
        (p.val ≠ 0 → ∃ t, exec (.preset p) s = .next t ∧ Quiet s t ∧ t.boot.job = some (.preset p.val (shCount s)) ∧
          ccsFld t 0x1028 63 63 = 1))) ∧
    (∀ n p q xid y, s.boot.job = some (.ipl n p q xid) →
      s.stats.find? (fun y => y.ioq == q && y.xid == xid && y.ending) = some y →
      (bits (y.words.headD 0).toNat 63 60 = 1 →
        exec .iplchanEnd s = .next (iplRun (takeStatus s y) n p)) ∧
      (bits (y.words.headD 0).toNat 63 60 ≠ 1 → ∃ t, exec .iplchanEnd s = .next t ∧ Quiet s t ∧ ends t 0x0A)) ∧
    (∀ p t0, s.boot.job = some (.preset p t0) →
      (∀ k : Fin 4, t0 + 64 ≤ shCount s → gpBound s k.val = some p → portSettled s k.val = false →
        ∃ t, exec (.presetFlushTimeout k) s = .next t ∧ lstate t k.val = 0) ∧
      (p < 32 → portsOf s p = [] → (∀ n ∈ pusOf s p, puState s n ≠ 1) → ∃ t, exec .presetComplete s = .next t ∧ t.mem = s.mem ∧
        ends t 1 ∧ (∀ n ∈ pusOf s p, puState s n = 2 → (t.pu n).arch = Pu.reset.arch ∧ puLocked t n = false) ∧
        ∀ n ∉ pusOf s p, t.pu n = s.pu n))

/-- The open microstore's loader (R161 to R168): ENROLL takes the customer's image key, LOAD and UNLOAD stop the partition's PUs and
end with their status once these have stopped; an image whose tag is wrong is refused and counted. The model's own readings
here: log entries 77, 152. -/
def Obligations.Open_microstore_commands : Prop :=
  ∀ (p : Fin 32) (s : State),
    let q := p.val
    let ends (t : State) (status : Nat) : Prop := ccsFld t (omstat q) 63 63 = 0 ∧ ccsFld t (omstat q) 55 48 = status
    q ≠ 0 →
    (s.loader = none →
      (partSealed s q = false →
        let u := (spFind s.keks q).bind (fun kek =>
          keyUnwrap kek (wrapBytes ((List.range 5).map (fun i => ccsGet s (partReg q (0x310 + 8 * i))))))
        ∃ t, exec (.enroll p) s = .next t ∧ Quiet s t ∧ ends t (if u.isSome then 1 else 0x20) ∧
          spFind t.imageKeys q = if u.isSome then u else spFind s.imageKeys q) ∧
      (pusOf s q ≠ [] →
        (∃ t, exec (.unload p) s = .next t ∧ Quiet s t ∧ t.loader = some { part := q, load := false, words := 0, cut := false } ∧
          ccsFld t (omstat q) 63 63 = 1) ∧
        ((spFind s.imageKeys q).isSome = true →
          (rangeHeld s (omsrc s q) 16 = true → ∃ t, exec (.load p) s = .next t ∧ Quiet s t ∧
            t.loader = some { part := q, load := true, words := 0, cut := false } ∧ ccsFld t (omstat q) 63 63 = 1) ∧
          (rangeHeld s (omsrc s q) 16 = false → ∀ n, headerCheck s q = .ok n → ∃ t, exec (.load p) s = .next t ∧ Quiet s t ∧
            t.loader = some { part := q, load := true, words := n, cut := false } ∧ ccsFld t (omstat q) 63 63 = 1) ∧
          (rangeHeld s (omsrc s q) 16 = false → ∀ c, headerCheck s q = .error c → ∃ t, exec (.load p) s = .next t ∧ Quiet s t ∧ t.loader = none ∧ ends t c)))) ∧
    (s.loader.isSome = true → ∀ j ∈ [Instr.enroll p, .load p, .unload p], ∃ t, exec j s = .next t ∧ Quiet s t ∧
      t.loader = s.loader ∧ ccsFld t (omstat q) 62 62 = 1) ∧
    (∀ load n, s.loader = some { part := q, load := load, words := n, cut := false } →
      (∀ k ∈ pusOf s q, puState s k = 1 → puLocked s k = true) →
      (load = false → ∃ t, exec .openMicrostoreCommandComplete s = .next t ∧ Quiet s t ∧ t.loader = none ∧
        spFind t.images q = none ∧ ends t 1 ∧ ∀ k ∈ pusOf s q, (s.pu k).loaderStop = true → presetting s k = false →
          (t.pu k).loaderStop = false ∧ puState t k = if puState s k = 2 then 1 else puState s k) ∧
      (∀ ws key, load = true → n ≠ 0 → rangeHeld s (omsrc s q) (8 * (0x48 + n)) = false → readWords s (omsrc s q) (0x48 + n) = some ws → spFind s.imageKeys q = some key →
        let ds := ws.map (·.data)
        ∃ t, exec .openMicrostoreCommandComplete s = .next t ∧ Quiet s t ∧ t.loader = none ∧
          if imageTag key ds ≠ ownTag ds then
            ends t 0x1C ∧ ccsFld t (omstat q) 47 32 = min (ccsFld s (omstat q) 47 32 + 1) 0xFFFF ∧ spFind t.images q = none
          else ∀ f, firstFault (ccsFld s (partReg q 0x300) 63 48) n 0 ws = f →
            match f with
            | none => ends t 1 ∧ spFind t.images q = some { binds := tableFrom 0 ((ds.drop 8).take 64), words := tableFrom 0 (ds.drop 0x48) }
            | some (_, c) => ends t c ∧ spFind t.images q = none))

/-- The debug access port (R431 to R439): the scan instructions; the unlock exchange (R433, R434); halt, step, resume and lock
(R435, R436); DBGACC to memory, to complex control space and to the registers of a halted PU (R437); VFSEL (R438). A locked port
selects the bypass register instead (R432). The model's own readings here: log entries 83, 84, 153. -/
def Obligations.Debug_port : Prop :=
  ∀ (s : State),
    let chosen (t : State) (ir : BitVec 8) : Prop := Quiet s t ∧ t.dbg.ir = ir
    let ends (t : State) (pu status : Nat) : Prop := chosen t 0x21 ∧ t.dbg.status = status ∧ t.dbg.pu = pu
    (∃ t, exec .ident s = .next t ∧ chosen t 0x10 ∧ t.dbg.dr = (ccsRead s 0).toNat) ∧
    (∀ cells, ∃ t, exec (.sample cells) s = .next t ∧ chosen t 0x01 ∧ t.dbg.bsr = cells) ∧
    (∀ cells, ∃ t, exec (.preloadScan cells) s = .next t ∧ chosen t 0x02 ∧ t.dbg.bsr = cells) ∧
    (∃ t, exec .trstLow s = .next t ∧ chosen t 0xFF ∧ t.dbg.unlocked = false) ∧
    (∃ t c, exec (.debugUnlock none) s = .next t ∧ chosen t 0x20 ∧ t.dbg.chal = some c ∧ t.dbg.unlocked = s.dbg.unlocked ∧
      t.dbg.dr = c.toNat * 2 ^ 64) ∧
    (∀ c (r : BitVec 128), s.dbg.chal = some c → cutLock s = false →
      ∃ t, exec (.debugUnlock (some r)) s = .next t ∧ chosen t 0x20 ∧ t.dbg.chal = none ∧
        if unlockAnswer c = r.toNat then t.dbg.unlocked = true ∧ t.dbg.fails = 0
        else t.dbg.fails = min (s.dbg.fails + 1) 8 ∧ (7 ≤ s.dbg.fails → cutLock t = true)) ∧
    (s.dbg.unlocked = false → ∀ (pu : BitVec 6) kind wr addr w v, ∀ j ∈ [Instr.extest, .debugHalt pu, .debugStep pu, .debugResume pu,
        .debugLock, .dbgacc kind wr addr w, .vfselUpdate v],
      ∃ t, exec j s = .next t ∧ chosen t 0xFF ∧ t.dbg.dr = 0 ∧ t.dbg.unlocked = false ∧ t.dbg.vfsel = s.dbg.vfsel) ∧
    (s.dbg.unlocked = true →
      (s.boot.resetN = false → ∃ t, exec .extest s = .next t ∧ chosen t 0x00 ∧ t.dbg.extest = true) ∧
      (s.boot.resetN = true → ∃ t, exec .extest s = .next t ∧ chosen t 0xFF ∧ t.dbg.extest = false) ∧
      (∃ t, exec .debugLock s = .next t ∧ ends t s.dbg.pu 1 ∧ t.dbg.unlocked = false ∧ ∀ n < 60, (t.pu n).halted = false) ∧
      (∀ pu : BitVec 6,
        let n := pu.toNat
        ((60 ≤ n ∨ (puState s n ≠ 1 ∧ puState s n ≠ 2) ∨ puLocked s n = true) →
          ∃ t, exec (.debugHalt pu) s = .next t ∧ ends t n 3) ∧
        (n < 60 → (puState s n = 1 ∨ puState s n = 2) → puLocked s n = false → (s.pu n).halted = false →
          ∃ t, exec (.debugHalt pu) s = .next t ∧ ends t n 1 ∧
            ((s.pu n).rested = true → (t.pu n).halted = true ∧ puMode t n = 2) ∧
            ((s.pu n).rested = false → (t.pu n).halted = false ∧ (t.pu n).haltReq = true)) ∧
        ((s.pu n).halted = false → ∀ j ∈ [Instr.debugStep pu, .debugResume pu], ∃ t, exec j s = .next t ∧ ends t n 4) ∧
        ((s.pu n).halted = true →
          (∃ t, exec (.debugResume pu) s = .next t ∧ ends t n 1 ∧ (t.pu n).halted = false) ∧
          (puState s n = 1 → pswW (s.pu n).psw = false → ∃ t, exec (.debugStep pu) s = .next t ∧ ends t n 1 ∧
            (t.pu n).stepArm = true))) ∧
      (s.dbg.accRun.isSome = true → ∀ kind wr addr w, ∃ t, exec (.dbgacc kind wr addr w) s = .next t ∧ chosen t 0x22 ∧
        t.dbg.accStat = 5 ∧ t.dbg.accRun = s.dbg.accRun) ∧
      (∀ (addr : BitVec 52) (w : TWord), s.dbg.accRun = none →
        let a := addr.toNat
        (a % 8 = 0 → installed s a = true →
          (guestOwns s (a / 64) = false → ∃ t, exec (.dbgacc 0 false addr w) s = .next t ∧ chosen t 0x22 ∧ t.dbg.accStat = 1 ∧
            t.dbg.accWord = homeWord s (a / 8)) ∧
          (guestOwns s (a / 64) = true → ∃ t, exec (.dbgacc 0 false addr w) s = .next t ∧ Quiet s t ∧
            t.dbg = { s.dbg with accRun := some ⟨false, a, w⟩ }) ∧
          (badTag w.tag = false → canOwn s (a / 64) = true → ∃ t, exec (.dbgacc 0 true addr w) s = .next t ∧ t.dbg.accStat = 1 ∧
            (∀ b, if b = a / 8 then memGet t b = w else Kept s t b) ∧ ∀ n, (t.pu n).arch = (s.pu n).arch) ∧
          (badTag w.tag = false → canOwn s (a / 64) = false → ∃ t, exec (.dbgacc 0 true addr w) s = .next t ∧ Quiet s t ∧
            t.dbg = { s.dbg with accRun := some ⟨true, a, w⟩ }) ∧
          (badTag w.tag = true → ∃ t, exec (.dbgacc 0 true addr w) s = .next t ∧ chosen t 0x22 ∧ t.dbg.accStat = 4)) ∧
        ((a % 8 ≠ 0 ∨ installed s a = false) → ∀ wr, ∃ t, exec (.dbgacc 0 wr addr w) s = .next t ∧ chosen t 0x22 ∧
          t.dbg.accStat = 3) ∧
        ((regAt (a % 2 ^ 40)).isSome = true →
          (∃ t, exec (.dbgacc 1 false addr w) s = .next t ∧ chosen t 0x22 ∧ t.dbg.accStat = 1 ∧
            t.dbg.accWord.data = (ccsReadBy s 2 (a % 2 ^ 40)).1) ∧
          (badTag w.tag = false → ∃ t u, exec (.dbgacc 1 true addr w) s = .next t ∧ ccsWrite s (a % 2 ^ 40) w.data = some u ∧
            t.mem = u.mem ∧ t.regs = u.regs ∧ t.pus = u.pus ∧ t.dbg.accStat = 1)) ∧
        (regAt (a % 2 ^ 40) = none → ∀ wr, ∃ t, exec (.dbgacc 1 wr addr w) s = .next t ∧ chosen t 0x22 ∧ t.dbg.accStat = 3) ∧
        (let n := s.dbg.pu
         let i := a % 256
         ((s.pu n).halted = false → ∀ wr, ∃ t, exec (.dbgacc 2 wr addr w) s = .next t ∧ chosen t 0x22 ∧ t.dbg.accStat = 2) ∧
         ((s.pu n).halted = true →
          (i < 0x10 → (∃ t, exec (.dbgacc 2 false addr w) s = .next t ∧ chosen t 0x22 ∧ t.dbg.accStat = 1 ∧
              t.dbg.accWord = (s.pu n).reg i) ∧
            (badTag w.tag = false → ∃ t, exec (.dbgacc 2 true addr w) s = .next t ∧ t.mem = s.mem ∧ t.dbg.accStat = 1 ∧
              (∀ k, (t.pu n).reg k = if k = i then w else (s.pu n).reg k) ∧ (∀ k, k ≠ n → t.pu k = s.pu k))) ∧
          (0x40 ≤ i → i < 0x60 → (∃ t, exec (.dbgacc 2 false addr w) s = .next t ∧ chosen t 0x22 ∧ t.dbg.accStat = 1 ∧
              t.dbg.accWord.data = (s.pu n).ctlReg (i - 0x40)) ∧
            (badTag w.tag = false → ∃ t, exec (.dbgacc 2 true addr w) s = .next t ∧ t.dbg.accStat = 1 ∧
              t.pu n = (s.pu n).setCtl (i - 0x40) w.data)) ∧
          ((0x26 ≤ i ∧ i < 0x40 ∨ 0x60 ≤ i) → ∀ wr, ∃ t, exec (.dbgacc 2 wr addr w) s = .next t ∧ chosen t 0x22 ∧
            t.dbg.accStat = 3))) ∧
        (∀ wr, ∃ t, exec (.dbgacc 3 wr addr w) s = .next t ∧ chosen t 0x22 ∧ t.dbg.accStat = 3)) ∧
      (∀ v : BitVec 72, ∃ t, exec (.vfselUpdate v) s = .next t ∧ chosen t 0x30 ∧
        ∀ k < 6, bits t.dbg.vfsel (8 * k + 7) (8 * k) = vfCode (bits v.toNat (8 * k + 7) (8 * k))))
end

