-- ==== Sys2Proof/Laws/Sparse.lean ====
section
/-! SUPPORT. Laws of sparse data: reading after writing, writing twice, and the canonical form that every write keeps. -/

namespace Sys2Proof.Machine

variable {α : Type}

theorem spFind_erase (m : Sparse α) (a b : Nat) :
    spFind (spErase m a) b = if b = a then none else spFind m b := by
  induction m with
  | nil => simp [spErase, spFind]
  | cons p m ih =>
    obtain ⟨k, v⟩ := p
    by_cases h : k = a
    · subst h
      by_cases hb : b = k
      · subst hb
        simpa [spErase] using ih
      · simp [spErase, ih, spFind, hb, Ne.symm hb]
    · by_cases hk : k = b
      · subst hk
        simp [spErase, spFind, h]
      · simp [spErase, spFind, h, hk, ih]

theorem spFind_insert (m : Sparse α) (a b : Nat) (v : α) (h : spFind m a = none) :
    spFind (spInsert m a v) b = if b = a then some v else spFind m b := by
  induction m with
  | nil =>
    by_cases hb : b = a
    · simp [spInsert, spFind, hb]
    · simp [spInsert, spFind, hb, Ne.symm hb]
  | cons p m ih =>
    obtain ⟨k, w⟩ := p
    have hk : k ≠ a := by
      intro hk
      simp [spFind, hk] at h
    simp only [spFind, hk, if_false] at h
    by_cases hlt : a < k
    · by_cases hb : b = a
      · simp [spInsert, hlt, spFind, hb]
      · simp [spInsert, hlt, spFind, hb, Ne.symm hb]
    · by_cases hkb : k = b
      · subst hkb
        simp [spInsert, hlt, spFind, hk]
      · simp [spInsert, hlt, spFind, hkb, ih h]

theorem spFind_erase_self (m : Sparse α) (a : Nat) : spFind (spErase m a) a = none := by
  simp [spFind_erase]

/-- A read after a write to the same key gives the value written. -/
@[simp] theorem spGet_spSet_self [DecidableEq α] (d : α) (m : Sparse α) (a : Nat) (v : α) :
    spGet d (spSet d m a v) a = v := by
  unfold spSet spGet
  split
  · rename_i h
    simp [spFind_erase, h]
  · simp [spFind_insert _ _ _ _ (spFind_erase_self m a)]

/-- A write leaves every other key alone, whatever its default. -/
theorem spGet_spSet_ne [DecidableEq α] (d e : α) (m : Sparse α) (a b : Nat) (v : α) (h : b ≠ a) :
    spGet d (spSet e m a v) b = spGet d m b := by
  unfold spSet spGet
  split
  · simp [spFind_erase, h]
  · simp [spFind_insert _ _ _ _ (spFind_erase_self m a), spFind_erase, h]

/-- A read after a write. -/
theorem spGet_spSet [DecidableEq α] (d : α) (m : Sparse α) (a b : Nat) (v : α) :
    spGet d (spSet d m a v) b = if b = a then v else spGet d m b := by
  by_cases h : b = a
  · simp [h]
  · simp [h, spGet_spSet_ne]

theorem spErase_erase (m : Sparse α) (a : Nat) : spErase (spErase m a) a = spErase m a := by
  induction m with
  | nil => rfl
  | cons p m ih =>
    obtain ⟨k, v⟩ := p
    by_cases h : k = a <;> simp [spErase, h, ih]

theorem spErase_insert (m : Sparse α) (a : Nat) (v : α) : spErase (spInsert m a v) a = spErase m a := by
  induction m with
  | nil => simp [spInsert, spErase]
  | cons p m ih =>
    obtain ⟨k, w⟩ := p
    by_cases hlt : a < k
    · simp [spInsert, hlt, spErase]
    · by_cases h : k = a <;> simp [spInsert, hlt, spErase, h, ih]

/-- The later of two writes to one key stands. -/
@[simp] theorem spSet_spSet [DecidableEq α] (d : α) (m : Sparse α) (a : Nat) (v w : α) :
    spSet d (spSet d m a v) a w = spSet d m a w := by
  unfold spSet
  split <;> split <;> simp [spErase_insert, spErase_erase]

/-! ### The canonical form -/

theorem spSorted_tail {p : Nat × α} {m : Sparse α} (h : spSorted (p :: m) = true) : spSorted m = true := by
  cases m with
  | nil => rfl
  | cons q m =>
    simp only [spSorted, Bool.and_eq_true] at h
    exact h.2

/-- Every listed key lies above `a`. -/
def spAbove (a : Nat) (m : Sparse α) : Prop := ∀ p ∈ m, a < p.1

theorem spSorted_cons (p : Nat × α) (m : Sparse α) :
    spSorted (p :: m) = true ↔ spAbove p.1 m ∧ spSorted m = true := by
  induction m generalizing p with
  | nil => simp [spSorted, spAbove]
  | cons q m ih =>
    constructor
    · intro h
      simp only [spSorted, Bool.and_eq_true, decide_eq_true_eq] at h
      refine ⟨?_, h.2⟩
      intro r hr
      rcases List.mem_cons.1 hr with rfl | hr
      · exact h.1
      · exact Nat.lt_trans h.1 (((ih q).1 h.2).1 r hr)
    · intro h
      simp only [spSorted, Bool.and_eq_true, decide_eq_true_eq]
      exact ⟨h.1 q (List.mem_cons_self ..), h.2⟩

theorem mem_spErase {m : Sparse α} {a : Nat} {p : Nat × α} (h : p ∈ spErase m a) : p ∈ m := by
  induction m with
  | nil => simp [spErase] at h
  | cons q m ih =>
    obtain ⟨k, v⟩ := q
    by_cases hk : k = a
    · simp only [spErase, hk, if_true] at h
      exact List.mem_cons_of_mem _ (ih h)
    · simp only [spErase, hk, if_false, List.mem_cons] at h
      rcases h with rfl | h
      · exact List.mem_cons_self ..
      · exact List.mem_cons_of_mem _ (ih h)

theorem key_ne_of_mem_spErase {m : Sparse α} {a : Nat} {p : Nat × α} (h : p ∈ spErase m a) : p.1 ≠ a := by
  induction m with
  | nil => simp [spErase] at h
  | cons q m ih =>
    obtain ⟨k, v⟩ := q
    by_cases hk : k = a
    · simp only [spErase, hk, if_true] at h
      exact ih h
    · simp only [spErase, hk, if_false, List.mem_cons] at h
      rcases h with rfl | h
      · exact hk
      · exact ih h

theorem mem_spInsert {m : Sparse α} {a : Nat} {v : α} {p : Nat × α} (h : p ∈ spInsert m a v) :
    p = (a, v) ∨ p ∈ m := by
  induction m with
  | nil => simpa [spInsert] using h
  | cons q m ih =>
    obtain ⟨k, w⟩ := q
    by_cases hlt : a < k
    · simpa [spInsert, hlt] using h
    · simp only [spInsert, hlt, if_false, List.mem_cons] at h
      rcases h with rfl | h
      · exact Or.inr (List.mem_cons_self ..)
      · exact (ih h).imp id (List.mem_cons_of_mem _)

theorem spSorted_erase {m : Sparse α} (a : Nat) (h : spSorted m = true) : spSorted (spErase m a) = true := by
  induction m with
  | nil => rfl
  | cons q m ih =>
    obtain ⟨k, v⟩ := q
    have h' := (spSorted_cons _ _).1 h
    by_cases hk : k = a
    · simpa [spErase, hk] using ih h'.2
    · simp only [spErase, hk, if_false]
      exact (spSorted_cons _ _).2 ⟨fun p hp => h'.1 p (mem_spErase hp), ih h'.2⟩

theorem spSorted_insert {m : Sparse α} (a : Nat) (v : α) (h : spSorted m = true) (hn : ∀ p ∈ m, p.1 ≠ a) :
    spSorted (spInsert m a v) = true := by
  induction m with
  | nil => rfl
  | cons q m ih =>
    obtain ⟨k, w⟩ := q
    have h' := (spSorted_cons _ _).1 h
    by_cases hlt : a < k
    · simp only [spInsert, hlt, if_true]
      refine (spSorted_cons _ _).2 ⟨?_, h⟩
      intro p hp
      rcases List.mem_cons.1 hp with rfl | hp
      · exact hlt
      · exact Nat.lt_trans hlt (h'.1 p hp)
    · simp only [spInsert, hlt, if_false]
      refine (spSorted_cons _ _).2 ⟨?_, ih h'.2 (fun p hp => hn p (List.mem_cons_of_mem _ hp))⟩
      intro p hp
      rcases mem_spInsert hp with rfl | hp
      · have := hn (k, w) (List.mem_cons_self ..)
        simp only at *
        omega
      · exact h'.1 p hp

/-- A write under the key's own default keeps the canonical form. -/
theorem spWf_spSet [DecidableEq α] (d : Nat → α) {m : Sparse α} (a : Nat) (v : α) (h : spWf d m = true) :
    spWf d (spSet (d a) m a v) = true := by
  simp only [spWf, Bool.and_eq_true, List.all_eq_true, decide_eq_true_eq] at h ⊢
  unfold spSet
  split
  · exact ⟨spSorted_erase a h.1, fun p hp => h.2 p (mem_spErase hp)⟩
  · rename_i hv
    refine ⟨spSorted_insert a v (spSorted_erase a h.1) (fun p hp => key_ne_of_mem_spErase hp), ?_⟩
    intro p hp
    rcases mem_spInsert hp with rfl | hp
    · exact hv
    · exact h.2 p (mem_spErase hp)

end Sys2Proof.Machine
end

