-- ==== Sys2Proof/Laws/State.lean ====
section
/-! SUPPORT. The state's named updates: what each leaves unchanged, field by field, and what a read after a write gives.
No later proof unfolds a record update. -/

namespace Sys2Proof.Machine

variable (s : State) (p : Pu) (a b n k hi lo v : Nat) (w : Word) (x : TWord) (f : Pu → Pu)

/-! ### ccsPut -/

@[simp] theorem ccsPut_mem : (ccsPut s a w).mem = s.mem := rfl
@[simp] theorem ccsPut_pend : (ccsPut s a w).pend = s.pend := rfl
@[simp] theorem ccsPut_pus : (ccsPut s a w).pus = s.pus := rfl
@[simp] theorem ccsPut_tod : (ccsPut s a w).tod = s.tod := rfl
@[simp] theorem ccsPut_tbHist : (ccsPut s a w).tbHist = s.tbHist := rfl
@[simp] theorem ccsPut_serv : (ccsPut s a w).serv = s.serv := rfl
@[simp] theorem ccsPut_ioInts : (ccsPut s a w).ioInts = s.ioInts := rfl
@[simp] theorem ccsPut_freeCores : (ccsPut s a w).freeCores = s.freeCores := rfl
@[simp] theorem ccsPut_idleCores : (ccsPut s a w).idleCores = s.idleCores := rfl
@[simp] theorem ccsPut_sent : (ccsPut s a w).sent = s.sent := rfl
@[simp] theorem ccsPut_ep : (ccsPut s a w).ep = s.ep := rfl
@[simp] theorem ccsPut_clock : (ccsPut s a w).clock = s.clock := rfl
@[simp] theorem ccsPut_boot : (ccsPut s a w).boot = s.boot := rfl
@[simp] theorem ccsPut_dbg : (ccsPut s a w).dbg = s.dbg := rfl
@[simp] theorem ccsPut_keks : (ccsPut s a w).keks = s.keks := rfl
@[simp] theorem ccsPut_imageKeys : (ccsPut s a w).imageKeys = s.imageKeys := rfl
@[simp] theorem ccsPut_images : (ccsPut s a w).images = s.images := rfl
@[simp] theorem ccsPut_loader : (ccsPut s a w).loader = s.loader := rfl
@[simp] theorem ccsPut_kekJob : (ccsPut s a w).kekJob = s.kekJob := rfl
@[simp] theorem ccsPut_lkJob : (ccsPut s a w).lkJob = s.lkJob := rfl
@[simp] theorem ccsPut_slotKeys : (ccsPut s a w).slotKeys = s.slotKeys := rfl
@[simp] theorem ccsPut_slotGen : (ccsPut s a w).slotGen = s.slotGen := rfl
@[simp] theorem ccsPut_genBase : (ccsPut s a w).genBase = s.genBase := rfl
@[simp] theorem ccsPut_stateKey : (ccsPut s a w).stateKey = s.stateKey := rfl
@[simp] theorem ccsPut_noiseCnt : (ccsPut s a w).noiseCnt = s.noiseCnt := rfl
@[simp] theorem ccsPut_linkKeys : (ccsPut s a w).linkKeys = s.linkKeys := rfl
@[simp] theorem ccsPut_linkCtr : (ccsPut s a w).linkCtr = s.linkCtr := rfl
@[simp] theorem ccsPut_withheld : (ccsPut s a w).withheld = s.withheld := rfl
@[simp] theorem ccsPut_engTimes : (ccsPut s a w).engTimes = s.engTimes := rfl
@[simp] theorem ccsPut_belLast : (ccsPut s a w).belLast = s.belLast := rfl
@[simp] theorem ccsPut_dir : (ccsPut s a w).dir = s.dir := rfl
@[simp] theorem ccsPut_dirClock : (ccsPut s a w).dirClock = s.dirClock := rfl
@[simp] theorem ccsPut_dram : (ccsPut s a w).dram = s.dram := rfl
@[simp] theorem ccsPut_l3 : (ccsPut s a w).l3 = s.l3 := rfl
@[simp] theorem ccsPut_trk : (ccsPut s a w).trk = s.trk := rfl
@[simp] theorem ccsPut_txns : (ccsPut s a w).txns = s.txns := rfl
@[simp] theorem ccsPut_homeQ : (ccsPut s a w).homeQ = s.homeQ := rfl
@[simp] theorem ccsPut_atNode : (ccsPut s a w).atNode = s.atNode := rfl
@[simp] theorem ccsPut_cmps : (ccsPut s a w).cmps = s.cmps := rfl
@[simp] theorem ccsPut_gports : (ccsPut s a w).gports = s.gports := rfl
@[simp] theorem ccsPut_fab : (ccsPut s a w).fab = s.fab := rfl
@[simp] theorem ccsPut_served : (ccsPut s a w).served = s.served := rfl
@[simp] theorem ccsPut_refused : (ccsPut s a w).refused = s.refused := rfl
@[simp] theorem ccsPut_starts : (ccsPut s a w).starts = s.starts := rfl
@[simp] theorem ccsPut_ring : (ccsPut s a w).ring = s.ring := rfl
@[simp] theorem ccsPut_stats : (ccsPut s a w).stats = s.stats := rfl
@[simp] theorem ccsPut_statSeq : (ccsPut s a w).statSeq = s.statSeq := rfl
@[simp] theorem ccsPut_susp : (ccsPut s a w).susp = s.susp := rfl
@[simp] theorem ccsPut_sense : (ccsPut s a w).sense = s.sense := rfl
@[simp] theorem ccsPut_xidNext : (ccsPut s a w).xidNext = s.xidNext := rfl
@[simp] theorem ccsPut_newest : (ccsPut s a w).newest = s.newest := rfl
@[simp] theorem ccsPut_epoch : (ccsPut s a w).epoch = s.epoch := rfl
@[simp] theorem ccsPut_pairs : (ccsPut s a w).pairs = s.pairs := rfl
@[simp] theorem ccsPut_ended : (ccsPut s a w).ended = s.ended := rfl
@[simp] theorem ccsPut_endacks : (ccsPut s a w).endacks = s.endacks := rfl
@[simp] theorem ccsPut_failRep : (ccsPut s a w).failRep = s.failRep := rfl
@[simp] theorem ccsPut_micro : (ccsPut s a w).micro = s.micro := rfl
@[simp] theorem ccsPut_fresh : (ccsPut s a w).fresh = s.fresh := rfl
@[simp] theorem ccsPut_pending : (ccsPut s a w).pending = s.pending := rfl
@[simp] theorem memGet_ccsPut : memGet (ccsPut s a w) b = memGet s b := rfl
@[simp] theorem pu_ccsPut : (ccsPut s a w).pu k = s.pu k := rfl

/-! ### ccsSet -/

@[simp] theorem ccsSet_mem : (ccsSet s a hi lo v).mem = s.mem := rfl
@[simp] theorem ccsSet_pend : (ccsSet s a hi lo v).pend = s.pend := rfl
@[simp] theorem ccsSet_pus : (ccsSet s a hi lo v).pus = s.pus := rfl
@[simp] theorem ccsSet_tod : (ccsSet s a hi lo v).tod = s.tod := rfl
@[simp] theorem ccsSet_tbHist : (ccsSet s a hi lo v).tbHist = s.tbHist := rfl
@[simp] theorem ccsSet_serv : (ccsSet s a hi lo v).serv = s.serv := rfl
@[simp] theorem ccsSet_ioInts : (ccsSet s a hi lo v).ioInts = s.ioInts := rfl
@[simp] theorem ccsSet_freeCores : (ccsSet s a hi lo v).freeCores = s.freeCores := rfl
@[simp] theorem ccsSet_idleCores : (ccsSet s a hi lo v).idleCores = s.idleCores := rfl
@[simp] theorem ccsSet_sent : (ccsSet s a hi lo v).sent = s.sent := rfl
@[simp] theorem ccsSet_ep : (ccsSet s a hi lo v).ep = s.ep := rfl
@[simp] theorem ccsSet_clock : (ccsSet s a hi lo v).clock = s.clock := rfl
@[simp] theorem ccsSet_boot : (ccsSet s a hi lo v).boot = s.boot := rfl
@[simp] theorem ccsSet_dbg : (ccsSet s a hi lo v).dbg = s.dbg := rfl
@[simp] theorem ccsSet_keks : (ccsSet s a hi lo v).keks = s.keks := rfl
@[simp] theorem ccsSet_imageKeys : (ccsSet s a hi lo v).imageKeys = s.imageKeys := rfl
@[simp] theorem ccsSet_images : (ccsSet s a hi lo v).images = s.images := rfl
@[simp] theorem ccsSet_loader : (ccsSet s a hi lo v).loader = s.loader := rfl
@[simp] theorem ccsSet_kekJob : (ccsSet s a hi lo v).kekJob = s.kekJob := rfl
@[simp] theorem ccsSet_lkJob : (ccsSet s a hi lo v).lkJob = s.lkJob := rfl
@[simp] theorem ccsSet_slotKeys : (ccsSet s a hi lo v).slotKeys = s.slotKeys := rfl
@[simp] theorem ccsSet_slotGen : (ccsSet s a hi lo v).slotGen = s.slotGen := rfl
@[simp] theorem ccsSet_genBase : (ccsSet s a hi lo v).genBase = s.genBase := rfl
@[simp] theorem ccsSet_stateKey : (ccsSet s a hi lo v).stateKey = s.stateKey := rfl
@[simp] theorem ccsSet_noiseCnt : (ccsSet s a hi lo v).noiseCnt = s.noiseCnt := rfl
@[simp] theorem ccsSet_linkKeys : (ccsSet s a hi lo v).linkKeys = s.linkKeys := rfl
@[simp] theorem ccsSet_linkCtr : (ccsSet s a hi lo v).linkCtr = s.linkCtr := rfl
@[simp] theorem ccsSet_withheld : (ccsSet s a hi lo v).withheld = s.withheld := rfl
@[simp] theorem ccsSet_engTimes : (ccsSet s a hi lo v).engTimes = s.engTimes := rfl
@[simp] theorem ccsSet_belLast : (ccsSet s a hi lo v).belLast = s.belLast := rfl
@[simp] theorem ccsSet_dir : (ccsSet s a hi lo v).dir = s.dir := rfl
@[simp] theorem ccsSet_dirClock : (ccsSet s a hi lo v).dirClock = s.dirClock := rfl
@[simp] theorem ccsSet_dram : (ccsSet s a hi lo v).dram = s.dram := rfl
@[simp] theorem ccsSet_l3 : (ccsSet s a hi lo v).l3 = s.l3 := rfl
@[simp] theorem ccsSet_trk : (ccsSet s a hi lo v).trk = s.trk := rfl
@[simp] theorem ccsSet_txns : (ccsSet s a hi lo v).txns = s.txns := rfl
@[simp] theorem ccsSet_homeQ : (ccsSet s a hi lo v).homeQ = s.homeQ := rfl
@[simp] theorem ccsSet_atNode : (ccsSet s a hi lo v).atNode = s.atNode := rfl
@[simp] theorem ccsSet_cmps : (ccsSet s a hi lo v).cmps = s.cmps := rfl
@[simp] theorem ccsSet_gports : (ccsSet s a hi lo v).gports = s.gports := rfl
@[simp] theorem ccsSet_fab : (ccsSet s a hi lo v).fab = s.fab := rfl
@[simp] theorem ccsSet_served : (ccsSet s a hi lo v).served = s.served := rfl
@[simp] theorem ccsSet_refused : (ccsSet s a hi lo v).refused = s.refused := rfl
@[simp] theorem ccsSet_starts : (ccsSet s a hi lo v).starts = s.starts := rfl
@[simp] theorem ccsSet_ring : (ccsSet s a hi lo v).ring = s.ring := rfl
@[simp] theorem ccsSet_stats : (ccsSet s a hi lo v).stats = s.stats := rfl
@[simp] theorem ccsSet_statSeq : (ccsSet s a hi lo v).statSeq = s.statSeq := rfl
@[simp] theorem ccsSet_susp : (ccsSet s a hi lo v).susp = s.susp := rfl
@[simp] theorem ccsSet_sense : (ccsSet s a hi lo v).sense = s.sense := rfl
@[simp] theorem ccsSet_xidNext : (ccsSet s a hi lo v).xidNext = s.xidNext := rfl
@[simp] theorem ccsSet_newest : (ccsSet s a hi lo v).newest = s.newest := rfl
@[simp] theorem ccsSet_epoch : (ccsSet s a hi lo v).epoch = s.epoch := rfl
@[simp] theorem ccsSet_pairs : (ccsSet s a hi lo v).pairs = s.pairs := rfl
@[simp] theorem ccsSet_ended : (ccsSet s a hi lo v).ended = s.ended := rfl
@[simp] theorem ccsSet_endacks : (ccsSet s a hi lo v).endacks = s.endacks := rfl
@[simp] theorem ccsSet_failRep : (ccsSet s a hi lo v).failRep = s.failRep := rfl
@[simp] theorem ccsSet_micro : (ccsSet s a hi lo v).micro = s.micro := rfl
@[simp] theorem ccsSet_fresh : (ccsSet s a hi lo v).fresh = s.fresh := rfl
@[simp] theorem ccsSet_pending : (ccsSet s a hi lo v).pending = s.pending := rfl
@[simp] theorem memGet_ccsSet : memGet (ccsSet s a hi lo v) b = memGet s b := rfl
@[simp] theorem pu_ccsSet : (ccsSet s a hi lo v).pu k = s.pu k := rfl

/-! ### setPu -/

@[simp] theorem setPu_mem : (s.setPu n p).mem = s.mem := rfl
@[simp] theorem setPu_regs : (s.setPu n p).regs = s.regs := rfl
@[simp] theorem setPu_pend : (s.setPu n p).pend = s.pend := rfl
@[simp] theorem setPu_tod : (s.setPu n p).tod = s.tod := rfl
@[simp] theorem setPu_tbHist : (s.setPu n p).tbHist = s.tbHist := rfl
@[simp] theorem setPu_serv : (s.setPu n p).serv = s.serv := rfl
@[simp] theorem setPu_ioInts : (s.setPu n p).ioInts = s.ioInts := rfl
@[simp] theorem setPu_freeCores : (s.setPu n p).freeCores = s.freeCores := rfl
@[simp] theorem setPu_idleCores : (s.setPu n p).idleCores = s.idleCores := rfl
@[simp] theorem setPu_sent : (s.setPu n p).sent = s.sent := rfl
@[simp] theorem setPu_ep : (s.setPu n p).ep = s.ep := rfl
@[simp] theorem setPu_clock : (s.setPu n p).clock = s.clock := rfl
@[simp] theorem setPu_boot : (s.setPu n p).boot = s.boot := rfl
@[simp] theorem setPu_dbg : (s.setPu n p).dbg = s.dbg := rfl
@[simp] theorem setPu_keks : (s.setPu n p).keks = s.keks := rfl
@[simp] theorem setPu_imageKeys : (s.setPu n p).imageKeys = s.imageKeys := rfl
@[simp] theorem setPu_images : (s.setPu n p).images = s.images := rfl
@[simp] theorem setPu_loader : (s.setPu n p).loader = s.loader := rfl
@[simp] theorem setPu_kekJob : (s.setPu n p).kekJob = s.kekJob := rfl
@[simp] theorem setPu_lkJob : (s.setPu n p).lkJob = s.lkJob := rfl
@[simp] theorem setPu_slotKeys : (s.setPu n p).slotKeys = s.slotKeys := rfl
@[simp] theorem setPu_slotGen : (s.setPu n p).slotGen = s.slotGen := rfl
@[simp] theorem setPu_genBase : (s.setPu n p).genBase = s.genBase := rfl
@[simp] theorem setPu_stateKey : (s.setPu n p).stateKey = s.stateKey := rfl
@[simp] theorem setPu_noiseCnt : (s.setPu n p).noiseCnt = s.noiseCnt := rfl
@[simp] theorem setPu_linkKeys : (s.setPu n p).linkKeys = s.linkKeys := rfl
@[simp] theorem setPu_linkCtr : (s.setPu n p).linkCtr = s.linkCtr := rfl
@[simp] theorem setPu_withheld : (s.setPu n p).withheld = s.withheld := rfl
@[simp] theorem setPu_engTimes : (s.setPu n p).engTimes = s.engTimes := rfl
@[simp] theorem setPu_belLast : (s.setPu n p).belLast = s.belLast := rfl
@[simp] theorem setPu_dir : (s.setPu n p).dir = s.dir := rfl
@[simp] theorem setPu_dirClock : (s.setPu n p).dirClock = s.dirClock := rfl
@[simp] theorem setPu_dram : (s.setPu n p).dram = s.dram := rfl
@[simp] theorem setPu_l3 : (s.setPu n p).l3 = s.l3 := rfl
@[simp] theorem setPu_trk : (s.setPu n p).trk = s.trk := rfl
@[simp] theorem setPu_txns : (s.setPu n p).txns = s.txns := rfl
@[simp] theorem setPu_homeQ : (s.setPu n p).homeQ = s.homeQ := rfl
@[simp] theorem setPu_atNode : (s.setPu n p).atNode = s.atNode := rfl
@[simp] theorem setPu_cmps : (s.setPu n p).cmps = s.cmps := rfl
@[simp] theorem setPu_gports : (s.setPu n p).gports = s.gports := rfl
@[simp] theorem setPu_fab : (s.setPu n p).fab = s.fab := rfl
@[simp] theorem setPu_served : (s.setPu n p).served = s.served := rfl
@[simp] theorem setPu_refused : (s.setPu n p).refused = s.refused := rfl
@[simp] theorem setPu_starts : (s.setPu n p).starts = s.starts := rfl
@[simp] theorem setPu_ring : (s.setPu n p).ring = s.ring := rfl
@[simp] theorem setPu_stats : (s.setPu n p).stats = s.stats := rfl
@[simp] theorem setPu_statSeq : (s.setPu n p).statSeq = s.statSeq := rfl
@[simp] theorem setPu_susp : (s.setPu n p).susp = s.susp := rfl
@[simp] theorem setPu_sense : (s.setPu n p).sense = s.sense := rfl
@[simp] theorem setPu_xidNext : (s.setPu n p).xidNext = s.xidNext := rfl
@[simp] theorem setPu_newest : (s.setPu n p).newest = s.newest := rfl
@[simp] theorem setPu_epoch : (s.setPu n p).epoch = s.epoch := rfl
@[simp] theorem setPu_pairs : (s.setPu n p).pairs = s.pairs := rfl
@[simp] theorem setPu_ended : (s.setPu n p).ended = s.ended := rfl
@[simp] theorem setPu_endacks : (s.setPu n p).endacks = s.endacks := rfl
@[simp] theorem setPu_failRep : (s.setPu n p).failRep = s.failRep := rfl
@[simp] theorem setPu_micro : (s.setPu n p).micro = s.micro := rfl
@[simp] theorem setPu_fresh : (s.setPu n p).fresh = s.fresh := rfl
@[simp] theorem setPu_pending : (s.setPu n p).pending = s.pending := rfl
@[simp] theorem ccsGet_setPu : ccsGet (s.setPu n p) b = ccsGet s b := rfl
@[simp] theorem memGet_setPu : memGet (s.setPu n p) b = memGet s b := rfl

/-! ### modPu -/

@[simp] theorem modPu_mem : (s.modPu n f).mem = s.mem := rfl
@[simp] theorem modPu_regs : (s.modPu n f).regs = s.regs := rfl
@[simp] theorem modPu_pend : (s.modPu n f).pend = s.pend := rfl
@[simp] theorem modPu_tod : (s.modPu n f).tod = s.tod := rfl
@[simp] theorem modPu_tbHist : (s.modPu n f).tbHist = s.tbHist := rfl
@[simp] theorem modPu_serv : (s.modPu n f).serv = s.serv := rfl
@[simp] theorem modPu_ioInts : (s.modPu n f).ioInts = s.ioInts := rfl
@[simp] theorem modPu_freeCores : (s.modPu n f).freeCores = s.freeCores := rfl
@[simp] theorem modPu_idleCores : (s.modPu n f).idleCores = s.idleCores := rfl
@[simp] theorem modPu_sent : (s.modPu n f).sent = s.sent := rfl
@[simp] theorem modPu_ep : (s.modPu n f).ep = s.ep := rfl
@[simp] theorem modPu_clock : (s.modPu n f).clock = s.clock := rfl
@[simp] theorem modPu_boot : (s.modPu n f).boot = s.boot := rfl
@[simp] theorem modPu_dbg : (s.modPu n f).dbg = s.dbg := rfl
@[simp] theorem modPu_keks : (s.modPu n f).keks = s.keks := rfl
@[simp] theorem modPu_imageKeys : (s.modPu n f).imageKeys = s.imageKeys := rfl
@[simp] theorem modPu_images : (s.modPu n f).images = s.images := rfl
@[simp] theorem modPu_loader : (s.modPu n f).loader = s.loader := rfl
@[simp] theorem modPu_kekJob : (s.modPu n f).kekJob = s.kekJob := rfl
@[simp] theorem modPu_lkJob : (s.modPu n f).lkJob = s.lkJob := rfl
@[simp] theorem modPu_slotKeys : (s.modPu n f).slotKeys = s.slotKeys := rfl
@[simp] theorem modPu_slotGen : (s.modPu n f).slotGen = s.slotGen := rfl
@[simp] theorem modPu_genBase : (s.modPu n f).genBase = s.genBase := rfl
@[simp] theorem modPu_stateKey : (s.modPu n f).stateKey = s.stateKey := rfl
@[simp] theorem modPu_noiseCnt : (s.modPu n f).noiseCnt = s.noiseCnt := rfl
@[simp] theorem modPu_linkKeys : (s.modPu n f).linkKeys = s.linkKeys := rfl
@[simp] theorem modPu_linkCtr : (s.modPu n f).linkCtr = s.linkCtr := rfl
@[simp] theorem modPu_withheld : (s.modPu n f).withheld = s.withheld := rfl
@[simp] theorem modPu_engTimes : (s.modPu n f).engTimes = s.engTimes := rfl
@[simp] theorem modPu_belLast : (s.modPu n f).belLast = s.belLast := rfl
@[simp] theorem modPu_dir : (s.modPu n f).dir = s.dir := rfl
@[simp] theorem modPu_dirClock : (s.modPu n f).dirClock = s.dirClock := rfl
@[simp] theorem modPu_dram : (s.modPu n f).dram = s.dram := rfl
@[simp] theorem modPu_l3 : (s.modPu n f).l3 = s.l3 := rfl
@[simp] theorem modPu_trk : (s.modPu n f).trk = s.trk := rfl
@[simp] theorem modPu_txns : (s.modPu n f).txns = s.txns := rfl
@[simp] theorem modPu_homeQ : (s.modPu n f).homeQ = s.homeQ := rfl
@[simp] theorem modPu_atNode : (s.modPu n f).atNode = s.atNode := rfl
@[simp] theorem modPu_cmps : (s.modPu n f).cmps = s.cmps := rfl
@[simp] theorem modPu_gports : (s.modPu n f).gports = s.gports := rfl
@[simp] theorem modPu_fab : (s.modPu n f).fab = s.fab := rfl
@[simp] theorem modPu_served : (s.modPu n f).served = s.served := rfl
@[simp] theorem modPu_refused : (s.modPu n f).refused = s.refused := rfl
@[simp] theorem modPu_starts : (s.modPu n f).starts = s.starts := rfl
@[simp] theorem modPu_ring : (s.modPu n f).ring = s.ring := rfl
@[simp] theorem modPu_stats : (s.modPu n f).stats = s.stats := rfl
@[simp] theorem modPu_statSeq : (s.modPu n f).statSeq = s.statSeq := rfl
@[simp] theorem modPu_susp : (s.modPu n f).susp = s.susp := rfl
@[simp] theorem modPu_sense : (s.modPu n f).sense = s.sense := rfl
@[simp] theorem modPu_xidNext : (s.modPu n f).xidNext = s.xidNext := rfl
@[simp] theorem modPu_newest : (s.modPu n f).newest = s.newest := rfl
@[simp] theorem modPu_epoch : (s.modPu n f).epoch = s.epoch := rfl
@[simp] theorem modPu_pairs : (s.modPu n f).pairs = s.pairs := rfl
@[simp] theorem modPu_ended : (s.modPu n f).ended = s.ended := rfl
@[simp] theorem modPu_endacks : (s.modPu n f).endacks = s.endacks := rfl
@[simp] theorem modPu_failRep : (s.modPu n f).failRep = s.failRep := rfl
@[simp] theorem modPu_micro : (s.modPu n f).micro = s.micro := rfl
@[simp] theorem modPu_fresh : (s.modPu n f).fresh = s.fresh := rfl
@[simp] theorem modPu_pending : (s.modPu n f).pending = s.pending := rfl
@[simp] theorem ccsGet_modPu : ccsGet (s.modPu n f) b = ccsGet s b := rfl
@[simp] theorem memGet_modPu : memGet (s.modPu n f) b = memGet s b := rfl

/-! ### memPut -/

@[simp] theorem memPut_regs : (memPut s a x).regs = s.regs := rfl
@[simp] theorem memPut_pend : (memPut s a x).pend = s.pend := rfl
@[simp] theorem memPut_pus : (memPut s a x).pus = s.pus := rfl
@[simp] theorem memPut_tod : (memPut s a x).tod = s.tod := rfl
@[simp] theorem memPut_serv : (memPut s a x).serv = s.serv := rfl
@[simp] theorem memPut_ioInts : (memPut s a x).ioInts = s.ioInts := rfl
@[simp] theorem memPut_freeCores : (memPut s a x).freeCores = s.freeCores := rfl
@[simp] theorem memPut_idleCores : (memPut s a x).idleCores = s.idleCores := rfl
@[simp] theorem memPut_sent : (memPut s a x).sent = s.sent := rfl
@[simp] theorem memPut_ep : (memPut s a x).ep = s.ep := rfl
@[simp] theorem memPut_clock : (memPut s a x).clock = s.clock := rfl
@[simp] theorem memPut_boot : (memPut s a x).boot = s.boot := rfl
@[simp] theorem memPut_dbg : (memPut s a x).dbg = s.dbg := rfl
@[simp] theorem memPut_keks : (memPut s a x).keks = s.keks := rfl
@[simp] theorem memPut_imageKeys : (memPut s a x).imageKeys = s.imageKeys := rfl
@[simp] theorem memPut_images : (memPut s a x).images = s.images := rfl
@[simp] theorem memPut_loader : (memPut s a x).loader = s.loader := rfl
@[simp] theorem memPut_kekJob : (memPut s a x).kekJob = s.kekJob := rfl
@[simp] theorem memPut_lkJob : (memPut s a x).lkJob = s.lkJob := rfl
@[simp] theorem memPut_slotKeys : (memPut s a x).slotKeys = s.slotKeys := rfl
@[simp] theorem memPut_slotGen : (memPut s a x).slotGen = s.slotGen := rfl
@[simp] theorem memPut_genBase : (memPut s a x).genBase = s.genBase := rfl
@[simp] theorem memPut_stateKey : (memPut s a x).stateKey = s.stateKey := rfl
@[simp] theorem memPut_noiseCnt : (memPut s a x).noiseCnt = s.noiseCnt := rfl
@[simp] theorem memPut_linkKeys : (memPut s a x).linkKeys = s.linkKeys := rfl
@[simp] theorem memPut_linkCtr : (memPut s a x).linkCtr = s.linkCtr := rfl
@[simp] theorem memPut_withheld : (memPut s a x).withheld = s.withheld := rfl
@[simp] theorem memPut_engTimes : (memPut s a x).engTimes = s.engTimes := rfl
@[simp] theorem memPut_belLast : (memPut s a x).belLast = s.belLast := rfl
@[simp] theorem memPut_dir : (memPut s a x).dir = s.dir := rfl
@[simp] theorem memPut_dirClock : (memPut s a x).dirClock = s.dirClock := rfl
@[simp] theorem memPut_dram : (memPut s a x).dram = s.dram := rfl
@[simp] theorem memPut_l3 : (memPut s a x).l3 = s.l3 := rfl
@[simp] theorem memPut_trk : (memPut s a x).trk = s.trk := rfl
@[simp] theorem memPut_txns : (memPut s a x).txns = s.txns := rfl
@[simp] theorem memPut_homeQ : (memPut s a x).homeQ = s.homeQ := rfl
@[simp] theorem memPut_atNode : (memPut s a x).atNode = s.atNode := rfl
@[simp] theorem memPut_cmps : (memPut s a x).cmps = s.cmps := rfl
@[simp] theorem memPut_gports : (memPut s a x).gports = s.gports := rfl
@[simp] theorem memPut_fab : (memPut s a x).fab = s.fab := rfl
@[simp] theorem memPut_served : (memPut s a x).served = s.served := rfl
@[simp] theorem memPut_refused : (memPut s a x).refused = s.refused := rfl
@[simp] theorem memPut_starts : (memPut s a x).starts = s.starts := rfl
@[simp] theorem memPut_ring : (memPut s a x).ring = s.ring := rfl
@[simp] theorem memPut_stats : (memPut s a x).stats = s.stats := rfl
@[simp] theorem memPut_statSeq : (memPut s a x).statSeq = s.statSeq := rfl
@[simp] theorem memPut_susp : (memPut s a x).susp = s.susp := rfl
@[simp] theorem memPut_sense : (memPut s a x).sense = s.sense := rfl
@[simp] theorem memPut_xidNext : (memPut s a x).xidNext = s.xidNext := rfl
@[simp] theorem memPut_newest : (memPut s a x).newest = s.newest := rfl
@[simp] theorem memPut_epoch : (memPut s a x).epoch = s.epoch := rfl
@[simp] theorem memPut_pairs : (memPut s a x).pairs = s.pairs := rfl
@[simp] theorem memPut_ended : (memPut s a x).ended = s.ended := rfl
@[simp] theorem memPut_endacks : (memPut s a x).endacks = s.endacks := rfl
@[simp] theorem memPut_failRep : (memPut s a x).failRep = s.failRep := rfl
@[simp] theorem memPut_micro : (memPut s a x).micro = s.micro := rfl
@[simp] theorem memPut_fresh : (memPut s a x).fresh = s.fresh := rfl
@[simp] theorem memPut_pending : (memPut s a x).pending = s.pending := rfl
@[simp] theorem ccsGet_memPut : ccsGet (memPut s a x) b = ccsGet s b := rfl
@[simp] theorem pu_memPut : (memPut s a x).pu k = s.pu k := rfl

/-! ### memPutRaw -/

@[simp] theorem memPutRaw_regs : (memPutRaw s a x).regs = s.regs := rfl
@[simp] theorem memPutRaw_pend : (memPutRaw s a x).pend = s.pend := rfl
@[simp] theorem memPutRaw_pus : (memPutRaw s a x).pus = s.pus := rfl
@[simp] theorem memPutRaw_tod : (memPutRaw s a x).tod = s.tod := rfl
@[simp] theorem memPutRaw_tbHist : (memPutRaw s a x).tbHist = s.tbHist := rfl
@[simp] theorem memPutRaw_serv : (memPutRaw s a x).serv = s.serv := rfl
@[simp] theorem memPutRaw_ioInts : (memPutRaw s a x).ioInts = s.ioInts := rfl
@[simp] theorem memPutRaw_freeCores : (memPutRaw s a x).freeCores = s.freeCores := rfl
@[simp] theorem memPutRaw_idleCores : (memPutRaw s a x).idleCores = s.idleCores := rfl
@[simp] theorem memPutRaw_sent : (memPutRaw s a x).sent = s.sent := rfl
@[simp] theorem memPutRaw_ep : (memPutRaw s a x).ep = s.ep := rfl
@[simp] theorem memPutRaw_clock : (memPutRaw s a x).clock = s.clock := rfl
@[simp] theorem memPutRaw_boot : (memPutRaw s a x).boot = s.boot := rfl
@[simp] theorem memPutRaw_dbg : (memPutRaw s a x).dbg = s.dbg := rfl
@[simp] theorem memPutRaw_keks : (memPutRaw s a x).keks = s.keks := rfl
@[simp] theorem memPutRaw_imageKeys : (memPutRaw s a x).imageKeys = s.imageKeys := rfl
@[simp] theorem memPutRaw_images : (memPutRaw s a x).images = s.images := rfl
@[simp] theorem memPutRaw_loader : (memPutRaw s a x).loader = s.loader := rfl
@[simp] theorem memPutRaw_kekJob : (memPutRaw s a x).kekJob = s.kekJob := rfl
@[simp] theorem memPutRaw_lkJob : (memPutRaw s a x).lkJob = s.lkJob := rfl
@[simp] theorem memPutRaw_slotKeys : (memPutRaw s a x).slotKeys = s.slotKeys := rfl
@[simp] theorem memPutRaw_slotGen : (memPutRaw s a x).slotGen = s.slotGen := rfl
@[simp] theorem memPutRaw_genBase : (memPutRaw s a x).genBase = s.genBase := rfl
@[simp] theorem memPutRaw_stateKey : (memPutRaw s a x).stateKey = s.stateKey := rfl
@[simp] theorem memPutRaw_noiseCnt : (memPutRaw s a x).noiseCnt = s.noiseCnt := rfl
@[simp] theorem memPutRaw_linkKeys : (memPutRaw s a x).linkKeys = s.linkKeys := rfl
@[simp] theorem memPutRaw_linkCtr : (memPutRaw s a x).linkCtr = s.linkCtr := rfl
@[simp] theorem memPutRaw_withheld : (memPutRaw s a x).withheld = s.withheld := rfl
@[simp] theorem memPutRaw_engTimes : (memPutRaw s a x).engTimes = s.engTimes := rfl
@[simp] theorem memPutRaw_belLast : (memPutRaw s a x).belLast = s.belLast := rfl
@[simp] theorem memPutRaw_dir : (memPutRaw s a x).dir = s.dir := rfl
@[simp] theorem memPutRaw_dirClock : (memPutRaw s a x).dirClock = s.dirClock := rfl
@[simp] theorem memPutRaw_dram : (memPutRaw s a x).dram = s.dram := rfl
@[simp] theorem memPutRaw_l3 : (memPutRaw s a x).l3 = s.l3 := rfl
@[simp] theorem memPutRaw_trk : (memPutRaw s a x).trk = s.trk := rfl
@[simp] theorem memPutRaw_txns : (memPutRaw s a x).txns = s.txns := rfl
@[simp] theorem memPutRaw_homeQ : (memPutRaw s a x).homeQ = s.homeQ := rfl
@[simp] theorem memPutRaw_atNode : (memPutRaw s a x).atNode = s.atNode := rfl
@[simp] theorem memPutRaw_cmps : (memPutRaw s a x).cmps = s.cmps := rfl
@[simp] theorem memPutRaw_gports : (memPutRaw s a x).gports = s.gports := rfl
@[simp] theorem memPutRaw_fab : (memPutRaw s a x).fab = s.fab := rfl
@[simp] theorem memPutRaw_served : (memPutRaw s a x).served = s.served := rfl
@[simp] theorem memPutRaw_refused : (memPutRaw s a x).refused = s.refused := rfl
@[simp] theorem memPutRaw_starts : (memPutRaw s a x).starts = s.starts := rfl
@[simp] theorem memPutRaw_ring : (memPutRaw s a x).ring = s.ring := rfl
@[simp] theorem memPutRaw_stats : (memPutRaw s a x).stats = s.stats := rfl
@[simp] theorem memPutRaw_statSeq : (memPutRaw s a x).statSeq = s.statSeq := rfl
@[simp] theorem memPutRaw_susp : (memPutRaw s a x).susp = s.susp := rfl
@[simp] theorem memPutRaw_sense : (memPutRaw s a x).sense = s.sense := rfl
@[simp] theorem memPutRaw_xidNext : (memPutRaw s a x).xidNext = s.xidNext := rfl
@[simp] theorem memPutRaw_newest : (memPutRaw s a x).newest = s.newest := rfl
@[simp] theorem memPutRaw_epoch : (memPutRaw s a x).epoch = s.epoch := rfl
@[simp] theorem memPutRaw_pairs : (memPutRaw s a x).pairs = s.pairs := rfl
@[simp] theorem memPutRaw_ended : (memPutRaw s a x).ended = s.ended := rfl
@[simp] theorem memPutRaw_endacks : (memPutRaw s a x).endacks = s.endacks := rfl
@[simp] theorem memPutRaw_failRep : (memPutRaw s a x).failRep = s.failRep := rfl
@[simp] theorem memPutRaw_micro : (memPutRaw s a x).micro = s.micro := rfl
@[simp] theorem memPutRaw_fresh : (memPutRaw s a x).fresh = s.fresh := rfl
@[simp] theorem memPutRaw_pending : (memPutRaw s a x).pending = s.pending := rfl
@[simp] theorem ccsGet_memPutRaw : ccsGet (memPutRaw s a x) b = ccsGet s b := rfl
@[simp] theorem pu_memPutRaw : (memPutRaw s a x).pu k = s.pu k := rfl

/-! ### drawFree -/

@[simp] theorem drawFree_mem : ((drawFree s).2).mem = s.mem := rfl
@[simp] theorem drawFree_regs : ((drawFree s).2).regs = s.regs := rfl
@[simp] theorem drawFree_pend : ((drawFree s).2).pend = s.pend := rfl
@[simp] theorem drawFree_pus : ((drawFree s).2).pus = s.pus := rfl
@[simp] theorem drawFree_tod : ((drawFree s).2).tod = s.tod := rfl
@[simp] theorem drawFree_tbHist : ((drawFree s).2).tbHist = s.tbHist := rfl
@[simp] theorem drawFree_serv : ((drawFree s).2).serv = s.serv := rfl
@[simp] theorem drawFree_ioInts : ((drawFree s).2).ioInts = s.ioInts := rfl
@[simp] theorem drawFree_freeCores : ((drawFree s).2).freeCores = s.freeCores := rfl
@[simp] theorem drawFree_idleCores : ((drawFree s).2).idleCores = s.idleCores := rfl
@[simp] theorem drawFree_sent : ((drawFree s).2).sent = s.sent := rfl
@[simp] theorem drawFree_ep : ((drawFree s).2).ep = s.ep := rfl
@[simp] theorem drawFree_clock : ((drawFree s).2).clock = s.clock := rfl
@[simp] theorem drawFree_boot : ((drawFree s).2).boot = s.boot := rfl
@[simp] theorem drawFree_dbg : ((drawFree s).2).dbg = s.dbg := rfl
@[simp] theorem drawFree_keks : ((drawFree s).2).keks = s.keks := rfl
@[simp] theorem drawFree_imageKeys : ((drawFree s).2).imageKeys = s.imageKeys := rfl
@[simp] theorem drawFree_images : ((drawFree s).2).images = s.images := rfl
@[simp] theorem drawFree_loader : ((drawFree s).2).loader = s.loader := rfl
@[simp] theorem drawFree_kekJob : ((drawFree s).2).kekJob = s.kekJob := rfl
@[simp] theorem drawFree_lkJob : ((drawFree s).2).lkJob = s.lkJob := rfl
@[simp] theorem drawFree_slotKeys : ((drawFree s).2).slotKeys = s.slotKeys := rfl
@[simp] theorem drawFree_slotGen : ((drawFree s).2).slotGen = s.slotGen := rfl
@[simp] theorem drawFree_genBase : ((drawFree s).2).genBase = s.genBase := rfl
@[simp] theorem drawFree_stateKey : ((drawFree s).2).stateKey = s.stateKey := rfl
@[simp] theorem drawFree_noiseCnt : ((drawFree s).2).noiseCnt = s.noiseCnt := rfl
@[simp] theorem drawFree_linkKeys : ((drawFree s).2).linkKeys = s.linkKeys := rfl
@[simp] theorem drawFree_linkCtr : ((drawFree s).2).linkCtr = s.linkCtr := rfl
@[simp] theorem drawFree_withheld : ((drawFree s).2).withheld = s.withheld := rfl
@[simp] theorem drawFree_engTimes : ((drawFree s).2).engTimes = s.engTimes := rfl
@[simp] theorem drawFree_belLast : ((drawFree s).2).belLast = s.belLast := rfl
@[simp] theorem drawFree_dir : ((drawFree s).2).dir = s.dir := rfl
@[simp] theorem drawFree_dirClock : ((drawFree s).2).dirClock = s.dirClock := rfl
@[simp] theorem drawFree_dram : ((drawFree s).2).dram = s.dram := rfl
@[simp] theorem drawFree_l3 : ((drawFree s).2).l3 = s.l3 := rfl
@[simp] theorem drawFree_trk : ((drawFree s).2).trk = s.trk := rfl
@[simp] theorem drawFree_txns : ((drawFree s).2).txns = s.txns := rfl
@[simp] theorem drawFree_homeQ : ((drawFree s).2).homeQ = s.homeQ := rfl
@[simp] theorem drawFree_atNode : ((drawFree s).2).atNode = s.atNode := rfl
@[simp] theorem drawFree_cmps : ((drawFree s).2).cmps = s.cmps := rfl
@[simp] theorem drawFree_gports : ((drawFree s).2).gports = s.gports := rfl
@[simp] theorem drawFree_fab : ((drawFree s).2).fab = s.fab := rfl
@[simp] theorem drawFree_served : ((drawFree s).2).served = s.served := rfl
@[simp] theorem drawFree_refused : ((drawFree s).2).refused = s.refused := rfl
@[simp] theorem drawFree_starts : ((drawFree s).2).starts = s.starts := rfl
@[simp] theorem drawFree_ring : ((drawFree s).2).ring = s.ring := rfl
@[simp] theorem drawFree_stats : ((drawFree s).2).stats = s.stats := rfl
@[simp] theorem drawFree_statSeq : ((drawFree s).2).statSeq = s.statSeq := rfl
@[simp] theorem drawFree_susp : ((drawFree s).2).susp = s.susp := rfl
@[simp] theorem drawFree_sense : ((drawFree s).2).sense = s.sense := rfl
@[simp] theorem drawFree_xidNext : ((drawFree s).2).xidNext = s.xidNext := rfl
@[simp] theorem drawFree_newest : ((drawFree s).2).newest = s.newest := rfl
@[simp] theorem drawFree_epoch : ((drawFree s).2).epoch = s.epoch := rfl
@[simp] theorem drawFree_pairs : ((drawFree s).2).pairs = s.pairs := rfl
@[simp] theorem drawFree_ended : ((drawFree s).2).ended = s.ended := rfl
@[simp] theorem drawFree_endacks : ((drawFree s).2).endacks = s.endacks := rfl
@[simp] theorem drawFree_failRep : ((drawFree s).2).failRep = s.failRep := rfl
@[simp] theorem drawFree_micro : ((drawFree s).2).micro = s.micro := rfl
@[simp] theorem drawFree_pending : ((drawFree s).2).pending = s.pending := rfl
@[simp] theorem ccsGet_drawFree : ccsGet ((drawFree s).2) b = ccsGet s b := rfl
@[simp] theorem memGet_drawFree : memGet ((drawFree s).2) b = memGet s b := rfl
@[simp] theorem pu_drawFree : ((drawFree s).2).pu k = s.pu k := rfl

/-! ### send -/

@[simp] theorem send_mem (c : SentKind) (l : List Nat) : (send s c l).mem = s.mem := rfl
@[simp] theorem send_regs (c : SentKind) (l : List Nat) : (send s c l).regs = s.regs := rfl
@[simp] theorem send_pend (c : SentKind) (l : List Nat) : (send s c l).pend = s.pend := rfl
@[simp] theorem send_pus (c : SentKind) (l : List Nat) : (send s c l).pus = s.pus := rfl
@[simp] theorem send_tod (c : SentKind) (l : List Nat) : (send s c l).tod = s.tod := rfl
@[simp] theorem send_tbHist (c : SentKind) (l : List Nat) : (send s c l).tbHist = s.tbHist := rfl
@[simp] theorem send_serv (c : SentKind) (l : List Nat) : (send s c l).serv = s.serv := rfl
@[simp] theorem send_ioInts (c : SentKind) (l : List Nat) : (send s c l).ioInts = s.ioInts := rfl
@[simp] theorem send_freeCores (c : SentKind) (l : List Nat) : (send s c l).freeCores = s.freeCores := rfl
@[simp] theorem send_idleCores (c : SentKind) (l : List Nat) : (send s c l).idleCores = s.idleCores := rfl
@[simp] theorem send_ep (c : SentKind) (l : List Nat) : (send s c l).ep = s.ep := rfl
@[simp] theorem send_clock (c : SentKind) (l : List Nat) : (send s c l).clock = s.clock := rfl
@[simp] theorem send_boot (c : SentKind) (l : List Nat) : (send s c l).boot = s.boot := rfl
@[simp] theorem send_dbg (c : SentKind) (l : List Nat) : (send s c l).dbg = s.dbg := rfl
@[simp] theorem send_keks (c : SentKind) (l : List Nat) : (send s c l).keks = s.keks := rfl
@[simp] theorem send_imageKeys (c : SentKind) (l : List Nat) : (send s c l).imageKeys = s.imageKeys := rfl
@[simp] theorem send_images (c : SentKind) (l : List Nat) : (send s c l).images = s.images := rfl
@[simp] theorem send_loader (c : SentKind) (l : List Nat) : (send s c l).loader = s.loader := rfl
@[simp] theorem send_kekJob (c : SentKind) (l : List Nat) : (send s c l).kekJob = s.kekJob := rfl
@[simp] theorem send_lkJob (c : SentKind) (l : List Nat) : (send s c l).lkJob = s.lkJob := rfl
@[simp] theorem send_slotKeys (c : SentKind) (l : List Nat) : (send s c l).slotKeys = s.slotKeys := rfl
@[simp] theorem send_slotGen (c : SentKind) (l : List Nat) : (send s c l).slotGen = s.slotGen := rfl
@[simp] theorem send_genBase (c : SentKind) (l : List Nat) : (send s c l).genBase = s.genBase := rfl
@[simp] theorem send_stateKey (c : SentKind) (l : List Nat) : (send s c l).stateKey = s.stateKey := rfl
@[simp] theorem send_noiseCnt (c : SentKind) (l : List Nat) : (send s c l).noiseCnt = s.noiseCnt := rfl
@[simp] theorem send_linkKeys (c : SentKind) (l : List Nat) : (send s c l).linkKeys = s.linkKeys := rfl
@[simp] theorem send_linkCtr (c : SentKind) (l : List Nat) : (send s c l).linkCtr = s.linkCtr := rfl
@[simp] theorem send_withheld (c : SentKind) (l : List Nat) : (send s c l).withheld = s.withheld := rfl
@[simp] theorem send_engTimes (c : SentKind) (l : List Nat) : (send s c l).engTimes = s.engTimes := rfl
@[simp] theorem send_belLast (c : SentKind) (l : List Nat) : (send s c l).belLast = s.belLast := rfl
@[simp] theorem send_dir (c : SentKind) (l : List Nat) : (send s c l).dir = s.dir := rfl
@[simp] theorem send_dirClock (c : SentKind) (l : List Nat) : (send s c l).dirClock = s.dirClock := rfl
@[simp] theorem send_dram (c : SentKind) (l : List Nat) : (send s c l).dram = s.dram := rfl
@[simp] theorem send_l3 (c : SentKind) (l : List Nat) : (send s c l).l3 = s.l3 := rfl
@[simp] theorem send_trk (c : SentKind) (l : List Nat) : (send s c l).trk = s.trk := rfl
@[simp] theorem send_txns (c : SentKind) (l : List Nat) : (send s c l).txns = s.txns := rfl
@[simp] theorem send_homeQ (c : SentKind) (l : List Nat) : (send s c l).homeQ = s.homeQ := rfl
@[simp] theorem send_atNode (c : SentKind) (l : List Nat) : (send s c l).atNode = s.atNode := rfl
@[simp] theorem send_cmps (c : SentKind) (l : List Nat) : (send s c l).cmps = s.cmps := rfl
@[simp] theorem send_gports (c : SentKind) (l : List Nat) : (send s c l).gports = s.gports := rfl
@[simp] theorem send_fab (c : SentKind) (l : List Nat) : (send s c l).fab = s.fab := rfl
@[simp] theorem send_served (c : SentKind) (l : List Nat) : (send s c l).served = s.served := rfl
@[simp] theorem send_refused (c : SentKind) (l : List Nat) : (send s c l).refused = s.refused := rfl
@[simp] theorem send_starts (c : SentKind) (l : List Nat) : (send s c l).starts = s.starts := rfl
@[simp] theorem send_ring (c : SentKind) (l : List Nat) : (send s c l).ring = s.ring := rfl
@[simp] theorem send_stats (c : SentKind) (l : List Nat) : (send s c l).stats = s.stats := rfl
@[simp] theorem send_statSeq (c : SentKind) (l : List Nat) : (send s c l).statSeq = s.statSeq := rfl
@[simp] theorem send_susp (c : SentKind) (l : List Nat) : (send s c l).susp = s.susp := rfl
@[simp] theorem send_sense (c : SentKind) (l : List Nat) : (send s c l).sense = s.sense := rfl
@[simp] theorem send_xidNext (c : SentKind) (l : List Nat) : (send s c l).xidNext = s.xidNext := rfl
@[simp] theorem send_newest (c : SentKind) (l : List Nat) : (send s c l).newest = s.newest := rfl
@[simp] theorem send_epoch (c : SentKind) (l : List Nat) : (send s c l).epoch = s.epoch := rfl
@[simp] theorem send_pairs (c : SentKind) (l : List Nat) : (send s c l).pairs = s.pairs := rfl
@[simp] theorem send_ended (c : SentKind) (l : List Nat) : (send s c l).ended = s.ended := rfl
@[simp] theorem send_endacks (c : SentKind) (l : List Nat) : (send s c l).endacks = s.endacks := rfl
@[simp] theorem send_failRep (c : SentKind) (l : List Nat) : (send s c l).failRep = s.failRep := rfl
@[simp] theorem send_micro (c : SentKind) (l : List Nat) : (send s c l).micro = s.micro := rfl
@[simp] theorem send_fresh (c : SentKind) (l : List Nat) : (send s c l).fresh = s.fresh := rfl
@[simp] theorem send_pending (c : SentKind) (l : List Nat) : (send s c l).pending = s.pending := rfl
@[simp] theorem ccsGet_send (c : SentKind) (l : List Nat) : ccsGet (send s c l) b = ccsGet s b := rfl
@[simp] theorem memGet_send (c : SentKind) (l : List Nat) : memGet (send s c l) b = memGet s b := rfl
@[simp] theorem pu_send (c : SentKind) (l : List Nat) : (send s c l).pu k = s.pu k := rfl

/-! ### Reading after writing -/

@[simp] theorem ccsGet_ccsPut_self : ccsGet (ccsPut s a w) a = w := by simp [ccsGet, ccsPut]

theorem ccsGet_ccsPut_ne (h : b ≠ a) : ccsGet (ccsPut s a w) b = ccsGet s b := by
  simp [ccsGet, ccsPut, spGet_spSet_ne _ _ _ _ _ _ h]

@[simp] theorem ccsGet_ccsSet_self : ccsGet (ccsSet s a hi lo v) a = wordSet (ccsGet s a) hi lo v := by simp [ccsSet]

theorem ccsGet_ccsSet_ne (h : b ≠ a) : ccsGet (ccsSet s a hi lo v) b = ccsGet s b := by
  simp [ccsSet, ccsGet_ccsPut_ne _ _ _ _ h]

@[simp] theorem ccsPut_ccsPut (w' : Word) : ccsPut (ccsPut s a w) a w' = ccsPut s a w' := by simp [ccsPut]

@[simp] theorem pu_setPu_self : (s.setPu n p).pu n = p := by simp [State.pu, State.setPu]

theorem pu_setPu_ne (h : k ≠ n) : (s.setPu n p).pu k = s.pu k := by
  simp [State.pu, State.setPu, spGet_spSet_ne _ _ _ _ _ _ h]

@[simp] theorem pu_modPu_self : (s.modPu n f).pu n = f (s.pu n) := by simp [State.modPu]

theorem pu_modPu_ne (h : k ≠ n) : (s.modPu n f).pu k = s.pu k := by simp [State.modPu, pu_setPu_ne _ _ _ _ h]

theorem pu_modPu : (s.modPu n f).pu k = if k = n then f (s.pu n) else s.pu k := by
  by_cases h : k = n
  · simp [h]
  · simp [h, pu_modPu_ne]

@[simp] theorem setPu_setPu (q : Pu) : (s.setPu n p).setPu n q = s.setPu n q := by simp [State.setPu]

@[simp] theorem modPu_modPu (g : Pu → Pu) : (s.modPu n f).modPu n g = s.modPu n (fun p => g (f p)) := by
  simp [State.modPu]

@[simp] theorem memGet_memPut_self : memGet (memPut s a x) a = x := by simp [memGet, memPut]

theorem memGet_memPut_ne (h : b ≠ a) : memGet (memPut s a x) b = memGet s b := by
  simp [memGet, memPut, spGet_spSet_ne _ _ _ _ _ _ h]

@[simp] theorem memGet_memPutRaw_self : memGet (memPutRaw s a x) a = x := by simp [memGet, memPutRaw]

theorem memGet_memPutRaw_ne (h : b ≠ a) : memGet (memPutRaw s a x) b = memGet s b := by
  simp [memGet, memPutRaw, spGet_spSet_ne _ _ _ _ _ _ h]

@[simp] theorem reg_setReg_self : (p.setReg n x).reg n = x := by simp [Pu.reg, Pu.setReg]

theorem reg_setReg_ne (h : k ≠ n) : (p.setReg n x).reg k = p.reg k := by
  simp [Pu.reg, Pu.setReg, spGet_spSet_ne _ _ _ _ _ _ h]

theorem reg_setReg : (p.setReg n x).reg k = if k = n then x else p.reg k := by
  by_cases h : k = n
  · simp [h]
  · simp [h, reg_setReg_ne]

@[simp] theorem bank_setBank_self (c : Bank) : (p.setBank n c).bank n = c := by simp [Pu.bank, Pu.setBank]

theorem bank_setBank_ne (c : Bank) (h : k ≠ n) : (p.setBank n c).bank k = p.bank k := by
  simp [Pu.bank, Pu.setBank, spGet_spSet_ne _ _ _ _ _ _ h]

@[simp] theorem ctlReg_setCtl_self : (p.setCtl n w).ctlReg n = w &&& ctlMask n := by simp [Pu.ctlReg, Pu.setCtl]

theorem ctlReg_setCtl_ne (h : k ≠ n) : (p.setCtl n w).ctlReg k = p.ctlReg k := by
  simp [Pu.ctlReg, Pu.setCtl, spGet_spSet_ne _ _ _ _ _ _ h]

theorem setPsw_reg (y : BitVec 128) : ({ p with psw := y } : Pu).reg k = p.reg k := rfl

theorem setPsw_bank (y : BitVec 128) : ({ p with psw := y } : Pu).bank k = p.bank k := rfl

theorem setPsw_ctlReg (y : BitVec 128) : ({ p with psw := y } : Pu).ctlReg k = p.ctlReg k := rfl

/-! ### Pu.setReg -/

@[simp] theorem setReg_b : (p.setReg n x).b = p.b := rfl
@[simp] theorem setReg_rsp : (p.setReg n x).rsp = p.rsp := rfl
@[simp] theorem setReg_psw : (p.setReg n x).psw = p.psw := rfl
@[simp] theorem setReg_ctl : (p.setReg n x).ctl = p.ctl := rfl
@[simp] theorem setReg_pfxArea : (p.setReg n x).pfxArea = p.pfxArea := rfl
@[simp] theorem setReg_fpc : (p.setReg n x).fpc = p.fpc := rfl
@[simp] theorem setReg_fpfia : (p.setReg n x).fpfia = p.fpfia := rfl
@[simp] theorem setReg_busy : (p.setReg n x).busy = p.busy := rfl
@[simp] theorem setReg_xcall : (p.setReg n x).xcall = p.xcall := rfl
@[simp] theorem setReg_restart : (p.setReg n x).restart = p.restart := rfl
@[simp] theorem setReg_cutEv : (p.setReg n x).cutEv = p.cutEv := rfl
@[simp] theorem setReg_stopHeld : (p.setReg n x).stopHeld = p.stopHeld := rfl
@[simp] theorem setReg_mcExt : (p.setReg n x).mcExt = p.mcExt := rfl
@[simp] theorem setReg_mcDegr : (p.setReg n x).mcDegr = p.mcDegr := rfl
@[simp] theorem setReg_mcWarn : (p.setReg n x).mcWarn = p.mcWarn := rfl
@[simp] theorem setReg_mcRecv : (p.setReg n x).mcRecv = p.mcRecv := rfl
@[simp] theorem setReg_mcImm : (p.setReg n x).mcImm = p.mcImm := rfl
@[simp] theorem setReg_prog : (p.setReg n x).prog = p.prog := rfl
@[simp] theorem setReg_clkPend : (p.setReg n x).clkPend = p.clkPend := rfl
@[simp] theorem setReg_ioResv : (p.setReg n x).ioResv = p.ioResv := rfl
@[simp] theorem setReg_resume : (p.setReg n x).resume = p.resume := rfl
@[simp] theorem setReg_latch : (p.setReg n x).latch = p.latch := rfl
@[simp] theorem setReg_latchPos : (p.setReg n x).latchPos = p.latchPos := rfl
@[simp] theorem setReg_unitHold : (p.setReg n x).unitHold = p.unitHold := rfl
@[simp] theorem setReg_mb : (p.setReg n x).mb = p.mb := rfl
@[simp] theorem setReg_l2 : (p.setReg n x).l2 = p.l2 := rfl
@[simp] theorem setReg_microBad : (p.setReg n x).microBad = p.microBad := rfl
@[simp] theorem setReg_l1i : (p.setReg n x).l1i = p.l1i := rfl
@[simp] theorem setReg_l1d : (p.setReg n x).l1d = p.l1d := rfl
@[simp] theorem setReg_touched : (p.setReg n x).touched = p.touched := rfl
@[simp] theorem setReg_l2resv : (p.setReg n x).l2resv = p.l2resv := rfl
@[simp] theorem setReg_pred : (p.setReg n x).pred = p.pred := rfl
@[simp] theorem setReg_near : (p.setReg n x).near = p.near := rfl
@[simp] theorem setReg_l2cmd : (p.setReg n x).l2cmd = p.l2cmd := rfl
@[simp] theorem setReg_devLoad : (p.setReg n x).devLoad = p.devLoad := rfl
@[simp] theorem setReg_job : (p.setReg n x).job = p.job := rfl
@[simp] theorem setReg_atomReq : (p.setReg n x).atomReq = p.atomReq := rfl
@[simp] theorem setReg_tbMark : (p.setReg n x).tbMark = p.tbMark := rfl
@[simp] theorem setReg_chanCnt : (p.setReg n x).chanCnt = p.chanCnt := rfl
@[simp] theorem setReg_due : (p.setReg n x).due = p.due := rfl
@[simp] theorem setReg_resync : (p.setReg n x).resync = p.resync := rfl
@[simp] theorem setReg_dupTimes : (p.setReg n x).dupTimes = p.dupTimes := rfl
@[simp] theorem setReg_standIn : (p.setReg n x).standIn = p.standIn := rfl
@[simp] theorem setReg_puJob : (p.setReg n x).puJob = p.puJob := rfl
@[simp] theorem setReg_halted : (p.setReg n x).halted = p.halted := rfl
@[simp] theorem setReg_stepArm : (p.setReg n x).stepArm = p.stepArm := rfl
@[simp] theorem setReg_haltReq : (p.setReg n x).haltReq = p.haltReq := rfl
@[simp] theorem setReg_loaderStop : (p.setReg n x).loaderStop = p.loaderStop := rfl
@[simp] theorem setReg_lastTod : (p.setReg n x).lastTod = p.lastTod := rfl
@[simp] theorem bank_setReg : (p.setReg n x).bank k = p.bank k := rfl
@[simp] theorem ctlReg_setReg : (p.setReg n x).ctlReg k = p.ctlReg k := rfl

/-! ### Pu.setBank -/

@[simp] theorem setBank_g (c : Bank) : (p.setBank n c).g = p.g := rfl
@[simp] theorem setBank_rsp (c : Bank) : (p.setBank n c).rsp = p.rsp := rfl
@[simp] theorem setBank_psw (c : Bank) : (p.setBank n c).psw = p.psw := rfl
@[simp] theorem setBank_ctl (c : Bank) : (p.setBank n c).ctl = p.ctl := rfl
@[simp] theorem setBank_pfxArea (c : Bank) : (p.setBank n c).pfxArea = p.pfxArea := rfl
@[simp] theorem setBank_fpc (c : Bank) : (p.setBank n c).fpc = p.fpc := rfl
@[simp] theorem setBank_fpfia (c : Bank) : (p.setBank n c).fpfia = p.fpfia := rfl
@[simp] theorem setBank_busy (c : Bank) : (p.setBank n c).busy = p.busy := rfl
@[simp] theorem setBank_xcall (c : Bank) : (p.setBank n c).xcall = p.xcall := rfl
@[simp] theorem setBank_restart (c : Bank) : (p.setBank n c).restart = p.restart := rfl
@[simp] theorem setBank_cutEv (c : Bank) : (p.setBank n c).cutEv = p.cutEv := rfl
@[simp] theorem setBank_stopHeld (c : Bank) : (p.setBank n c).stopHeld = p.stopHeld := rfl
@[simp] theorem setBank_mcExt (c : Bank) : (p.setBank n c).mcExt = p.mcExt := rfl
@[simp] theorem setBank_mcDegr (c : Bank) : (p.setBank n c).mcDegr = p.mcDegr := rfl
@[simp] theorem setBank_mcWarn (c : Bank) : (p.setBank n c).mcWarn = p.mcWarn := rfl
@[simp] theorem setBank_mcRecv (c : Bank) : (p.setBank n c).mcRecv = p.mcRecv := rfl
@[simp] theorem setBank_mcImm (c : Bank) : (p.setBank n c).mcImm = p.mcImm := rfl
@[simp] theorem setBank_prog (c : Bank) : (p.setBank n c).prog = p.prog := rfl
@[simp] theorem setBank_clkPend (c : Bank) : (p.setBank n c).clkPend = p.clkPend := rfl
@[simp] theorem setBank_ioResv (c : Bank) : (p.setBank n c).ioResv = p.ioResv := rfl
@[simp] theorem setBank_resume (c : Bank) : (p.setBank n c).resume = p.resume := rfl
@[simp] theorem setBank_latch (c : Bank) : (p.setBank n c).latch = p.latch := rfl
@[simp] theorem setBank_latchPos (c : Bank) : (p.setBank n c).latchPos = p.latchPos := rfl
@[simp] theorem setBank_unitHold (c : Bank) : (p.setBank n c).unitHold = p.unitHold := rfl
@[simp] theorem setBank_mb (c : Bank) : (p.setBank n c).mb = p.mb := rfl
@[simp] theorem setBank_l2 (c : Bank) : (p.setBank n c).l2 = p.l2 := rfl
@[simp] theorem setBank_microBad (c : Bank) : (p.setBank n c).microBad = p.microBad := rfl
@[simp] theorem setBank_l1i (c : Bank) : (p.setBank n c).l1i = p.l1i := rfl
@[simp] theorem setBank_l1d (c : Bank) : (p.setBank n c).l1d = p.l1d := rfl
@[simp] theorem setBank_touched (c : Bank) : (p.setBank n c).touched = p.touched := rfl
@[simp] theorem setBank_l2resv (c : Bank) : (p.setBank n c).l2resv = p.l2resv := rfl
@[simp] theorem setBank_pred (c : Bank) : (p.setBank n c).pred = p.pred := rfl
@[simp] theorem setBank_near (c : Bank) : (p.setBank n c).near = p.near := rfl
@[simp] theorem setBank_l2cmd (c : Bank) : (p.setBank n c).l2cmd = p.l2cmd := rfl
@[simp] theorem setBank_devLoad (c : Bank) : (p.setBank n c).devLoad = p.devLoad := rfl
@[simp] theorem setBank_job (c : Bank) : (p.setBank n c).job = p.job := rfl
@[simp] theorem setBank_atomReq (c : Bank) : (p.setBank n c).atomReq = p.atomReq := rfl
@[simp] theorem setBank_tbMark (c : Bank) : (p.setBank n c).tbMark = p.tbMark := rfl
@[simp] theorem setBank_chanCnt (c : Bank) : (p.setBank n c).chanCnt = p.chanCnt := rfl
@[simp] theorem setBank_due (c : Bank) : (p.setBank n c).due = p.due := rfl
@[simp] theorem setBank_resync (c : Bank) : (p.setBank n c).resync = p.resync := rfl
@[simp] theorem setBank_dupTimes (c : Bank) : (p.setBank n c).dupTimes = p.dupTimes := rfl
@[simp] theorem setBank_standIn (c : Bank) : (p.setBank n c).standIn = p.standIn := rfl
@[simp] theorem setBank_puJob (c : Bank) : (p.setBank n c).puJob = p.puJob := rfl
@[simp] theorem setBank_halted (c : Bank) : (p.setBank n c).halted = p.halted := rfl
@[simp] theorem setBank_stepArm (c : Bank) : (p.setBank n c).stepArm = p.stepArm := rfl
@[simp] theorem setBank_haltReq (c : Bank) : (p.setBank n c).haltReq = p.haltReq := rfl
@[simp] theorem setBank_loaderStop (c : Bank) : (p.setBank n c).loaderStop = p.loaderStop := rfl
@[simp] theorem setBank_lastTod (c : Bank) : (p.setBank n c).lastTod = p.lastTod := rfl
@[simp] theorem reg_setBank (c : Bank) : (p.setBank n c).reg k = p.reg k := rfl
@[simp] theorem ctlReg_setBank (c : Bank) : (p.setBank n c).ctlReg k = p.ctlReg k := rfl

/-! ### Pu.setCtl -/

@[simp] theorem setCtl_g : (p.setCtl n w).g = p.g := rfl
@[simp] theorem setCtl_b : (p.setCtl n w).b = p.b := rfl
@[simp] theorem setCtl_rsp : (p.setCtl n w).rsp = p.rsp := rfl
@[simp] theorem setCtl_psw : (p.setCtl n w).psw = p.psw := rfl
@[simp] theorem setCtl_pfxArea : (p.setCtl n w).pfxArea = p.pfxArea := rfl
@[simp] theorem setCtl_fpc : (p.setCtl n w).fpc = p.fpc := rfl
@[simp] theorem setCtl_fpfia : (p.setCtl n w).fpfia = p.fpfia := rfl
@[simp] theorem setCtl_busy : (p.setCtl n w).busy = p.busy := rfl
@[simp] theorem setCtl_xcall : (p.setCtl n w).xcall = p.xcall := rfl
@[simp] theorem setCtl_restart : (p.setCtl n w).restart = p.restart := rfl
@[simp] theorem setCtl_cutEv : (p.setCtl n w).cutEv = p.cutEv := rfl
@[simp] theorem setCtl_stopHeld : (p.setCtl n w).stopHeld = p.stopHeld := rfl
@[simp] theorem setCtl_mcExt : (p.setCtl n w).mcExt = p.mcExt := rfl
@[simp] theorem setCtl_mcDegr : (p.setCtl n w).mcDegr = p.mcDegr := rfl
@[simp] theorem setCtl_mcWarn : (p.setCtl n w).mcWarn = p.mcWarn := rfl
@[simp] theorem setCtl_mcRecv : (p.setCtl n w).mcRecv = p.mcRecv := rfl
@[simp] theorem setCtl_mcImm : (p.setCtl n w).mcImm = p.mcImm := rfl
@[simp] theorem setCtl_prog : (p.setCtl n w).prog = p.prog := rfl
@[simp] theorem setCtl_clkPend : (p.setCtl n w).clkPend = p.clkPend := rfl
@[simp] theorem setCtl_ioResv : (p.setCtl n w).ioResv = p.ioResv := rfl
@[simp] theorem setCtl_resume : (p.setCtl n w).resume = p.resume := rfl
@[simp] theorem setCtl_latch : (p.setCtl n w).latch = p.latch := rfl
@[simp] theorem setCtl_latchPos : (p.setCtl n w).latchPos = p.latchPos := rfl
@[simp] theorem setCtl_unitHold : (p.setCtl n w).unitHold = p.unitHold := rfl
@[simp] theorem setCtl_mb : (p.setCtl n w).mb = p.mb := rfl
@[simp] theorem setCtl_l2 : (p.setCtl n w).l2 = p.l2 := rfl
@[simp] theorem setCtl_microBad : (p.setCtl n w).microBad = p.microBad := rfl
@[simp] theorem setCtl_l1i : (p.setCtl n w).l1i = p.l1i := rfl
@[simp] theorem setCtl_l1d : (p.setCtl n w).l1d = p.l1d := rfl
@[simp] theorem setCtl_touched : (p.setCtl n w).touched = p.touched := rfl
@[simp] theorem setCtl_l2resv : (p.setCtl n w).l2resv = p.l2resv := rfl
@[simp] theorem setCtl_pred : (p.setCtl n w).pred = p.pred := rfl
@[simp] theorem setCtl_near : (p.setCtl n w).near = p.near := rfl
@[simp] theorem setCtl_l2cmd : (p.setCtl n w).l2cmd = p.l2cmd := rfl
@[simp] theorem setCtl_devLoad : (p.setCtl n w).devLoad = p.devLoad := rfl
@[simp] theorem setCtl_job : (p.setCtl n w).job = p.job := rfl
@[simp] theorem setCtl_atomReq : (p.setCtl n w).atomReq = p.atomReq := rfl
@[simp] theorem setCtl_tbMark : (p.setCtl n w).tbMark = p.tbMark := rfl
@[simp] theorem setCtl_chanCnt : (p.setCtl n w).chanCnt = p.chanCnt := rfl
@[simp] theorem setCtl_due : (p.setCtl n w).due = p.due := rfl
@[simp] theorem setCtl_resync : (p.setCtl n w).resync = p.resync := rfl
@[simp] theorem setCtl_dupTimes : (p.setCtl n w).dupTimes = p.dupTimes := rfl
@[simp] theorem setCtl_standIn : (p.setCtl n w).standIn = p.standIn := rfl
@[simp] theorem setCtl_puJob : (p.setCtl n w).puJob = p.puJob := rfl
@[simp] theorem setCtl_halted : (p.setCtl n w).halted = p.halted := rfl
@[simp] theorem setCtl_stepArm : (p.setCtl n w).stepArm = p.stepArm := rfl
@[simp] theorem setCtl_haltReq : (p.setCtl n w).haltReq = p.haltReq := rfl
@[simp] theorem setCtl_loaderStop : (p.setCtl n w).loaderStop = p.loaderStop := rfl
@[simp] theorem setCtl_lastTod : (p.setCtl n w).lastTod = p.lastTod := rfl
@[simp] theorem reg_setCtl : (p.setCtl n w).reg k = p.reg k := rfl
@[simp] theorem bank_setCtl : (p.setCtl n w).bank k = p.bank k := rfl

/-! ### Pu.setIA -/

theorem setIA_eq : p.setIA a = { p with psw := pswSet p.psw 63 0 a } := by delta Pu.setIA; with_reducible rfl
@[simp] theorem setIA_g : (p.setIA a).g = p.g := by rw [setIA_eq]
@[simp] theorem setIA_b : (p.setIA a).b = p.b := by rw [setIA_eq]
@[simp] theorem setIA_rsp : (p.setIA a).rsp = p.rsp := by rw [setIA_eq]
@[simp] theorem setIA_ctl : (p.setIA a).ctl = p.ctl := by rw [setIA_eq]
@[simp] theorem setIA_pfxArea : (p.setIA a).pfxArea = p.pfxArea := by rw [setIA_eq]
@[simp] theorem setIA_fpc : (p.setIA a).fpc = p.fpc := by rw [setIA_eq]
@[simp] theorem setIA_fpfia : (p.setIA a).fpfia = p.fpfia := by rw [setIA_eq]
@[simp] theorem setIA_busy : (p.setIA a).busy = p.busy := by rw [setIA_eq]
@[simp] theorem setIA_xcall : (p.setIA a).xcall = p.xcall := by rw [setIA_eq]
@[simp] theorem setIA_restart : (p.setIA a).restart = p.restart := by rw [setIA_eq]
@[simp] theorem setIA_cutEv : (p.setIA a).cutEv = p.cutEv := by rw [setIA_eq]
@[simp] theorem setIA_stopHeld : (p.setIA a).stopHeld = p.stopHeld := by rw [setIA_eq]
@[simp] theorem setIA_mcExt : (p.setIA a).mcExt = p.mcExt := by rw [setIA_eq]
@[simp] theorem setIA_mcDegr : (p.setIA a).mcDegr = p.mcDegr := by rw [setIA_eq]
@[simp] theorem setIA_mcWarn : (p.setIA a).mcWarn = p.mcWarn := by rw [setIA_eq]
@[simp] theorem setIA_mcRecv : (p.setIA a).mcRecv = p.mcRecv := by rw [setIA_eq]
@[simp] theorem setIA_mcImm : (p.setIA a).mcImm = p.mcImm := by rw [setIA_eq]
@[simp] theorem setIA_prog : (p.setIA a).prog = p.prog := by rw [setIA_eq]
@[simp] theorem setIA_clkPend : (p.setIA a).clkPend = p.clkPend := by rw [setIA_eq]
@[simp] theorem setIA_ioResv : (p.setIA a).ioResv = p.ioResv := by rw [setIA_eq]
@[simp] theorem setIA_resume : (p.setIA a).resume = p.resume := by rw [setIA_eq]
@[simp] theorem setIA_latch : (p.setIA a).latch = p.latch := by rw [setIA_eq]
@[simp] theorem setIA_latchPos : (p.setIA a).latchPos = p.latchPos := by rw [setIA_eq]
@[simp] theorem setIA_unitHold : (p.setIA a).unitHold = p.unitHold := by rw [setIA_eq]
@[simp] theorem setIA_mb : (p.setIA a).mb = p.mb := by rw [setIA_eq]
@[simp] theorem setIA_l2 : (p.setIA a).l2 = p.l2 := by rw [setIA_eq]
@[simp] theorem setIA_microBad : (p.setIA a).microBad = p.microBad := by rw [setIA_eq]
@[simp] theorem setIA_l1i : (p.setIA a).l1i = p.l1i := by rw [setIA_eq]
@[simp] theorem setIA_l1d : (p.setIA a).l1d = p.l1d := by rw [setIA_eq]
@[simp] theorem setIA_touched : (p.setIA a).touched = p.touched := by rw [setIA_eq]
@[simp] theorem setIA_l2resv : (p.setIA a).l2resv = p.l2resv := by rw [setIA_eq]
@[simp] theorem setIA_pred : (p.setIA a).pred = p.pred := by rw [setIA_eq]
@[simp] theorem setIA_near : (p.setIA a).near = p.near := by rw [setIA_eq]
@[simp] theorem setIA_l2cmd : (p.setIA a).l2cmd = p.l2cmd := by rw [setIA_eq]
@[simp] theorem setIA_devLoad : (p.setIA a).devLoad = p.devLoad := by rw [setIA_eq]
@[simp] theorem setIA_job : (p.setIA a).job = p.job := by rw [setIA_eq]
@[simp] theorem setIA_atomReq : (p.setIA a).atomReq = p.atomReq := by rw [setIA_eq]
@[simp] theorem setIA_tbMark : (p.setIA a).tbMark = p.tbMark := by rw [setIA_eq]
@[simp] theorem setIA_chanCnt : (p.setIA a).chanCnt = p.chanCnt := by rw [setIA_eq]
@[simp] theorem setIA_due : (p.setIA a).due = p.due := by rw [setIA_eq]
@[simp] theorem setIA_resync : (p.setIA a).resync = p.resync := by rw [setIA_eq]
@[simp] theorem setIA_dupTimes : (p.setIA a).dupTimes = p.dupTimes := by rw [setIA_eq]
@[simp] theorem setIA_standIn : (p.setIA a).standIn = p.standIn := by rw [setIA_eq]
@[simp] theorem setIA_puJob : (p.setIA a).puJob = p.puJob := by rw [setIA_eq]
@[simp] theorem setIA_halted : (p.setIA a).halted = p.halted := by rw [setIA_eq]
@[simp] theorem setIA_stepArm : (p.setIA a).stepArm = p.stepArm := by rw [setIA_eq]
@[simp] theorem setIA_haltReq : (p.setIA a).haltReq = p.haltReq := by rw [setIA_eq]
@[simp] theorem setIA_loaderStop : (p.setIA a).loaderStop = p.loaderStop := by rw [setIA_eq]
@[simp] theorem setIA_lastTod : (p.setIA a).lastTod = p.lastTod := by rw [setIA_eq]
@[simp] theorem reg_setIA : (p.setIA a).reg k = p.reg k := by rw [setIA_eq, setPsw_reg]
@[simp] theorem bank_setIA : (p.setIA a).bank k = p.bank k := by rw [setIA_eq, setPsw_bank]
@[simp] theorem ctlReg_setIA : (p.setIA a).ctlReg k = p.ctlReg k := by rw [setIA_eq, setPsw_ctlReg]

/-! ### Pu.setCC -/

theorem setCC_eq : p.setCC a = { p with psw := pswSet p.psw 109 108 a } := by delta Pu.setCC; with_reducible rfl
@[simp] theorem setCC_g : (p.setCC a).g = p.g := by rw [setCC_eq]
@[simp] theorem setCC_b : (p.setCC a).b = p.b := by rw [setCC_eq]
@[simp] theorem setCC_rsp : (p.setCC a).rsp = p.rsp := by rw [setCC_eq]
@[simp] theorem setCC_ctl : (p.setCC a).ctl = p.ctl := by rw [setCC_eq]
@[simp] theorem setCC_pfxArea : (p.setCC a).pfxArea = p.pfxArea := by rw [setCC_eq]
@[simp] theorem setCC_fpc : (p.setCC a).fpc = p.fpc := by rw [setCC_eq]
@[simp] theorem setCC_fpfia : (p.setCC a).fpfia = p.fpfia := by rw [setCC_eq]
@[simp] theorem setCC_busy : (p.setCC a).busy = p.busy := by rw [setCC_eq]
@[simp] theorem setCC_xcall : (p.setCC a).xcall = p.xcall := by rw [setCC_eq]
@[simp] theorem setCC_restart : (p.setCC a).restart = p.restart := by rw [setCC_eq]
@[simp] theorem setCC_cutEv : (p.setCC a).cutEv = p.cutEv := by rw [setCC_eq]
@[simp] theorem setCC_stopHeld : (p.setCC a).stopHeld = p.stopHeld := by rw [setCC_eq]
@[simp] theorem setCC_mcExt : (p.setCC a).mcExt = p.mcExt := by rw [setCC_eq]
@[simp] theorem setCC_mcDegr : (p.setCC a).mcDegr = p.mcDegr := by rw [setCC_eq]
@[simp] theorem setCC_mcWarn : (p.setCC a).mcWarn = p.mcWarn := by rw [setCC_eq]
@[simp] theorem setCC_mcRecv : (p.setCC a).mcRecv = p.mcRecv := by rw [setCC_eq]
@[simp] theorem setCC_mcImm : (p.setCC a).mcImm = p.mcImm := by rw [setCC_eq]
@[simp] theorem setCC_prog : (p.setCC a).prog = p.prog := by rw [setCC_eq]
@[simp] theorem setCC_clkPend : (p.setCC a).clkPend = p.clkPend := by rw [setCC_eq]
@[simp] theorem setCC_ioResv : (p.setCC a).ioResv = p.ioResv := by rw [setCC_eq]
@[simp] theorem setCC_resume : (p.setCC a).resume = p.resume := by rw [setCC_eq]
@[simp] theorem setCC_latch : (p.setCC a).latch = p.latch := by rw [setCC_eq]
@[simp] theorem setCC_latchPos : (p.setCC a).latchPos = p.latchPos := by rw [setCC_eq]
@[simp] theorem setCC_unitHold : (p.setCC a).unitHold = p.unitHold := by rw [setCC_eq]
@[simp] theorem setCC_mb : (p.setCC a).mb = p.mb := by rw [setCC_eq]
@[simp] theorem setCC_l2 : (p.setCC a).l2 = p.l2 := by rw [setCC_eq]
@[simp] theorem setCC_microBad : (p.setCC a).microBad = p.microBad := by rw [setCC_eq]
@[simp] theorem setCC_l1i : (p.setCC a).l1i = p.l1i := by rw [setCC_eq]
@[simp] theorem setCC_l1d : (p.setCC a).l1d = p.l1d := by rw [setCC_eq]
@[simp] theorem setCC_touched : (p.setCC a).touched = p.touched := by rw [setCC_eq]
@[simp] theorem setCC_l2resv : (p.setCC a).l2resv = p.l2resv := by rw [setCC_eq]
@[simp] theorem setCC_pred : (p.setCC a).pred = p.pred := by rw [setCC_eq]
@[simp] theorem setCC_near : (p.setCC a).near = p.near := by rw [setCC_eq]
@[simp] theorem setCC_l2cmd : (p.setCC a).l2cmd = p.l2cmd := by rw [setCC_eq]
@[simp] theorem setCC_devLoad : (p.setCC a).devLoad = p.devLoad := by rw [setCC_eq]
@[simp] theorem setCC_job : (p.setCC a).job = p.job := by rw [setCC_eq]
@[simp] theorem setCC_atomReq : (p.setCC a).atomReq = p.atomReq := by rw [setCC_eq]
@[simp] theorem setCC_tbMark : (p.setCC a).tbMark = p.tbMark := by rw [setCC_eq]
@[simp] theorem setCC_chanCnt : (p.setCC a).chanCnt = p.chanCnt := by rw [setCC_eq]
@[simp] theorem setCC_due : (p.setCC a).due = p.due := by rw [setCC_eq]
@[simp] theorem setCC_resync : (p.setCC a).resync = p.resync := by rw [setCC_eq]
@[simp] theorem setCC_dupTimes : (p.setCC a).dupTimes = p.dupTimes := by rw [setCC_eq]
@[simp] theorem setCC_standIn : (p.setCC a).standIn = p.standIn := by rw [setCC_eq]
@[simp] theorem setCC_puJob : (p.setCC a).puJob = p.puJob := by rw [setCC_eq]
@[simp] theorem setCC_halted : (p.setCC a).halted = p.halted := by rw [setCC_eq]
@[simp] theorem setCC_stepArm : (p.setCC a).stepArm = p.stepArm := by rw [setCC_eq]
@[simp] theorem setCC_haltReq : (p.setCC a).haltReq = p.haltReq := by rw [setCC_eq]
@[simp] theorem setCC_loaderStop : (p.setCC a).loaderStop = p.loaderStop := by rw [setCC_eq]
@[simp] theorem setCC_lastTod : (p.setCC a).lastTod = p.lastTod := by rw [setCC_eq]
@[simp] theorem reg_setCC : (p.setCC a).reg k = p.reg k := by rw [setCC_eq, setPsw_reg]
@[simp] theorem bank_setCC : (p.setCC a).bank k = p.bank k := by rw [setCC_eq, setPsw_bank]
@[simp] theorem ctlReg_setCC : (p.setCC a).ctlReg k = p.ctlReg k := by rw [setCC_eq, setPsw_ctlReg]

/-! ### The canonical form of memory (every memory operation keeps it) -/

theorem memPut_wf (h : Memory.wf s.mem = true) : Memory.wf (memPut s a x).mem = true := spWf_spSet (fun _ => uninitWord) a x h

theorem memPutRaw_wf (h : Memory.wf s.mem = true) : Memory.wf (memPutRaw s a x).mem = true :=
  spWf_spSet (fun _ => uninitWord) a x h

theorem setRefChg_wf (c : Bool) (h : Memory.wf s.mem = true) : Memory.wf (setRefChg s a c).mem = true :=
  memPutRaw_wf _ _ _ h

theorem reset_mem_wf : Memory.wf State.reset.mem = true := rfl

/-- The registers of complex control space in canonical form: keys rising, no register listed at its Reset value. -/
theorem ccsPut_wf (h : spWf regDefault s.regs = true) : spWf regDefault (ccsPut s a w).regs = true :=
  spWf_spSet regDefault a w h

theorem setPu_wf (h : spWf (fun _ => Pu.reset) s.pus = true) : spWf (fun _ => Pu.reset) (s.setPu n p).pus = true :=
  spWf_spSet (fun _ => Pu.reset) n p h

end Sys2Proof.Machine
end

