-- ==== Sys2Proof/Laws/Bits.lean ====
section
/-! SUPPORT. Fields of words: reading a field after setting one, and the same for registers and the PSW. -/

namespace Sys2Proof.Machine

theorem bits_lt (x hi lo : Nat) : bits x hi lo < 2 ^ (hi + 1 - lo) := Nat.mod_lt _ (Nat.two_pow_pos _)

/-- A number splits at a field: what lies below it, the field, what lies above it. -/
theorem split_field (x hi lo : Nat) (h : lo ≤ hi + 1) :
    x = x % 2 ^ lo + 2 ^ lo * bits x hi lo + 2 ^ (hi + 1) * (x / 2 ^ (hi + 1)) := by
  have h1 := Nat.mod_add_div x (2 ^ lo)
  have h2 := Nat.mod_add_div (x / 2 ^ lo) (2 ^ (hi + 1 - lo))
  rw [Nat.div_div_eq_div_mul, ← pow_add, Nat.add_sub_cancel' h] at h2
  have h3 : 2 ^ (hi + 1) = 2 ^ lo * 2 ^ (hi + 1 - lo) := by rw [← pow_add, Nat.add_sub_cancel' h]
  simp only [bits, Nat.shiftRight_eq_div_pow]
  calc x = x % 2 ^ lo + 2 ^ lo * (x / 2 ^ lo) := h1.symm
    _ = x % 2 ^ lo + 2 ^ lo * (x / 2 ^ lo % 2 ^ (hi + 1 - lo) + 2 ^ (hi + 1 - lo) * (x / 2 ^ (hi + 1))) := by rw [h2]
    _ = _ := by rw [h3]; ring

theorem setBits_eq (x hi lo v : Nat) (h : lo ≤ hi + 1) :
    setBits x hi lo v = x % 2 ^ lo + 2 ^ lo * (v % 2 ^ (hi + 1 - lo)) + 2 ^ (hi + 1) * (x / 2 ^ (hi + 1)) := by
  have h1 := split_field x hi lo h
  unfold setBits
  generalize bits x hi lo = f at *
  generalize v % 2 ^ (hi + 1 - lo) = g at *
  generalize hA : x % 2 ^ lo = A at *
  generalize hB : 2 ^ (hi + 1) * (x / 2 ^ (hi + 1)) = B at *
  rw [h1, Nat.mul_comm f, Nat.mul_comm g]
  generalize 2 ^ lo * f = F
  generalize 2 ^ lo * g = G
  omega

/-- Bit k of a number with a field set. -/
theorem testBit_setBits (x hi lo v k : Nat) (h : lo ≤ hi + 1) :
    (setBits x hi lo v).testBit k = if lo ≤ k ∧ k ≤ hi then v.testBit (k - lo) else x.testBit k := by
  rw [setBits_eq x hi lo v h]
  have hlt : x % 2 ^ lo + 2 ^ lo * (v % 2 ^ (hi + 1 - lo)) < 2 ^ (hi + 1) := by
    have h3 : 2 ^ (hi + 1) = 2 ^ lo * 2 ^ (hi + 1 - lo) := by rw [← pow_add, Nat.add_sub_cancel' h]
    have h4 : x % 2 ^ lo < 2 ^ lo := Nat.mod_lt _ (Nat.two_pow_pos _)
    have h5 : v % 2 ^ (hi + 1 - lo) + 1 ≤ 2 ^ (hi + 1 - lo) := Nat.mod_lt _ (Nat.two_pow_pos _)
    have h6 := Nat.mul_le_mul_left (2 ^ lo) h5
    rw [Nat.mul_add, ← h3] at h6
    omega
  rw [Nat.add_comm _ (2 ^ (hi + 1) * _), Nat.testBit_two_pow_mul_add _ hlt]
  by_cases hk : k < hi + 1
  · rw [if_pos hk, Nat.add_comm, Nat.testBit_two_pow_mul_add _ (Nat.mod_lt _ (Nat.two_pow_pos _))]
    by_cases hl : k < lo
    · rw [if_pos hl, if_neg (by omega), Nat.testBit_mod_two_pow]
      simp [hl]
    · rw [if_neg hl, if_pos (by omega), Nat.testBit_mod_two_pow]
      have : k - lo < hi + 1 - lo := by omega
      simp [this]
  · rw [if_neg hk, if_neg (by omega), Nat.testBit_div_two_pow]
    congr 1; omega

theorem testBit_bits (x hi lo k : Nat) : (bits x hi lo).testBit k = (decide (k < hi + 1 - lo) && x.testBit (lo + k)) := by
  simp [bits, Nat.testBit_mod_two_pow, Nat.testBit_shiftRight]

theorem bits_setBits_self (x hi lo v : Nat) (h : lo ≤ hi + 1) : bits (setBits x hi lo v) hi lo = v % 2 ^ (hi + 1 - lo) := by
  apply Nat.eq_of_testBit_eq
  intro k
  rw [testBit_bits, testBit_setBits _ _ _ _ _ h, Nat.testBit_mod_two_pow]
  by_cases hk : k < hi + 1 - lo
  · rw [if_pos (by omega)]; simp [hk]
  · simp [hk]

theorem bits_setBits_ne (x hi lo v hi' lo' : Nat) (h : lo ≤ hi + 1) (hd : hi' < lo ∨ hi < lo') :
    bits (setBits x hi lo v) hi' lo' = bits x hi' lo' := by
  apply Nat.eq_of_testBit_eq
  intro k
  rw [testBit_bits, testBit_bits, testBit_setBits _ _ _ _ _ h]
  by_cases hk : k < hi' + 1 - lo'
  · rw [if_neg (by omega)]
  · simp [hk]

theorem setBits_lt (x hi lo v n : Nat) (h : lo ≤ hi + 1) (hx : x < 2 ^ n) (hn : hi < n) : setBits x hi lo v < 2 ^ n := by
  apply Nat.lt_pow_two_of_testBit
  intro k hk
  rw [testBit_setBits _ _ _ _ _ h, if_neg (by omega)]
  exact Nat.testBit_lt_two_pow (Nat.lt_of_lt_of_le hx (Nat.pow_le_pow_right (by omega) hk))

/-! ### Words, registers, the PSW -/

theorem toNat_wordSet (w : Word) (hi lo v : Nat) (h : lo ≤ hi + 1) (hn : hi < 64) :
    (wordSet w hi lo v).toNat = setBits w.toNat hi lo v := by
  rw [wordSet, BitVec.toNat_ofNat]
  exact Nat.mod_eq_of_lt (setBits_lt _ _ _ _ _ h w.isLt hn)

theorem ccsFld_ccsSet_self (s : State) (a hi lo v : Nat) (h : lo ≤ hi + 1) (hn : hi < 64) :
    ccsFld (ccsSet s a hi lo v) a hi lo = v % 2 ^ (hi + 1 - lo) := by
  rw [ccsFld, ccsGet_ccsSet_self, toNat_wordSet _ _ _ _ h hn, bits_setBits_self _ _ _ _ h]

/-- Another field of the register set. -/
theorem ccsFld_ccsSet_other (s : State) (a hi lo v hi' lo' : Nat) (h : lo ≤ hi + 1) (hn : hi < 64)
    (hd : hi' < lo ∨ hi < lo') : ccsFld (ccsSet s a hi lo v) a hi' lo' = ccsFld s a hi' lo' := by
  rw [ccsFld, ccsGet_ccsSet_self, toNat_wordSet _ _ _ _ h hn, bits_setBits_ne _ _ _ _ _ _ h hd, ccsFld]

theorem ccsFld_ccsSet_ne (s : State) (a b hi lo v hi' lo' : Nat) (h : b ≠ a) :
    ccsFld (ccsSet s a hi lo v) b hi' lo' = ccsFld s b hi' lo' := by
  rw [ccsFld, ccsGet_ccsSet_ne _ _ _ _ _ _ h, ccsFld]

theorem ccsFld_ccsPut_self (s : State) (a hi lo : Nat) (w : Word) :
    ccsFld (ccsPut s a w) a hi lo = bits w.toNat hi lo := by rw [ccsFld, ccsGet_ccsPut_self]

theorem ccsFld_ccsPut_ne (s : State) (a b hi lo : Nat) (w : Word) (h : b ≠ a) :
    ccsFld (ccsPut s a w) b hi lo = ccsFld s b hi lo := by rw [ccsFld, ccsGet_ccsPut_ne _ _ _ _ h, ccsFld]

theorem toNat_pswSet (w : BitVec 128) (hi lo v : Nat) (h : lo ≤ hi + 1) (hn : hi < 128) :
    (pswSet w hi lo v).toNat = setBits w.toNat hi lo v := by
  rw [pswSet, BitVec.toNat_ofNat]
  exact Nat.mod_eq_of_lt (setBits_lt _ _ _ _ _ h w.isLt hn)

theorem pswFld_pswSet_self (w : BitVec 128) (hi lo v : Nat) (h : lo ≤ hi + 1) (hn : hi < 128) :
    pswFld (pswSet w hi lo v) hi lo = v % 2 ^ (hi + 1 - lo) := by
  rw [pswFld, toNat_pswSet _ _ _ _ h hn, bits_setBits_self _ _ _ _ h]

theorem pswFld_pswSet_ne (w : BitVec 128) (hi lo v hi' lo' : Nat) (h : lo ≤ hi + 1) (hn : hi < 128)
    (hd : hi' < lo ∨ hi < lo') : pswFld (pswSet w hi lo v) hi' lo' = pswFld w hi' lo' := by
  rw [pswFld, toNat_pswSet _ _ _ _ h hn, bits_setBits_ne _ _ _ _ _ _ h hd, pswFld]

/-- A field of the PSW other than IA is as before an instruction moves IA. -/
theorem pswFld_setIA (p : Pu) (a hi lo : Nat) (h : 63 < lo) : pswFld (p.setIA a).psw hi lo = pswFld p.psw hi lo := by
  rw [setIA_eq]
  exact pswFld_pswSet_ne _ _ _ _ _ _ (by omega) (by omega) (Or.inr h)

/-- A field of the PSW other than CC is as before an instruction sets CC. -/
theorem pswFld_setCC (p : Pu) (a hi lo : Nat) (h : hi < 108 ∨ 109 < lo) : pswFld (p.setCC a).psw hi lo = pswFld p.psw hi lo := by
  rw [setCC_eq]
  exact pswFld_pswSet_ne _ _ _ _ _ _ (by omega) (by omega) h

theorem pswCC_setCC (p : Pu) (a : Nat) : pswCC (p.setCC a).psw = a % 4 := by
  rw [setCC_eq]
  exact pswFld_pswSet_self _ _ _ _ (by omega) (by omega)

theorem pswIA_setIA (p : Pu) (a : Nat) : pswIA (p.setIA a).psw = a % 2 ^ 64 := by
  rw [setIA_eq]
  exact pswFld_pswSet_self _ _ _ _ (by omega) (by omega)

end Sys2Proof.Machine
end

