-- ==== Sys2Proof/Laws/Reads.lean ====
section
/-! SUPPORT. What the checks and reads of an instruction leave behind, said once for each shared operation: whatever way it ends,
it is `ReadsOnly`. -/

namespace Sys2Proof.Machine

theorem Marked.refl (x : TWord) : Marked x x := Or.inl rfl

theorem Marked.trans {x y z : TWord} (h : Marked x y) (k : Marked y z) : Marked x z := by
  have e1 : ∀ d : Word, d ||| 1024#64 ||| 1024#64 = d ||| 1024#64 := by intro d; rw [BitVec.or_assoc]; rfl
  have e2 : ∀ d : Word, d ||| 1024#64 ||| 1536#64 = d ||| 1536#64 := by intro d; rw [BitVec.or_assoc]; rfl
  have e3 : ∀ d : Word, d ||| 1536#64 ||| 1024#64 = d ||| 1536#64 := by intro d; rw [BitVec.or_assoc]; rfl
  have e4 : ∀ d : Word, d ||| 1536#64 ||| 1536#64 = d ||| 1536#64 := by intro d; rw [BitVec.or_assoc]; rfl
  unfold Marked at *
  rcases h with rfl | rfl | rfl <;> rcases k with rfl | rfl | rfl <;> simp [e1, e2, e3, e4]

theorem ReadsOnly.refl (n : Nat) (s : State) : ReadsOnly n s s :=
  ⟨rfl, rfl, fun _ _ => rfl, rfl, fun _ => Marked.refl _⟩

theorem ReadsOnly.trans {n : Nat} {s t u : State} (h : ReadsOnly n s t) (k : ReadsOnly n t u) : ReadsOnly n s u where
  rest := by
    have := congrArg (fun x : State => { x with mem := s.mem, fresh := s.fresh, clock := s.clock, pus := s.pus }) k.rest
    exact this.trans h.rest
  clock := by
    have := congrArg (fun x : Clock => { x with lo := s.clock.lo }) k.clock
    exact this.trans h.clock
  other := fun j hj => (k.other j hj).trans (h.other j hj)
  own := by
    have := congrArg (fun x : Pu =>
      { x with latch := (s.pu n).latch, latchPos := (s.pu n).latchPos, devLoad := (s.pu n).devLoad, touched := (s.pu n).touched }) k.own
    exact this.trans h.own
  mem := fun a => (h.mem a).trans (k.mem a)

/-- Whatever way it ends, the operation is `ReadsOnly` for PU n. -/
structure Reads {α : Type} (n : Nat) (m : M α) : Prop where
  all : ∀ s, match m s with
    | .ok _ t => ReadsOnly n s t
    | .error _ t => ReadsOnly n s t

theorem Reads.ok {α : Type} {n : Nat} {m : M α} (h : Reads n m) {s t : State} {a : α} (e : m s = .ok a t) :
    ReadsOnly n s t := by
  have := h.all s
  rwa [e] at this

variable {α β : Type} {n : Nat}

theorem reads_pure (a : α) : Reads n (pure a : M α) := ⟨fun s => ReadsOnly.refl n s⟩

theorem reads_throw (e : Stop) : Reads n (throw e : M α) := ⟨fun s => ReadsOnly.refl n s⟩

theorem reads_get : Reads n (get : M State) := ⟨fun s => ReadsOnly.refl n s⟩

theorem reads_bind {m : M α} {f : α → M β} (h : Reads n m) (k : ∀ a, Reads n (f a)) : Reads n (m >>= f) := by
  constructor
  intro s
  have h1 := h.all s
  simp only [bind, EStateM.bind]
  cases e : m s with
  | ok a t =>
    rw [e] at h1
    have h2 := (k a).all t
    simp only
    cases e2 : f a t with
    | ok b u => rw [e2] at h2; exact h1.trans h2
    | error b u => rw [e2] at h2; exact h1.trans h2
  | error b t => rw [e] at h1; exact h1

theorem reads_guard {b : Bool} {k : M Unit} (h : Reads n k) : Reads n (guardM b k) := by
  unfold guardM
  split
  · exact reads_pure _
  · exact h

theorem reads_ite {p : Prop} [Decidable p] {a b : M α} (h : Reads n a) (k : Reads n b) : Reads n (if p then a else b) := by
  split
  · exact h
  · exact k

theorem reads_raise (c : Ctx) (a b d e f : Nat) : Reads n (c.raise a b d e f : M α) := reads_throw _

theorem reads_fail (c : Ctx) (a b d : Nat) : Reads n (c.fail a b d : M α) := reads_throw _

theorem reads_wait : Reads n (waitFor : M α) := reads_throw _

/-- A change of PU n's requests alone. -/
theorem reads_latch {f : Pu → Pu}
    (h : ∀ p, { f p with latch := p.latch, latchPos := p.latchPos, devLoad := p.devLoad, touched := p.touched } = p) :
    Reads n (modify (fun s => s.modPu n f) : M PUnit) := by
  constructor
  intro s
  show ReadsOnly n s (s.modPu n f)
  exact
    { rest := rfl, clock := rfl, other := fun k hk => pu_modPu_ne _ _ _ _ hk
      own := by rw [pu_modPu_self]; exact h _
      mem := fun _ => Marked.refl _ }

theorem reads_mark (k : Kind) (e : Option Nat) : Reads n (markLeaf k e) := by
  cases e with
  | none => exact reads_pure _
  | some a =>
    constructor
    intro s
    refine ⟨rfl, rfl, fun _ _ => rfl, rfl, fun b => ?_⟩
    show Marked (memGet s b) (memGet (setRefChg s a k.stores) b)
    by_cases h : b = a / 8
    · subst h
      unfold setRefChg
      rw [memGet_memPutRaw_self]
      cases k.stores
      · exact Or.inr (Or.inl rfl)
      · exact Or.inr (Or.inr rfl)
    · unfold setRefChg
      rw [memGet_memPutRaw_ne _ _ _ _ h]
      exact Marked.refl _

theorem reads_touch (b : Bool) (a : Nat) : Reads n (touch n b a) :=
  reads_latch (f := fun p => { p with touched := p.touched ++ [(b, a)] }) fun _ => rfl

theorem reads_needLine (a : Nat) : Reads n (needLine n a) :=
  reads_bind reads_get fun _ => reads_bind (reads_guard reads_wait) fun _ => reads_touch ..

theorem reads_tbPick (s0 s : State) (k a : Nat) (w : TWord) (h : ReadsOnly n s0 s) :
    ReadsOnly n s0 (tbPick s k a w).2 := by
  unfold tbPick
  simp only
  split
  · exact h
  · exact h.trans ⟨rfl, rfl, fun _ _ => rfl, rfl, fun _ => Marked.refl _⟩

/-- The same at one state. -/
def ReadsAt {α : Type} (n : Nat) (s : State) (m : M α) : Prop :=
  match m s with
  | .ok _ t => ReadsOnly n s t
  | .error _ t => ReadsOnly n s t

theorem reads_get_bind {f : State → M β} (h : ∀ s, ReadsAt n s (f s)) : Reads n (get >>= f) := ⟨fun s => h s⟩

theorem readsAt_get_bind {s : State} {f : State → M β} (h : ReadsAt n s (f s)) : ReadsAt n s (get >>= f) := h

theorem readsAt_of {s : State} {m : M α} (h : Reads n m) : ReadsAt n s m := h.all s

theorem readsAt_set_bind {s t : State} {f : PUnit → M β} (h : ReadsOnly n s t) (k : Reads n (f ⟨⟩)) :
    ReadsAt n s (set t >>= f) := by
  have := k.all t
  simp only [ReadsAt, bind, EStateM.bind, set, EStateM.set]
  revert this
  cases f ⟨⟩ t <;> exact h.trans

theorem readsAt_guard {s : State} {b : Bool} {e : Stop} {f : PUnit → M β} (h : ReadsAt n s (f ⟨⟩)) :
    ReadsAt n s (guardM b (throw e) >>= f) := by
  cases b
  · exact ReadsOnly.refl n s
  · exact h

theorem readsAt_bind {s : State} {m : M α} {f : α → M β} (h : ReadsAt n s m)
    (k : ∀ a t, m s = .ok a t → ReadsAt n t (f a)) : ReadsAt n s (m >>= f) := by
  simp only [ReadsAt, bind, EStateM.bind] at *
  cases e : m s with
  | ok a t =>
    rw [e] at h
    have h2 := k a t e
    simp only
    cases e2 : f a t with
    | ok b u => rw [e2] at h2; exact h.trans h2
    | error b u => rw [e2] at h2; exact h.trans h2
  | error b t => rw [e] at h; exact h

/-- Waiting on a condition before going on. -/
theorem reads_waitIf {b : Prop} [Decidable b] {m : M α} (h : Reads n m) :
    Reads n (if b then (do waitFor; m) else m : M α) :=
  reads_ite (reads_bind reads_wait fun _ => h) h

theorem reads_tableRead (c : Ctx) (sl un va re : Nat) (k : Kind) (hc : c.pu = n) : Reads n (tableRead c sl un k va re) := by
  subst hc
  unfold tableRead
  refine reads_bind reads_get fun s => reads_bind (reads_guard (reads_raise ..)) fun _ => reads_bind (reads_guard (reads_raise ..)) fun _ => ?_
  have h : Reads c.pu (do
      needLine c.pu (pfxSwap s c.pu re)
      let s' ← get
      set (tbPick s' c.pu (pfxSwap s c.pu re) (puView s' c.pu (pfxSwap s c.pu re / 8))).2
      let w := (tbPick s' c.pu (pfxSwap s c.pu re) (puView s' c.pu (pfxSwap s c.pu re / 8))).1
      guardM (decide (w.tag ≠ tagPoison)) (c.raise 0x0012 (pfxSwap s c.pu re) sl un 4)
      guardM (decide (w.tag = tagInt)) (c.raise 0x0029 va sl un k.acc)
      guardM (bit w.data.toNat 63) (c.raise 0x0028 va sl un k.acc)
      pure (pfxSwap s c.pu re, w.data.toNat) : M (Nat × Nat)) := by
    refine reads_bind (reads_needLine _) fun _ => reads_get_bind fun s' => ?_
    refine readsAt_set_bind (reads_tbPick _ _ _ _ _ (ReadsOnly.refl _ _)) ?_
    exact reads_bind (reads_guard (reads_raise ..)) fun _ => reads_bind (reads_guard (reads_raise ..)) fun _ =>
      reads_bind (reads_guard (reads_raise ..)) fun _ => reads_pure _
  exact reads_waitIf h

theorem reads_walk (c : Ctx) (sl un ro va : Nat) (k : Kind) (hc : c.pu = n) : Reads n (walk c sl un k ro va) := by
  unfold walk
  refine reads_bind reads_get fun s => reads_bind (reads_guard (reads_raise ..)) fun _ => ?_
  refine reads_bind (reads_tableRead _ _ _ _ _ _ hc) fun _ => reads_bind (reads_guard (reads_raise ..)) fun _ => ?_
  refine reads_bind (reads_tableRead _ _ _ _ _ _ hc) fun _ => reads_bind (reads_guard (reads_raise ..)) fun _ => ?_
  refine reads_bind (reads_tableRead _ _ _ _ _ _ hc) fun _ => ?_
  refine reads_ite ?_ ?_
  · exact reads_bind (reads_guard (reads_raise ..)) fun _ => reads_pure _
  · refine reads_bind (reads_guard (reads_raise ..)) fun _ => ?_
    refine reads_bind (reads_tableRead _ _ _ _ _ _ hc) fun _ => ?_
    exact reads_bind (reads_guard (reads_raise ..)) fun _ => reads_pure _

theorem reads_translate (c : Ctx) (sl un ro va len : Nat) (k : Kind) (re : Reach) (hc : c.pu = n) :
    Reads n (translate c sl un k ro va len re) := by
  unfold translate
  refine reads_bind reads_get fun s => ?_
  refine reads_bind ?_ fun l => ?_
  · refine reads_ite ?_ ?_
    · refine reads_bind (reads_walk _ _ _ _ _ _ hc) fun _ => ?_
      iterate 4 refine reads_bind (reads_guard (reads_raise ..)) fun _ => ?_
      exact reads_pure _
    · exact reads_bind (reads_guard (reads_raise ..)) fun _ => reads_pure _
  · refine reads_bind reads_get fun s => ?_
    iterate 3 refine reads_bind (reads_guard (reads_raise ..)) fun _ => ?_
    exact reads_pure _

theorem reads_xlate (c : Ctx) (sl un ro va len : Nat) (k : Kind) (re : Reach) (hc : c.pu = n) :
    Reads n (xlate c sl un k ro va len re) :=
  reads_bind (reads_translate _ _ _ _ _ _ _ _ hc) fun _ => reads_bind (reads_mark ..) fun _ => reads_pure _

theorem reads_bankAddr (c : Ctx) (sl ba off len acc : Nat) (k : Right) : Reads n (bankAddr c sl ba off len acc k) := by
  unfold bankAddr
  refine reads_bind reads_get fun s => ?_
  iterate 5 refine reads_bind (reads_guard (reads_raise ..)) fun _ => ?_
  exact reads_pure _

theorem reads_memLoc (c : Ctx) (sl ba off len : Nat) (k : Kind) (rt : Right) (re : Reach) (hc : c.pu = n) :
    Reads n (memLoc c sl ba off len k rt re) :=
  reads_bind (reads_bankAddr ..) fun _ => reads_bind (reads_guard (reads_raise ..)) fun _ =>
    reads_bind (reads_xlate _ _ _ _ _ _ _ _ hc) fun _ => reads_pure _

theorem reads_wordLocs (c : Ctx) (sl ba ro : Nat) (k : Kind) (m va : Nat) (hc : c.pu = n) : Reads n (wordLocs c sl ba k ro va m) := by
  induction m generalizing va with
  | zero => exact reads_pure _
  | succ m ih => exact reads_bind (reads_translate _ _ _ _ _ _ _ _ hc) fun _ => reads_bind (ih _) fun _ => reads_pure _

theorem reads_markLeaves (k : Kind) (l : List (Option Nat)) : Reads n (markLeaves k l) := by
  induction l with
  | nil => exact reads_pure _
  | cons x xs ih => exact reads_bind (reads_mark ..) fun _ => ih

theorem reads_lastPage (c : Ctx) (sl ba ro va m : Nat) (k : Kind) (hc : c.pu = n) : Reads n (lastPage c sl ba k ro va m) :=
  reads_ite (reads_pure _) (reads_bind (reads_translate _ _ _ _ _ _ _ _ hc) fun _ => reads_pure _)

theorem reads_longLoc (c : Ctx) (sl ba off m al : Nat) (k : Kind) (rt : Right) (hc : c.pu = n) :
    Reads n (longLoc c sl ba off m al k rt) :=
  reads_bind (reads_bankAddr ..) fun _ => reads_bind (reads_guard (reads_raise ..)) fun _ =>
    reads_bind (reads_wordLocs _ _ _ _ _ _ _ hc) fun _ => reads_bind (reads_lastPage _ _ _ _ _ _ _ hc) fun _ =>
      reads_bind (reads_markLeaves ..) fun _ => reads_pure _

theorem reads_specAddr (c : Ctx) (pl : Place) (sp : Spec) : Reads n (specAddr c pl sp) := by
  cases sp with
  | mem long bank idx disp =>
    refine reads_bind ?_ fun _ => reads_pure _
    unfold specOffset
    cases idx with
    | none => exact reads_pure _
    | some ix => exact reads_bind reads_get fun _ => reads_bind (reads_guard (reads_fail ..)) fun _ => reads_pure _
  | stack a => exact reads_bind reads_get fun _ => reads_bind (reads_guard (reads_fail ..)) fun _ => reads_pure _
  | _ => exact reads_pure _

theorem reads_locate (c : Ctx) (pl : Place) (len : Nat) (sp : Spec) (hc : c.pu = n) : Reads n (locate c pl len sp) := by
  cases sp with
  | reg r => exact reads_pure _
  | imm a v => exact reads_pure _
  | _ => exact reads_bind (reads_specAddr ..) fun _ => reads_bind (reads_memLoc _ _ _ _ _ _ _ _ hc) fun _ => reads_pure _

theorem reads_latched (c : Ctx) (k : ReqKind) (a : Nat) {act : M (List TWord)} (hc : c.pu = n) (h : Reads n act) :
    Reads n (latched c k a act) := by
  unfold latched
  refine reads_bind reads_get fun s => ?_
  dsimp only
  subst hc
  split
  · split
    · exact reads_bind (reads_latch (f := fun p => { p with latchPos := p.latchPos + 1 }) fun _ => rfl)
        fun _ => reads_pure _
    · exact reads_wait
  · have h1 (r : List TWord) : Reads c.pu (do
        modify (fun s : State => s.modPu c.pu (fun p =>
          { p with latch := p.latch ++ [{ kind := k, addr := a, resp := some r }], latchPos := p.latchPos + 1 }))
        if c.vote = .agreeOnly then (do waitFor; pure r) else pure r : M (List TWord)) :=
      reads_bind (reads_latch (f := fun p =>
        { p with latch := p.latch ++ [{ kind := k, addr := a, resp := some r }], latchPos := p.latchPos + 1 })
        fun _ => rfl) fun _ => reads_waitIf (reads_pure _)
    refine reads_ite ?_ ?_
    · exact reads_bind (reads_throw _) fun _ => reads_bind h h1
    · exact reads_bind h h1

theorem reads_deviceRead (c : Ctx) (m : MLoc) (hc : c.pu = n) : Reads n (deviceRead c m) := by
  refine reads_bind (reads_latched _ _ _ hc ?_) fun _ => reads_pure _
  refine reads_bind reads_get fun s => ?_
  subst hc
  dsimp only
  split
  · exact reads_bind reads_wait fun _ =>
      reads_bind (reads_latch (f := fun p => { p with latch := _, devLoad := _ }) fun _ => rfl) fun _ => reads_wait
  · exact reads_bind (reads_latch (f := fun p => { p with latch := _, devLoad := _ }) fun _ => rfl) fun _ => reads_wait

theorem reads_ccsReadBy (s : State) (w a : Nat) : ReadsOnly n s (ccsReadBy s w a).2 := by
  unfold ccsReadBy
  split
  · exact ⟨rfl, rfl, fun _ _ => rfl, rfl, fun _ => Marked.refl _⟩
  · split <;> exact ReadsOnly.refl n s

theorem reads_setBy (w a : Nat) (f : Word → M β) (h : ∀ x, Reads n (f x)) :
    Reads n (do let s ← get; set (ccsReadBy s w a).2; f (ccsReadBy s w a).1 : M β) :=
  reads_get_bind fun s => readsAt_set_bind (reads_ccsReadBy s w a) (h _)

theorem reads_readWord (c : Ctx) (m : MLoc) (hc : c.pu = n) : Reads n (readWord c m) := by
  unfold readWord
  refine reads_get_bind fun s => ?_
  dsimp only
  split
  · exact ReadsOnly.refl n s
  · split
    · refine readsAt_of (reads_bind (reads_latched _ _ _ hc ?_) fun _ => reads_pure _)
      refine reads_get_bind fun s => ?_
      split
      · exact ReadsOnly.refl n s
      · exact readsAt_set_bind (reads_ccsReadBy ..) (reads_pure _)
    · split
      · exact readsAt_of (reads_deviceRead c m hc)
      · subst hc
        exact readsAt_of (reads_bind (reads_needLine _) fun _ => reads_pure _)

theorem reads_checkRead (c : Ctx) (m : MLoc) (re : Bool) (ok : List Tag) (t : Tag) : Reads n (checkRead c m re ok t) := by
  refine reads_bind reads_get fun s => ?_
  split
  · exact reads_raise ..
  · exact reads_guard (reads_raise ..)

theorem reads_checkPolicy (c : Ctx) (m : MLoc) (t : Tag) : Reads n (checkPolicy c m t) :=
  reads_bind reads_get fun _ => reads_guard (reads_raise ..)

theorem reads_checkNarrow (c : Ctx) (m : MLoc) (hc : c.pu = n) : Reads n (checkNarrow c m) := by
  subst hc
  unfold checkNarrow
  refine reads_ite (reads_pure _) (reads_bind reads_get fun s => ?_)
  refine reads_waitIf (reads_bind (reads_needLine _) fun _ => ?_)
  split
  · exact reads_raise ..
  · exact reads_checkPolicy ..

theorem reads_readLoc (c : Ctx) (sl : Nat) (ok : List Tag) (l : Loc) (hc : c.pu = n) : Reads n (readLoc c sl ok l) := by
  cases l with
  | reg r =>
    refine reads_bind reads_get fun s => ?_
    dsimp only
    split
    · exact reads_fail ..
    · exact reads_pure _
  | imm v => exact reads_pure _
  | mem m => exact reads_bind (reads_readWord c m hc) fun _ => reads_bind (reads_checkRead ..) fun _ => reads_pure _

/-- Reading a source operand. -/
theorem reads_source (c : Ctx) (pl : Place) (len : Nat) (ok : List Tag) (sp : Spec) (hc : c.pu = n) :
    Reads n (source c pl len ok sp) :=
  reads_bind (reads_locate _ _ _ _ hc) fun _ => reads_readLoc _ _ _ _ hc

/-- Locating a destination. -/
theorem reads_target (c : Ctx) (pl : Place) (len : Nat) (sp : Spec) (hc : c.pu = n) : Reads n (target c pl len sp) := by
  refine reads_bind (reads_locate _ _ _ _ hc) fun l => ?_
  cases l with
  | mem m =>
    dsimp only
    split
    · exact reads_bind (reads_checkNarrow _ _ hc) fun _ => reads_pure _
    · exact reads_pure _
  | _ => exact reads_pure _

/-- Locating and reading a destination that is updated. -/
theorem reads_update (c : Ctx) (pl : Place) (len : Nat) (ok : List Tag) (sp : Spec) (hc : c.pu = n) :
    Reads n (update c pl len ok sp) := by
  refine reads_bind (reads_locate _ _ _ _ hc) fun l => reads_bind (reads_readLoc _ _ _ _ hc) fun v => ?_
  cases l with
  | mem m =>
    dsimp only
    split
    · exact reads_bind (reads_checkNarrow _ _ hc) fun _ => reads_pure _
    · exact reads_pure _
  | _ => exact reads_pure _

theorem reads_checkDest (c : Ctx) (l : Loc) (t : Tag) : Reads n (checkDest c l t) := by
  cases l with
  | mem m => exact reads_ite (reads_checkPolicy ..) (reads_pure _)
  | _ => exact reads_pure _

theorem reads_fetchByte (c : Ctx) (off : Nat) (hc : c.pu = n) : Reads n (fetchByte c off) := by
  subst hc
  exact reads_bind reads_get fun _ => reads_bind (reads_guard (reads_raise ..)) fun _ =>
    reads_bind (reads_xlate _ _ _ _ _ _ _ _ rfl) fun _ => reads_touch ..

theorem reads_fetchBytes (c : Ctx) (off k : Nat) (hc : c.pu = n) : Reads n (fetchBytes c off k) := by
  induction k generalizing off with
  | zero => exact reads_pure _
  | succ k ih => exact reads_bind (reads_fetchByte _ _ hc) fun _ => ih _

theorem reads_encFail (c : Ctx) (a b : Nat) : Reads n (encFail c a b) := reads_raise ..

theorem reads_checkPfx (c : Ctx) (off : Nat) (seen : List Nat) (bs : List (BitVec 4)) (hc : c.pu = n) : Reads n (checkPfx c off seen bs) := by
  induction bs generalizing off seen with
  | nil => exact reads_pure _
  | cons b bs ih =>
    refine reads_bind (reads_fetchByte _ _ hc) fun _ => reads_bind (reads_guard (reads_encFail ..)) fun _ => ?_
    split
    · exact reads_encFail ..
    · exact reads_bind (reads_guard (reads_encFail ..)) fun _ => ih _ _

theorem reads_checkSpecs (c : Ctx) (at' nw : Bool) (off : Nat) (stk g15 : Bool) (sl : List (Cls × Use)) (sps : List Spec) (hc : c.pu = n) :
    Reads n (checkSpecs c at' nw off stk g15 sl sps) := by
  induction sl generalizing off stk g15 sps with
  | nil => exact reads_pure _
  | cons x sl ih =>
    cases sps with
    | nil => exact reads_pure _
    | cons sp sps =>
      obtain ⟨cls, use⟩ := x
      unfold checkSpecs
      refine reads_bind (reads_guard (reads_encFail ..)) fun _ => reads_bind (reads_fetchByte _ _ hc) fun _ => ?_
      iterate 7 refine reads_bind (reads_guard (reads_encFail ..)) fun _ => ?_
      dsimp only
      split
      · exact reads_bind (reads_fetchByte _ _ hc) fun _ => reads_bind (reads_guard (reads_encFail ..)) fun _ =>
          reads_bind (reads_fetchBytes _ _ _ hc) fun _ => ih _ _ _ _
      · exact reads_bind (reads_fetchBytes _ _ _ hc) fun _ => ih _ _ _ _

theorem reads_decodeM (h : Hdr) (i : OpInfo) (sp : List Spec) : Reads h.pu.val (decodeM h i sp) := by
  refine reads_bind reads_get fun s => reads_bind (reads_checkPfx _ _ _ _ rfl) fun _ => reads_bind (reads_fetchBytes _ _ _ rfl) fun _ => ?_
  exact reads_bind (reads_guard (reads_encFail ..)) fun _ => reads_bind (reads_checkSpecs _ _ _ _ _ _ _ _ rfl) fun _ => reads_pure _

theorem reads_checkPairs (c : Ctx) (k : Nat) (sl : List (Cls × Use)) (sps : List Spec) : Reads n (checkPairs c k sl sps) := by
  induction sl generalizing k sps with
  | nil => exact reads_pure _
  | cons x sl ih =>
    cases sps with
    | nil => exact reads_pure _
    | cons sp sps => exact reads_bind (reads_guard (reads_fail ..)) fun _ => ih _ _

/-- Steps 1 to 4 of R83. -/
theorem reads_prelude (h : Hdr) (i : OpInfo) (sp : List Spec) : Reads h.pu.val (prelude h i sp) := by
  refine reads_bind (reads_decodeM ..) fun _ => reads_bind reads_get fun _ => ?_
  exact reads_bind (reads_guard (reads_fail ..)) fun _ => reads_bind (reads_guard (reads_fail ..)) fun _ =>
    reads_bind (reads_checkPairs ..) fun _ => reads_pure _

end Sys2Proof.Machine
end

