-- ==== Sys2Proof/Laws/Lines.lean ====
section
/-! SUPPORT. What moving lines among caches leaves alone: it changes the directories, trackers and caches and what DRAM still holds,
and of memory no word but by a DRAM error or a failed owner that stood before. -/

namespace Sys2Proof.Machine

/-- A PU that differs in its caches and its predictor alone. -/
def CacheOnly (p q : Pu) : Prop :=
  { q with l2 := p.l2, l2resv := p.l2resv, l1i := p.l1i, l1d := p.l1d, pred := p.pred, near := p.near, touched := p.touched } = p

/-- As `LinesMoved`, and what makes it transitive: no DRAM word and no lost line is new, and memory keeps its form. -/
structure LinesOnly (s t : State) : Prop where
  rest : { t with dir := s.dir, dirClock := s.dirClock, l3 := s.l3, trk := s.trk, pus := s.pus, mem := s.mem, tbHist := s.tbHist,
                  dram := s.dram, fresh := s.fresh } = s
  pu   : ∀ k, CacheOnly (s.pu k) (t.pu k)
  mem  : ∀ a, Kept s t a
  dram : ∀ e, e ∈ t.dram → e ∈ s.dram
  lost : ∀ l, ownerLost t l = true → ownerLost s l = true
  wf   : Memory.wf s.mem = true → Memory.wf t.mem = true

theorem LinesOnly.moved {s t : State} (h : LinesOnly s t) : LinesMoved s t := ⟨h.rest, h.pu, h.mem⟩

theorem CacheOnly.refl (p : Pu) : CacheOnly p p := rfl

theorem CacheOnly.trans {p q r : Pu} (h : CacheOnly p q) (k : CacheOnly q r) : CacheOnly p r := by
  have := congrArg (fun x : Pu => { x with l2 := p.l2, l2resv := p.l2resv, l1i := p.l1i, l1d := p.l1d, pred := p.pred, near := p.near,
                                           touched := p.touched }) k
  exact this.trans h

theorem CacheOnly.part {α : Type} {p q : Pu} (h : CacheOnly p q) (f : Pu → α)
    (hf : ∀ (p : Pu) (a : List L2Line) (b : List (Nat × Nat)) (i d : List Nat) (c : List PredEnt) (m : List NearMark)
      (t : List (Bool × Nat)),
      f { p with l2 := a, l2resv := b, l1i := i, l1d := d, pred := c, near := m, touched := t } = f p := by intros; rfl) :
    f q = f p := by
  have := congrArg f h
  rwa [hf] at this

theorem LinesMoved.part {α : Type} {s t : State} (h : LinesMoved s t) (f : State → α)
    (hf : ∀ (s : State) (a : Sparse DirEnt) (b : Nat) (c : Sparse Moesi) (d : Sparse TrkEnt) (e : Sparse Pu) (m : Sparse TWord)
      (i : List (Nat × Word)) (r : Sparse TWord) (n : Nat),
      f { s with dir := a, dirClock := b, l3 := c, trk := d, pus := e, mem := m, tbHist := i, dram := r, fresh := n } = f s := by
        intros; rfl) : f t = f s := by
  have := congrArg f h.rest
  rwa [hf] at this

theorem LinesOnly.regs {s t : State} (h : LinesOnly s t) : t.regs = s.regs := h.moved.part State.regs

/-- The failed nodes are in the registers. -/
theorem nodeFailed_regs {s t : State} (h : t.regs = s.regs) (k : Nat) : nodeFailed t k = nodeFailed s k := by
  unfold nodeFailed ccsFld ccsGet
  rw [h]

theorem dead_regs {s t : State} (h : t.regs = s.regs) (e : DirEnt) : e.dead t = e.dead s := by
  unfold DirEnt.dead
  rw [nodeFailed_regs h]

theorem ownerLost_of {s t : State} (h : t.regs = s.regs) (hd : t.dir = s.dir) (l : Nat) : ownerLost t l = ownerLost s l := by
  have : DirEnt.dead t = DirEnt.dead s := funext (dead_regs h)
  unfold ownerLost dirFind
  rw [hd, this]

theorem LinesOnly.refl (s : State) : LinesOnly s s :=
  ⟨rfl, fun _ => rfl, fun _ => Or.inl rfl, fun _ h => h, fun _ h => h, id⟩

theorem LinesOnly.trans {s t u : State} (h : LinesOnly s t) (k : LinesOnly t u) : LinesOnly s u where
  rest := by
    have := congrArg (fun x : State =>
      { x with dir := s.dir, dirClock := s.dirClock, l3 := s.l3, trk := s.trk, pus := s.pus, mem := s.mem, tbHist := s.tbHist,
               dram := s.dram, fresh := s.fresh }) k.rest
    exact this.trans h.rest
  pu j := (h.pu j).trans (k.pu j)
  mem a := by
    rcases k.mem a with e | e | ⟨e, f⟩
    · rcases h.mem a with g | g | g
      · exact Or.inl (e.trans g)
      · exact Or.inr (Or.inl (e ▸ g))
      · exact Or.inr (Or.inr ⟨g.1, e.trans g.2⟩)
    · exact Or.inr (Or.inl (h.dram _ e))
    · exact Or.inr (Or.inr ⟨h.lost _ e, f⟩)
  dram e he := h.dram e (k.dram e he)
  lost l hl := h.lost l (k.lost l hl)
  wf := k.wf ∘ h.wf

/-- A change of fields that hold neither memory nor owners. -/
theorem linesOnly_same {s t : State} (h : { t with dirClock := s.dirClock, l3 := s.l3, trk := s.trk, pus := s.pus, fresh := s.fresh } = s)
    (hp : ∀ k, CacheOnly (s.pu k) (t.pu k)) : LinesOnly s t := by
  have hm : t.mem = s.mem := (congrArg State.mem h :)
  have hr : t.dram = s.dram := (congrArg State.dram h :)
  have hg : t.regs = s.regs := (congrArg State.regs h :)
  have hd : t.dir = s.dir := (congrArg State.dir h :)
  refine ⟨?_, hp, fun a => Or.inl ?_, fun e he => hr ▸ he, fun l hl => ?_, fun hw => hm ▸ hw⟩
  · exact congrArg (fun x : State => { x with dir := s.dir, mem := s.mem, tbHist := s.tbHist, dram := s.dram }) h
  · unfold memGet; rw [hm]
  · rwa [ownerLost_of hg hd] at hl

theorem linesOnly_modPu {s : State} {n : Nat} {f : Pu → Pu} (h : ∀ p, CacheOnly p (f p)) : LinesOnly s (s.modPu n f) := by
  refine linesOnly_same rfl fun k => ?_
  rw [pu_modPu]
  split
  · rename_i e; subst e; exact h _
  · exact CacheOnly.refl _

theorem linesOnly_foldl {α : Type} {f : State → α → State} (h : ∀ s x, LinesOnly s (f s x)) (l : List α) (s : State) :
    LinesOnly s (l.foldl f s) := by
  induction l generalizing s with
  | nil => exact LinesOnly.refl s
  | cons x l ih => exact (h s x).trans (ih _)

theorem linesOnly_l3Put (s : State) (d a : Nat) (m : Option Moesi) : LinesOnly s (l3Put s d a m) :=
  linesOnly_same rfl fun _ => rfl

theorem linesOnly_trkPut (s : State) (d a : Nat) (m : Option Moesi) : LinesOnly s (trkPut s d a m) :=
  linesOnly_same rfl fun _ => rfl

theorem linesOnly_drawFree (s : State) : LinesOnly s (drawFree s).2 := linesOnly_same rfl fun _ => rfl

theorem spFind_spErase_ne {α : Type} (m : Sparse α) (a b : Nat) (h : b ≠ a) : spFind (spErase m a) b = spFind m b := by
  rw [spFind_erase]; simp [h]

theorem spFind_spPut_ne {α : Type} (m : Sparse α) (a b : Nat) (v : Option α) (h : b ≠ a) : spFind (spPut m a v) b = spFind m b := by
  unfold spPut
  cases v with
  | none => exact spFind_spErase_ne m a b h
  | some v =>
    dsimp only
    rw [spFind_insert _ _ _ _ (spFind_erase_self m a), if_neg h, spFind_spErase_ne m a b h]

theorem spFind_spPut_self {α : Type} (m : Sparse α) (a : Nat) (v : Option α) : spFind (spPut m a v) a = v := by
  unfold spPut
  cases v with
  | none => exact spFind_erase_self m a
  | some v => dsimp only; rw [spFind_insert _ _ _ _ (spFind_erase_self m a), if_pos rfl]

/-- An entry written after lines have moved. -/
theorem linesOnly_setDir2 {s t : State} (k : LinesOnly s t) (a : Nat) (e : Option DirEnt)
    (h : ∀ x, e = some x → x.dead t = true → ownerLost s a = true) : LinesOnly s (setDir t a e) := by
  refine ⟨k.rest, k.pu, k.mem, k.dram, fun l hl => ?_, k.wf⟩
  have hr : (setDir t a e).regs = t.regs := rfl
  unfold ownerLost dirFind at hl
  rw [funext (dead_regs hr)] at hl
  unfold setDir at hl
  dsimp only at hl
  by_cases q : l = a
  · subst q
    rw [spFind_spPut_self] at hl
    cases e with
    | none => simp at hl
    | some x => exact h x rfl hl
  · rw [spFind_spPut_ne _ _ _ _ q] at hl
    exact k.lost l hl

/-- An entry written: it names no lost owner but where the line's owner was lost already. -/
theorem linesOnly_setDir (s : State) (a : Nat) (e : Option DirEnt)
    (h : ∀ x, e = some x → x.dead s = true → ownerLost s a = true) : LinesOnly s (setDir s a e) :=
  linesOnly_setDir2 (LinesOnly.refl s) a e h

theorem linesOnly_memWritten (s : State) (l : Nat) : LinesOnly s (memWritten s l) :=
  ⟨rfl, fun _ => rfl, fun _ => Or.inl rfl, fun _ h => (List.mem_filter.1 h).1, fun _ h => h, id⟩

/-- Words written that memory may hold. -/
theorem linesOnly_puts (s : State) (l : List (Nat × TWord))
    (h : ∀ e ∈ l, e ∈ s.dram ∨ (ownerLost s (e.1 / 8) = true ∧ e.2 = poisonWord)) :
    LinesOnly s (l.foldl (fun s e => memPut s e.1 e.2) s) := by
  have key : ∀ (l : List (Nat × TWord)) (t : State), LinesOnly s t →
      t.dram = s.dram → (∀ e ∈ l, e ∈ s.dram ∨ (ownerLost s (e.1 / 8) = true ∧ e.2 = poisonWord)) →
      LinesOnly s (l.foldl (fun s e => memPut s e.1 e.2) t) := by
    intro l
    induction l with
    | nil => exact fun t ht _ _ => ht
    | cons e l ih =>
      intro t ht hd hl
      refine ih (memPut t e.1 e.2) ?_ hd fun x hx => hl x (List.mem_cons_of_mem _ hx)
      refine ⟨ht.rest, ht.pu, fun a => ?_, ht.dram, ht.lost, fun hw => memPut_wf _ _ _ (ht.wf hw)⟩
      by_cases k : a = e.1
      · subst k
        unfold Kept
        rw [memGet_memPut_self]
        rcases hl e (List.mem_cons_self ..) with g | g
        · exact Or.inr (Or.inl g)
        · exact Or.inr (Or.inr g)
      · have := ht.mem a
        unfold Kept at this ⊢
        rwa [memGet_memPut_ne _ _ _ _ k]
  exact key l s (LinesOnly.refl s) rfl h

theorem linesOnly_memFalls (s : State) (l : Nat) : LinesOnly s (memFalls s l) := by
  unfold memFalls
  exact (linesOnly_puts s _ fun e he => Or.inl (List.mem_filter.1 he).1).trans (linesOnly_memWritten ..)

theorem linesOnly_poisonLine (s : State) (l : Nat) (h : ownerLost s l = true) : LinesOnly s (poisonLine s l) := by
  unfold poisonLine
  have : (List.range 8).foldl (fun s i => memPut s (8 * l + i) poisonWord) s
      = ((List.range 8).map (fun i => (8 * l + i, poisonWord))).foldl (fun s (e : Nat × TWord) => memPut s e.1 e.2) s := by
    rw [List.foldl_map]
  rw [this]
  refine (linesOnly_puts s _ fun e he => Or.inr ?_).trans (linesOnly_memWritten ..)
  obtain ⟨i, hi, rfl⟩ := List.mem_map.1 he
  have hi := List.mem_range.1 hi
  refine ⟨?_, rfl⟩
  have : (8 * l + i) / 8 = l := by omega
  rwa [this]

theorem cacheOnly_predUp (p : Pu) (a : Nat) : CacheOnly p (predUp p a) := by
  unfold predUp
  split <;> rfl

theorem cacheOnly_snooped (p : Pu) (a : Nat) (b : Bool) : CacheOnly p (p.snooped a b) := by
  unfold Pu.snooped
  cases b
  · rfl
  · exact CacheOnly.trans (q := { p with near := p.near.filter (fun x => x.line != a) }) rfl (cacheOnly_predUp ..)

theorem linesOnly_snoopTakes (s : State) (n a : Nat) : LinesOnly s (snoopTakes s n a) := by
  unfold snoopTakes
  split
  · exact LinesOnly.refl s
  · split
    · exact linesOnly_modPu fun p => cacheOnly_snooped p a true
    · exact (linesOnly_drawFree s).trans (linesOnly_modPu fun p => cacheOnly_snooped p a _)

theorem cacheOnly_l2Drop (p : Pu) (a w : Nat) (b : Bool) : CacheOnly p (p.l2Drop a w b) := rfl

theorem linesOnly_l2Drop (s : State) (n a w : Nat) (b : Bool) : LinesOnly s (s.modPu n (fun p => p.l2Drop a w b)) :=
  linesOnly_modPu fun p => cacheOnly_l2Drop p a w b

theorem linesOnly_l2Inval (s : State) (n a : Nat) (b : Bool) : LinesOnly s (l2Inval s n a b) := by
  unfold l2Inval
  split
  · exact LinesOnly.refl s
  · rename_i l _
    have h := linesOnly_l2Drop s n a l.way (bit (lockedWays s n) l.way)
    dsimp only
    generalize s.modPu n (fun p => p.l2Drop a l.way (bit (lockedWays s n) l.way)) = u at h ⊢
    split
    · exact h.trans (linesOnly_snoopTakes ..)
    · exact h

theorem linesOnly_l2SetState (s : State) (n a : Nat) (m : Moesi) : LinesOnly s (l2SetState s n a m) :=
  linesOnly_modPu fun _ => rfl

theorem linesOnly_dieInval (s : State) (d a : Nat) (b : Bool) : LinesOnly s (dieInval s d a b) :=
  ((linesOnly_foldl (fun s n => linesOnly_l2Inval s n a b) _ s).trans (linesOnly_l3Put ..)).trans (linesOnly_trkPut ..)

theorem linesOnly_l2Lower (s : State) (n a : Nat) : LinesOnly s (l2Lower s n a) := by
  unfold l2Lower
  split
  · exact linesOnly_l2SetState ..
  · exact LinesOnly.refl s

theorem linesOnly_dieShare (s : State) (d a : Nat) : LinesOnly s (dieShare s d a) := by
  unfold dieShare
  dsimp only
  have h := (linesOnly_foldl (fun s n => linesOnly_l2Lower s n a) (diePus d) s).trans
    (linesOnly_l3Put _ d a ((l3Get ((diePus d).foldl (fun s n => l2Lower s n a) s) d a).map Moesi.shared))
  refine h.trans ?_
  split
  · exact linesOnly_trkPut ..
  · exact LinesOnly.refl _

theorem linesOnly_dirFree (s : State) (a : Nat) : LinesOnly s (dirFree s a) :=
  (linesOnly_memFalls s a).trans (linesOnly_setDir _ _ _ fun _ h => by simp at h)

/-- The line's entry is lost just when the line's owner is. -/
theorem ownerLost_entry {s : State} {a : Nat} {e : DirEnt} (h : dirFind s a = some e) : ownerLost s a = e.dead s := by
  unfold ownerLost
  rw [h]
  rfl

theorem linesOnly_nodeGone (s : State) (n a : Nat) (b : Bool) : LinesOnly s (nodeGone s n a b) := by
  unfold nodeGone
  split
  · exact LinesOnly.refl s
  · split
    · exact LinesOnly.refl s
    · have h : LinesOnly s (if b = true then memWritten s a else s) := by
        split
        · exact linesOnly_memWritten ..
        · exact LinesOnly.refl s
      dsimp only
      refine h.trans ?_
      generalize (if b = true then memWritten s a else s) = u
      split
      · exact linesOnly_dirFree ..
      · refine linesOnly_setDir _ _ _ fun x hx hd => ?_
        cases hx
        simp [DirEnt.dead] at hd

theorem linesOnly_dieLeft (s : State) (d a : Nat) (b : Bool) : LinesOnly s (dieLeft s d a b) := by
  unfold dieLeft
  split
  · exact LinesOnly.refl s
  · exact (linesOnly_trkPut ..).trans (linesOnly_nodeGone ..)

theorem linesOnly_dieDrop (s : State) (d a : Nat) : LinesOnly s (dieDrop s d a) :=
  (linesOnly_dieInval ..).trans (linesOnly_nodeGone ..)

theorem linesOnly_l3Evict (s : State) (d a : Nat) : LinesOnly s (l3Evict s d a) := by
  unfold l3Evict
  dsimp only
  refine (linesOnly_l3Put s d a none).trans ?_
  split
  · split
    · exact linesOnly_l2SetState ..
    · exact LinesOnly.refl _
  · exact linesOnly_dieLeft ..

theorem linesOnly_l3Add (s : State) (d a : Nat) (m : Moesi) : LinesOnly s (l3Add s d a m) := by
  unfold l3Add
  dsimp only
  refine LinesOnly.trans ?_ (linesOnly_l3Put ..)
  split
  · exact LinesOnly.refl s
  · split
    · exact linesOnly_l3Evict ..
    · exact LinesOnly.refl s

theorem linesOnly_l2Evict (s : State) (n a : Nat) : LinesOnly s (l2Evict s n a) := by
  unfold l2Evict
  dsimp only
  split
  · exact LinesOnly.refl s
  · refine (linesOnly_l2Inval s n a false).trans ?_
    split
    · exact linesOnly_l3Add ..
    · exact linesOnly_dieLeft ..

theorem linesOnly_trkUse (s : State) (d a : Nat) : LinesOnly s (trkUse s d a) := by
  unfold trkUse
  split
  · exact linesOnly_trkPut ..
  · exact LinesOnly.refl s

theorem linesOnly_trkRoom (s : State) (d a : Nat) : LinesOnly s (trkRoom s d a) := by
  unfold trkRoom
  split
  · exact linesOnly_dieDrop ..
  · exact LinesOnly.refl s

theorem linesOnly_l2Place (s : State) (n a w : Nat) (m : Moesi) : LinesOnly s (l2Place s n a w m) :=
  linesOnly_modPu fun _ => rfl

theorem linesOnly_l2Fill (s : State) (n a : Nat) (m : Moesi) : LinesOnly s (l2Fill s n a m) := by
  unfold l2Fill
  split
  · exact linesOnly_modPu fun _ => rfl
  · split
    · exact LinesOnly.refl s
    · dsimp only
      split
      · exact (linesOnly_l2Evict ..).trans (linesOnly_l2Place ..)
      · exact linesOnly_l2Place ..

theorem linesOnly_reached (s : State) (a : Nat) : LinesOnly s (reached s a) := by
  unfold reached
  split
  · exact LinesOnly.refl s
  · rename_i e he
    dsimp only
    have h1 : LinesOnly s (if e.dead s = true then poisonLine s a else if e.st = .S then memFalls s a else s) := by
      split
      · rename_i hd
        exact linesOnly_poisonLine s a ((ownerLost_entry he).trans hd)
      · split
        · exact linesOnly_memFalls ..
        · exact LinesOnly.refl s
    refine h1.trans ?_
    have hr := h1.regs
    generalize (if e.dead s = true then poisonLine s a else if e.st = .S then memFalls s a else s) = u at hr ⊢
    split
    · exact linesOnly_setDir _ _ _ fun _ h => by simp at h
    · split
      · exact linesOnly_setDir _ _ _ fun x hx hd => by cases hx; simp [DirEnt.dead] at hd
      · rename_i hdead
        split
        · exact LinesOnly.refl _
        · refine linesOnly_setDir _ _ _ fun x hx hd => ?_
          cases hx
          rw [dead_regs hr] at hd
          exact absurd hd hdead

theorem linesOnly_dies (s : State) (p : State → Nat → Bool) (a : Nat) (b : Bool) :
    LinesOnly s ((List.range 6).foldl (fun s k => if p s k then dieInval s k a b else s) s) := by
  refine linesOnly_foldl (fun s k => ?_) _ s
  split
  · exact linesOnly_dieInval ..
  · exact LinesOnly.refl s

theorem linesOnly_dirEvict (s : State) (a : Nat) : LinesOnly s (dirEvict s a) := by
  unfold dirEvict
  dsimp only
  refine ((linesOnly_reached s a).trans (linesOnly_dies _ (fun s k => dieHolds s k a) a true)).trans (LinesOnly.trans ?_ (linesOnly_dirFree ..))
  split
  · exact linesOnly_memWritten ..
  · exact LinesOnly.refl _

theorem linesOnly_dirRoom (s : State) (a : Nat) : LinesOnly s (dirRoom s a) := by
  unfold dirRoom
  split
  · exact linesOnly_dirEvict ..
  · exact LinesOnly.refl s

/-- A new owner that has not failed. -/
theorem linesOnly_setOwner (s : State) (a d : Nat) (h : nodeFailed s d = false) (v : Nat) :
    LinesOnly s (setDir s a (some { st := .X, owner := d, vec := v, used := 0 })) := by
  refine linesOnly_setDir _ _ _ fun x hx hd => ?_
  cases hx
  simp [DirEnt.dead, h] at hd

/-- Taking a line to write it. -/
theorem linesOnly_ownLine (s : State) (n a : Nat) (h : nodeFailed s (n / 10) = false) : LinesOnly s (ownLine s n a) := by
  unfold ownLine
  dsimp only
  have h0 : LinesOnly s (if ((s.pu n).l2Line a).isSome = true then s else reached s a) := by
    split
    · exact LinesOnly.refl s
    · exact linesOnly_reached ..
  have h1 : ∀ t : State, LinesOnly t ((List.range 6).foldl
      (fun s k => if k = n / 10 then s else if dieHolds s k a then dieInval s k a true else s) t) := by
    refine fun t => linesOnly_foldl (fun s k => ?_) _ t
    split
    · exact LinesOnly.refl s
    · split
      · exact linesOnly_dieInval ..
      · exact LinesOnly.refl s
  have h2 : ∀ t : State, LinesOnly t ((diePus (n / 10)).foldl (fun s m => if m = n then s else l2Inval s m a true) t) := by
    refine fun t => linesOnly_foldl (fun s m => ?_) _ t
    split
    · exact LinesOnly.refl s
    · exact linesOnly_l2Inval ..
  have h3 := (((h0.trans (h1 _)).trans (linesOnly_l3Put _ (n / 10) a none)).trans (h2 _)).trans
    ((linesOnly_dirRoom _ a).trans (linesOnly_trkRoom _ (n / 10) a))
  refine h3.trans (LinesOnly.trans (linesOnly_setOwner _ _ _ ?_ _) ((linesOnly_trkPut ..).trans (linesOnly_l2Fill ..)))
  rw [nodeFailed_regs h3.regs, h]

theorem linesOnly_takeOwn (s : State) (n a : Nat) (h : nodeFailed s (n / 10) = false) : LinesOnly s (takeOwn s n a) := by
  unfold takeOwn
  split
  · split
    · exact (linesOnly_l2Fill ..).trans (linesOnly_trkUse ..)
    · exact linesOnly_ownLine s n a h
  · exact linesOnly_ownLine s n a h

/-- Invalidating every copy of a line. -/
theorem linesOnly_dropCopies (s : State) (a : Nat) : LinesOnly s (dropCopies s a) := by
  unfold dropCopies
  dsimp only
  refine LinesOnly.trans (((linesOnly_dirRoom s a).trans (linesOnly_reached _ a)).trans
    (linesOnly_dies _ (fun s k => dieHolds s k a) a true)) (LinesOnly.trans ?_ (linesOnly_memWritten ..))
  split
  · exact linesOnly_setDir _ _ _ fun _ h => by simp at h
  · exact LinesOnly.refl _

theorem linesOnly_sharePerm (s : State) (d a : Nat) (h : nodeFailed s d = false) : LinesOnly s (sharePerm s d a).1 := by
  unfold sharePerm
  dsimp only
  have h1 := ((linesOnly_reached s a).trans (linesOnly_dirRoom _ a)).trans (linesOnly_trkRoom _ d a)
  refine h1.trans ?_
  split
  · refine LinesOnly.trans (linesOnly_setOwner _ _ _ ?_ _) (linesOnly_trkPut ..)
    rw [nodeFailed_regs h1.regs, h]
  · rename_i e he
    generalize trkRoom (dirRoom (reached s a) a) d a = u at he ⊢
    have h2 : LinesOnly u (if e.st = .S ∨ 6 ≤ e.owner then u else dieShare u e.owner a) := by
      split
      · exact LinesOnly.refl _
      · exact linesOnly_dieShare ..
    dsimp only
    refine LinesOnly.trans ?_ (linesOnly_trkPut ..)
    refine linesOnly_setDir2 h2 _ _ fun x hx hd => ?_
    rw [ownerLost_entry he]
    cases hx
    unfold DirEnt.dead at hd ⊢
    dsimp only at hd
    rw [nodeFailed_regs h2.regs] at hd
    generalize (decide (6 ≤ e.owner) || dieDirty _ e.owner a) = b at hd
    by_cases hs : e.st = .S
    · simp [hs] at hd
    · cases b <;> simp_all

theorem linesOnly_shareLine (s : State) (d a : Nat) (h : nodeFailed s d = false) : LinesOnly s (shareLine s d a).1 := by
  have h1 := linesOnly_dieShare s d a
  have h2 := linesOnly_sharePerm s d a h
  unfold shareLine
  generalize dieShare s d a = u at h1 ⊢
  generalize sharePerm s d a = v at h2 ⊢
  split
  · exact h1
  · exact h2

theorem linesOnly_l2Read (s : State) (n a : Nat) (h : nodeFailed s (n / 10) = false) : LinesOnly s (l2Read s n a) := by
  unfold l2Read
  split
  · exact linesOnly_l2Fill ..
  · split
    · have h1 := linesOnly_shareLine s (n / 10) a h
      unfold l2Share
      dsimp only
      generalize shareLine s (n / 10) a = t at h1 ⊢
      exact h1.trans (linesOnly_l2Fill ..)
    · exact LinesOnly.refl s

theorem cacheOnly_l1Take (p : Pu) (b : Bool) (a : Nat) : CacheOnly p (p.l1Take b a) := by
  cases b <;> rfl

theorem linesOnly_l1Take (s : State) (n : Nat) (b : Bool) (a : Nat) : LinesOnly s (s.modPu n (fun p => p.l1Take b a)) :=
  linesOnly_modPu fun p => cacheOnly_l1Take p b a

/-- The lines that PU n has read come into its caches. -/
theorem linesOnly_fillLine (n : Nat) (s : State) (x : Bool × Nat) : LinesOnly s (fillLine n s x) := by
  unfold fillLine
  split
  · exact LinesOnly.refl s
  · rename_i hf
    simp only [Bool.or_eq_true, not_or, Bool.not_eq_true] at hf
    have h2 := (linesOnly_l2Read s n x.2 hf.2).trans (linesOnly_trkUse _ (n / 10) x.2)
    dsimp only
    generalize trkUse _ (n / 10) x.2 = u at h2 ⊢
    split
    · exact h2
    · exact h2.trans (linesOnly_l1Take ..)

theorem linesOnly_settle (s : State) (n : Nat) : LinesOnly s (settle s n) := by
  unfold settle
  refine LinesOnly.trans (linesOnly_modPu fun p => ?_) (linesOnly_foldl (fun s x => linesOnly_fillLine n s x) _ _)
  rfl

/-- A word written by an agent of the module: that word, and lines among caches. -/
theorem memGet_agentWrite (s : State) (w a : Nat) (v : TWord) :
    memGet (agentWrite s w v) a = v ∧ a = w ∨ a ≠ w ∧ memGet (agentWrite s w v) a = memGet (dropCopies s (w / 8)) a := by
  unfold agentWrite
  by_cases h : a = w
  · subst h; exact Or.inl ⟨memGet_memPut_self .., rfl⟩
  · exact Or.inr ⟨h, memGet_memPut_ne _ _ _ _ h⟩

theorem kept_agentWrite (s : State) (w a : Nat) (v : TWord) (h : a ≠ w) : Kept s (agentWrite s w v) a := by
  have := (linesOnly_dropCopies s (w / 8)).mem a
  unfold Kept at this ⊢
  unfold agentWrite
  rwa [memGet_memPut_ne _ _ _ _ h]

theorem pu_agentWrite (s : State) (w k : Nat) (v : TWord) : CacheOnly (s.pu k) ((agentWrite s w v).pu k) := by
  unfold agentWrite
  rw [pu_memPut]
  exact (linesOnly_dropCopies s (w / 8)).pu k

theorem regs_agentWrite (s : State) (w : Nat) (v : TWord) : (agentWrite s w v).regs = s.regs := by
  unfold agentWrite
  rw [memPut_regs]
  exact (linesOnly_dropCopies s (w / 8)).regs

theorem agentWrite_wf (s : State) (w : Nat) (v : TWord) (h : Memory.wf s.mem = true) :
    Memory.wf (agentWrite s w v).mem = true :=
  memPut_wf _ _ _ ((linesOnly_dropCopies s (w / 8)).wf h)

end Sys2Proof.Machine
end

