-- ==== Sys2Proof/Laws/Run.lean ====
section
/-! SUPPORT. What running an instruction leads to: an instruction whose checks pass on a ready PU completes. -/

namespace Sys2Proof.Machine

theorem dueEntry_false {s : State} {n : Nat} (h : dueEntry s n true = none) : dueEntry s n false = none := by
  simp only [dueEntry] at h ⊢
  cases h1 : (s.pu n).mcImm <;> cases h2 : (s.pu n).prog <;> cases h3 : dueMc (s.pu n) <;> cases h4 : dueAsync s n <;>
    cases h5 : fpPending (s.pu n) <;> cases h6 : (s.pu n).due.within <;> cases h7 : (s.pu n).resume <;>
    simp_all [firstDue]

theorem dueEntry_quiet {s : State} {n : Nat} (h : dueEntry s n true = none) :
    (s.pu n).mcImm = none ∧ (s.pu n).prog = none := by
  simp only [dueEntry] at h
  cases h1 : (s.pu n).mcImm <;> cases h2 : (s.pu n).prog <;> simp [firstDue, h1, h2] at h ⊢

/-- The parts of a PU that decide what happens at the boundary after an instruction. -/
structure SameEnd (p q : Pu) : Prop where
  mcImm : q.mcImm = p.mcImm
  prog  : q.prog = p.prog
  job   : q.job = p.job
  due   : q.due = p.due
  stop  : q.stopHeld = p.stopHeld
  load  : q.loaderStop = p.loaderStop
  step  : q.stepArm = p.stepArm
  halt  : q.haltReq = p.haltReq
  resync : q.resync = p.resync

/-- Nothing stops a PU at its boundary that nothing asked to stop. -/
theorem halts_quiet {s : State} {n : Nat} (hs : (s.pu n).stopHeld = false) (hl : (s.pu n).loaderStop = false)
    (ha : (s.pu n).stepArm = false) (hh : (s.pu n).haltReq = false) : halts s n = s := by
  simp [halts, haltStop, haltLoader, haltDebug, hs, hl, ha, hh]

/-- The end of an instruction at a quiet boundary. -/
theorem voted_agree {b t : State} {n : Nat} (hm : (t.pu n).mcImm = none) (hp : (t.pu n).prog = none)
    (hj : (t.pu n).job = none) (hd : (t.pu n).due = .none) (hr : (t.pu n).resync = none) (hs : (t.pu n).stopHeld = false)
    (hl : (t.pu n).loaderStop = false) (ha : (t.pu n).stepArm = false) (hh : (t.pu n).haltReq = false) :
    voted b t n .agree = t.modPu n (fun p => { p with latch := [], latchPos := 0 }) := by
  simp [voted, votedDown, masks, release, succeed, flushUnit, hj, hd, hr, boundary, takeProg, hm, hp, hs, ha, firstDue,
    halts_quiet, hl, hh]

theorem SameEnd.refl (p : Pu) : SameEnd p p := ⟨rfl, rfl, rfl, rfl, rfl, rfl, rfl, rfl, rfl⟩

theorem SameEnd.trans {p q r : Pu} (h : SameEnd p q) (k : SameEnd q r) : SameEnd p r :=
  ⟨k.mcImm.trans h.mcImm, k.prog.trans h.prog, k.job.trans h.job, k.due.trans h.due, k.stop.trans h.stop, k.load.trans h.load,
    k.step.trans h.step, k.halt.trans h.halt, k.resync.trans h.resync⟩

theorem sameEnd_cacheOnly {p q : Pu} (h : CacheOnly p q) : SameEnd p q :=
  ⟨h.part Pu.mcImm, h.part Pu.prog, h.part Pu.job, h.part Pu.due, h.part Pu.stopHeld, h.part Pu.loaderStop,
    h.part Pu.stepArm, h.part Pu.haltReq, h.part Pu.resync⟩

/-- The lines that an instruction has read change nothing that decides what happens at its boundary. -/
theorem sameEnd_settle (s : State) (n k : Nat) : SameEnd (s.pu k) ((settle s n).pu k) :=
  sameEnd_cacheOnly ((linesOnly_settle s n).pu k)

theorem runInstr_ready {h : Hdr} {t4 : Bool} {body : M Unit} {s t : State} (hr : ready s h.pu.val = true)
    (hv : h.vote = .agree) (hb : body (atStart s h.pu.val) = .ok () t)
    (he : SameEnd (s.pu h.pu.val) (t.pu h.pu.val)) :
    runInstr h t4 body s = (settle t h.pu.val).modPu h.pu.val (fun p => { p with latch := [], latchPos := 0 }) := by
  replace he := he.trans (sameEnd_settle t h.pu.val h.pu.val)
  simp only [ready, Bool.and_eq_true, Bool.not_eq_true', Option.isNone_iff_eq_none, decide_eq_true_eq] at hr
  obtain ⟨⟨⟨⟨⟨⟨⟨⟨⟨hc, hw⟩, hdue⟩, hj⟩, hd⟩, hy⟩, hs⟩, hl⟩, ha⟩, hh⟩ := hr
  have hq := dueEntry_quiet hdue
  have hnone : (if atBoundary (s.pu h.pu.val) then dueEntry s h.pu.val t4 else none) = none := by
    cases t4
    · simp [dueEntry_false hdue]
    · simp [hdue]
  unfold runInstr
  simp only [hc, hw, hnone, Bool.not_true, Bool.false_or, Bool.false_eq_true, if_false, modPu_modPu]
  simp only [atStart] at hb
  rw [hb, hv]
  exact voted_agree (he.mcImm.trans hq.1) (he.prog.trans hq.2) (he.job.trans hj) (he.due.trans hd) (he.resync.trans hy)
    (he.stop.trans hs) (he.load.trans hl) (he.step.trans ha) (he.halt.trans hh)

/-- An instruction that starts and whose body completes. -/
theorem instr_completes {h : Hdr} {i : OpInfo} {sp : List Spec} {body : Ctx → M Unit} {s s1 t : State} {c : Ctx}
    (hs : Starts h i sp s c s1) (hb : body c s1 = .ok () t) (he : SameEnd (s.pu h.pu.val) (t.pu h.pu.val)) :
    instr h i sp body s = .next ((settle t h.pu.val).modPu h.pu.val (fun p => { p with latch := [], latchPos := 0 })) := by
  unfold instr
  have : (prelude h i sp >>= body) (atStart s h.pu.val) = .ok () t := by
    simp [bind, EStateM.bind, hs.begins, hb]
  rw [runInstr_ready hs.ready hs.vote this he]

end Sys2Proof.Machine
end

