-- ==== Sys2Proof/Laws/Complete.lean ====
section
/-! SUPPORT. An instruction whose operands pass their checks completes: `instr_done` is the one lemma that result statements of
instructions go through. -/

namespace Sys2Proof.Machine

theorem bind_ok {α β : Type} {m : M α} {f : α → M β} {s t : State} {b : β} (h : (m >>= f) s = .ok b t) :
    ∃ a u, m s = .ok a u ∧ f a u = .ok b t := by
  simp only [bind, EStateM.bind] at h
  split at h
  · exact ⟨_, _, by assumption, h⟩
  · cases h

theorem ok_bind {α β : Type} {m : M α} {f : α → M β} {s t : State} {a : α} (h : m s = .ok a t) :
    (m >>= f) s = f a t := by
  simp only [bind, EStateM.bind, h]

@[simp] theorem pure_ok {α : Type} (a : α) (s : State) : (pure a : M α) s = .ok a s := rfl

theorem get_bind {β : Type} (f : State → M β) (s : State) : (get >>= f) s = f s s := rfl

theorem guard_ok {b : Bool} {k : M Unit} {s : State} (h : b = true) : guardM b k s = .ok () s := by
  subst h; rfl

theorem sameEnd_setReg (p : Pu) (k : Nat) (w : TWord) : SameEnd p (p.setReg k w) :=
  ⟨rfl, rfl, rfl, rfl, rfl, rfl, rfl, rfl, rfl⟩

/-- The stack movement writes at most G15 (R77). -/
theorem moveStack_cases (p : Pu) (i : OpInfo) (sp : List Spec) :
    p.moveStack i sp = p ∨ ∃ w, p.moveStack i sp = p.setReg 15 w := by
  unfold Pu.moveStack
  dsimp only
  split
  · exact Or.inl rfl
  · exact Or.inr ⟨_, rfl⟩

theorem sameEnd_moveStack (p : Pu) (i : OpInfo) (sp : List Spec) : SameEnd p (p.moveStack i sp) := by
  rcases moveStack_cases p i sp with h | ⟨w, h⟩ <;> rw [h]
  · exact SameEnd.refl p
  · exact sameEnd_setReg ..

theorem sameEnd_setIA (p : Pu) (a : Nat) : SameEnd p (p.setIA a) := by
  unfold Pu.setIA
  exact ⟨rfl, rfl, rfl, rfl, rfl, rfl, rfl, rfl, rfl⟩

theorem sameEnd_setCC (p : Pu) (a : Nat) : SameEnd p (p.setCC a) := by
  unfold Pu.setCC
  exact ⟨rfl, rfl, rfl, rfl, rfl, rfl, rfl, rfl, rfl⟩

theorem sameEnd_regOf (l : Loc) (w : TWord) (p : Pu) : SameEnd p (regOf l w p) := by
  cases l <;> first | exact sameEnd_setReg .. | exact SameEnd.refl p

/-- A part of PU n that is none of its requests is as before. -/
theorem ReadsOnly.part {α : Type} {n : Nat} {s t : State} (h : ReadsOnly n s t) (f : Pu → α)
    (hf : ∀ (p : Pu) (l : List LatchEnt) (k : Nat) (d : Option DevLoad) (t : List (Bool × Nat)),
      f { p with latch := l, latchPos := k, devLoad := d, touched := t } = f p := by intros; rfl) : f (t.pu n) = f (s.pu n) := by
  have := congrArg f h.own
  rwa [hf] at this

theorem ReadsOnly.sameEnd {n : Nat} {s t : State} (h : ReadsOnly n s t) : SameEnd (s.pu n) (t.pu n) :=
  ⟨h.part Pu.mcImm, h.part Pu.prog, h.part Pu.job, h.part Pu.due, h.part Pu.stopHeld, h.part Pu.loaderStop,
    h.part Pu.stepArm, h.part Pu.haltReq, h.part Pu.resync⟩

theorem ReadsOnly.reg {n : Nat} {s t : State} (h : ReadsOnly n s t) (k : Nat) : (t.pu n).reg k = (s.pu n).reg k :=
  h.part (fun p => p.reg k)

/-- What is known of an instruction that passes steps 1 to 4 of R83. -/
theorem prelude_ok {h : Hdr} {i : OpInfo} {sp : List Spec} {s t : State} {c : Ctx} (hp : prelude h i sp s = .ok c t) :
    c = { pu := h.pu.val, ia := pswIA (s.pu h.pu.val).psw, len := instrLen h i.opLen sp, relax := hasPfx h 2,
          narrow := hasPfx h 3, atomic := hasPfx h 1, bank := pfxBank h, vote := h.vote } := by
  unfold prelude at hp
  obtain ⟨c', u, hd, hp⟩ := bind_ok hp
  have hc : c = c' := by
    rw [get_bind] at hp
    obtain ⟨_, _, _, hp⟩ := bind_ok hp
    obtain ⟨_, _, _, hp⟩ := bind_ok hp
    obtain ⟨_, _, _, hp⟩ := bind_ok hp
    cases hp; rfl
  subst hc
  unfold decodeM at hd
  rw [get_bind] at hd
  obtain ⟨_, _, _, hd⟩ := bind_ok hd
  obtain ⟨_, _, _, hd⟩ := bind_ok hd
  obtain ⟨_, _, _, hd⟩ := bind_ok hd
  obtain ⟨_, _, _, hd⟩ := bind_ok hd
  cases hd; rfl

theorem Starts.ctx {h : Hdr} {i : OpInfo} {sp : List Spec} {s s1 : State} {c : Ctx} (hs : Starts h i sp s c s1) :
    c = { pu := h.pu.val, ia := pswIA (s.pu h.pu.val).psw, len := instrLen h i.opLen sp, relax := hasPfx h 2,
          narrow := hasPfx h 3, atomic := hasPfx h 1, bank := pfxBank h, vote := h.vote } := by
  have := prelude_ok hs.begins
  simpa [atStart] using this

theorem Starts.pu {h : Hdr} {i : OpInfo} {sp : List Spec} {s s1 : State} {c : Ctx} (hs : Starts h i sp s c s1) :
    c.pu = h.pu.val := by rw [hs.ctx]

theorem Starts.reads {h : Hdr} {i : OpInfo} {sp : List Spec} {s s1 : State} {c : Ctx} (hs : Starts h i sp s c s1) :
    ReadsOnly h.pu.val (atStart s h.pu.val) s1 := (reads_prelude h i sp).ok hs.begins

/-- Completing an instruction. -/
theorem commit_ok {c : Ctx} {i : OpInfo} {sp : List Spec} {sts : List Store} {f : Pu → Pu} {s : State}
    {b : List MbEntry} (h : (s.pu c.pu).push sts = some b) :
    commit c i sp sts f s =
      .ok () (s.modPu c.pu (fun p => ((f { p with mb := b }).moveStack i sp).setIA c.next)) := by
  simp only [commit, pushStores, bind, EStateM.bind, get, getThe, MonadStateOf.get, EStateM.get, h, set,
    MonadStateOf.set, EStateM.set, modify, modifyGet, MonadStateOf.modifyGet, EStateM.modifyGet, modPu_modPu]

theorem commitTo_ok {c : Ctx} {i : OpInfo} {sp : List Spec} {l : Loc} {w : TWord} {f : Pu → Pu} {s : State}
    {b : List MbEntry} (h : (s.pu c.pu).push (storesOf s c.pu l w) = some b) :
    commitTo c i sp l w f s =
      .ok () (s.modPu c.pu (fun p => ((f (regOf l w { p with mb := b })).moveStack i sp).setIA c.next)) := by
  simp only [commitTo, get_bind]
  exact commit_ok h

/-- An instruction that starts, reads its operands and commits: the state after it. -/
theorem instr_done {h : Hdr} {i : OpInfo} {sp : List Spec} {body : Ctx → M Unit} {s s1 s2 : State} {c : Ctx}
    {b : List MbEntry} {f : Pu → Pu} (hs : Starts h i sp s c s1) (hr : ReadsOnly h.pu.val s1 s2)
    (hb : body c s1 = .ok () (s2.modPu c.pu (fun p => ((f { p with mb := b }).moveStack i sp).setIA c.next)))
    (hf : ∀ p, SameEnd p (f p)) : instr h i sp body s = .next (completed c i sp s2 b f) := by
  rw [instr_completes hs hb, hs.pu, completed, ended, hs.pu]
  rw [hs.pu, pu_modPu_self]
  refine SameEnd.trans ?_ (sameEnd_setIA _ _)
  refine SameEnd.trans ?_ (sameEnd_moveStack _ _ _)
  refine SameEnd.trans ?_ (hf _)
  have h0 : SameEnd (s.pu h.pu.val) ((atStart s h.pu.val).pu h.pu.val) := by
    simp only [atStart, pu_modPu_self]
    exact ⟨rfl, rfl, rfl, rfl, rfl, rfl, rfl, rfl, rfl⟩
  have h1 := (h0.trans hs.reads.sameEnd).trans hr.sameEnd
  exact ⟨h1.1, h1.2, h1.3, h1.4, h1.5, h1.6, h1.7, h1.8, h1.9⟩

end Sys2Proof.Machine
end

