-- ==== Sys2Proof/Laws/Entry.lean ====
section
/-! SUPPORT. What taking an interruption leaves alone, and an instruction that ends in an exception. -/

namespace Sys2Proof.Machine

theorem msixSend_pus (s : State) (v : Nat) : (msixSend s v).pus = s.pus := by
  unfold msixSend
  dsimp only
  split
  · rfl
  · split <;> rfl

theorem attend_pus (s : State) (k : Nat) : (attend s k).pus = s.pus := by
  unfold attend
  split
  · rfl
  · rw [msixSend_pus]; rfl

theorem attend_pu (s : State) (k n : Nat) : (attend s k).pu n = s.pu n := by
  unfold State.pu
  rw [attend_pus]

theorem sameEnd_agentWrite (s : State) (w k : Nat) (v : TWord) : SameEnd (s.pu k) ((agentWrite s w v).pu k) :=
  sameEnd_cacheOnly (pu_agentWrite s w k v)

theorem sameEnd_foldl {α : Type} {n : Nat} {f : State → α → State} (h : ∀ s x, SameEnd (s.pu n) ((f s x).pu n))
    (l : List α) (s : State) : SameEnd (s.pu n) ((l.foldl f s).pu n) := by
  induction l generalizing s with
  | nil => exact SameEnd.refl _
  | cons x l ih => exact (h s x).trans (ih _)

theorem sameEnd_modPu {s : State} {n : Nat} {f : Pu → Pu} (h : ∀ p, SameEnd p (f p)) :
    SameEnd (s.pu n) ((s.modPu n f).pu n) := by
  rw [pu_modPu_self]; exact h _

/-- The stores of an entry (R137). -/
theorem sameEnd_entryStores {s t : State} {n : Nat} {sts : List Store} (h : entryStores s n sts = some t) :
    SameEnd (s.pu n) (t.pu n) := by
  unfold entryStores at h
  dsimp only at h
  split at h
  · cases h
    exact sameEnd_modPu fun p => ⟨rfl, rfl, rfl, rfl, rfl, rfl, rfl, rfl, rfl⟩
  · split at h
    · cases h
      have h1 : SameEnd (s.pu n) ((s.modPu n (fun p => { p with unitHold := [] })).pu n) :=
        sameEnd_modPu fun p => ⟨rfl, rfl, rfl, rfl, rfl, rfl, rfl, rfl, rfl⟩
      refine h1.trans (SameEnd.trans (sameEnd_foldl (f := HeldStore.perform) (fun s x => ?_) _ _)
        (sameEnd_foldl (fun s x => ?_) _ _))
      · exact sameEnd_agentWrite ..
      · exact sameEnd_agentWrite ..
    · cases h

/-- At the boundary after an entry the PU has nothing more to take of the instruction's own, and what the boundary looks at is
as before. -/
structure AfterEntry (p q : Pu) : Prop where
  mcImm : q.mcImm = p.mcImm
  prog  : q.prog = none ∨ q.prog = p.prog
  stop  : q.stopHeld = p.stopHeld
  load  : q.loaderStop = p.loaderStop
  step  : q.stepArm = p.stepArm
  halt  : q.haltReq = p.haltReq
  due   : q.due = p.due
  resync : q.resync = p.resync

theorem SameEnd.after {p q : Pu} (h : SameEnd p q) : AfterEntry p q :=
  ⟨h.mcImm, Or.inr h.prog, h.stop, h.load, h.step, h.halt, h.due, h.resync⟩

theorem after_trans {p q r : Pu} (h : SameEnd p q) (k : AfterEntry q r) : AfterEntry p r :=
  ⟨k.mcImm.trans h.mcImm, k.prog.imp id (·.trans h.prog), k.stop.trans h.stop, k.load.trans h.load, k.step.trans h.step,
    k.halt.trans h.halt, k.due.trans h.due, k.resync.trans h.resync⟩

theorem lockup_eq (s : State) (n r : Nat) (e : Exc) : ∃ a v b w, lockup s n r e =
    (attend (ccsPut (ccsPut s a v) b w) 1).modPu n (fun p => { p with prog := none }) := by
  delta lockup
  exact ⟨_, _, _, _, by with_reducible rfl⟩

theorem lockup_after (s : State) (n r : Nat) (e : Exc) :
    AfterEntry (s.pu n) ((lockup s n r e).pu n) ∧ ((lockup s n r e).pu n).prog = none := by
  obtain ⟨a, v, b, w, h⟩ := lockup_eq s n r e
  rw [h, pu_modPu_self, attend_pu, pu_ccsPut, pu_ccsPut]
  exact ⟨⟨rfl, Or.inl rfl, rfl, rfl, rfl, rfl, rfl, rfl⟩, rfl⟩

theorem regs_foldl {α : Type} {f : State → α → State} (h : ∀ s x, (f s x).regs = s.regs) (l : List α) (s : State) :
    (l.foldl f s).regs = s.regs := by
  induction l generalizing s with
  | nil => rfl
  | cons x l ih => exact (ih _).trans (h s x)

theorem regs_entryStores {s t : State} {n : Nat} {sts : List Store} (h : entryStores s n sts = some t) :
    t.regs = s.regs := by
  unfold entryStores at h
  dsimp only at h
  split at h
  · cases h; rfl
  · split at h
    · cases h
      rw [regs_foldl (fun s x => regs_agentWrite ..), regs_foldl (f := HeldStore.perform) (fun s x => regs_agentWrite ..)]
      rfl
    · cases h

theorem puLocked_regs {s t : State} (n : Nat) (h : t.regs = s.regs) : puLocked t n = puLocked s n := by
  unfold puLocked ccsFld ccsGet
  rw [h]

/-- Entry into a class (R138): what it leaves alone in the PU; after a lockup no exception waits. -/
theorem enter_after {s t : State} {n : Nat} {e : Exc} {r p : Bool} (h : enter s n e r p = some t) :
    AfterEntry (s.pu n) (t.pu n) ∧ ((t.pu n).prog = none ∨ puLocked t n = puLocked s n) := by
  unfold enter at h
  extract_lets q base slot part old s0 sts busy at h
  have e0 : s0.pu n = s.pu n := by
    show (if p = true then s else _ : State).pu n = s.pu n
    split <;> rfl
  have er : s0.regs = s.regs := by
    show (if p = true then s else _ : State).regs = s.regs
    split <;> rfl
  clear_value sts old s0 slot busy
  have lk : ∀ u : State, SameEnd (s.pu n) (u.pu n) → ∀ k,
      AfterEntry (s.pu n) ((lockup u n k e).pu n) ∧
        (((lockup u n k e).pu n).prog = none ∨ puLocked (lockup u n k e) n = puLocked s n) :=
    fun u hu k => ⟨after_trans hu (lockup_after ..).1, Or.inl (lockup_after ..).2⟩
  by_cases hb : (q.isBusy e.cls) = true
  · rw [if_pos hb] at h
    cases h; exact lk _ (SameEnd.refl _) _
  · rw [if_neg hb] at h
    by_cases ha : (!areaOk s part slot) = true
    · rw [if_pos ha] at h
      cases h; exact lk _ (SameEnd.refl _) _
    · rw [if_neg ha] at h
      by_cases hm : (!mayRead s n (slot / 64)) = true
      · rw [if_pos hm] at h; cases h
      rw [if_neg hm] at h
      split at h
      · rename_i s1 s2 h1 h2
        have r2 := (regs_entryStores h2).trans er
        have h1 := sameEnd_entryStores h1
        have h2 := sameEnd_entryStores h2
        rw [e0] at h1 h2
        dsimp only at h
        split at h
        · cases h; exact lk _ h1 _
        · split at h
          · cases h; exact lk _ h1 _
          · cases h
            rw [pu_modPu_self]
            exact ⟨after_trans h2 ⟨rfl, Or.inr rfl, rfl, rfl, rfl, rfl, rfl, rfl⟩, Or.inr (puLocked_regs n r2)⟩
      · cases h

/-- Taking a program interruption (R134): it is spent, and the boundary has nothing else to do that was not due before. -/
theorem takeProg_after {s t : State} {n : Nat} {e : Exc} (hl : puLocked s n = false)
    (h : takeEntry s n (.prog e) = some t) : AfterEntry (s.pu n) (t.pu n) ∧ (t.pu n).prog = none := by
  unfold takeEntry at h
  simp only [Option.map_eq_some_iff] at h
  obtain ⟨u, hu, ht⟩ := h
  obtain ⟨h1, h2⟩ := enter_after hu
  split at ht
  · rename_i hk
    subst ht
    rw [hl, hk] at h2
    exact ⟨h1, h2.resolve_right (by simp)⟩
  · subst ht
    simp only [consume, modPu_modPu, pu_modPu_self]
    exact ⟨⟨h1.mcImm, Or.inl rfl, h1.stop, h1.load, h1.step, h1.halt, h1.due, h1.resync⟩, trivial⟩

/-- The end of an instruction that raises an exception at an otherwise quiet boundary: the exception is taken (R134). -/
theorem voted_trap {b t v : State} {n : Nat} {e : Exc} (hm : (t.pu n).mcImm = none)
    (hj : (t.pu n).job = none) (hd : (t.pu n).due = .none) (hr : (t.pu n).resync = none) (hs : (t.pu n).stopHeld = false)
    (hl : (t.pu n).loaderStop = false) (ha : (t.pu n).stepArm = false) (hh : (t.pu n).haltReq = false)
    (hk : puLocked t n = false)
    (he : takeEntry (t.modPu n (fun p => { p with prog := some e, latch := [], latchPos := 0 })) n (.prog e) = some v) :
    voted b (t.modPu n (fun p => { p with prog := some e })) n .agree = v := by
  obtain ⟨h1, h2⟩ := takeProg_after (by exact hk) he
  rw [pu_modPu_self] at h1
  have q1 : (v.pu n).mcImm = none := h1.mcImm.trans hm
  have q6 : (v.pu n).resync = none := h1.resync.trans hr
  have q2 : (v.pu n).stopHeld = false := h1.stop.trans hs
  have q3 : (v.pu n).loaderStop = false := h1.load.trans hl
  have q4 : (v.pu n).stepArm = false := h1.step.trans ha
  have q5 : (v.pu n).haltReq = false := h1.halt.trans hh
  have hk2 : ∀ f, puLocked (t.modPu n f) n = puLocked t n := fun _ => rfl
  have hp : takeProg 2 (t.modPu n (fun p => { p with prog := some e, latch := [], latchPos := 0 })) n = v := by
    unfold takeProg
    rw [hk2, hk]
    simp only [Bool.false_eq_true, if_false, pu_modPu_self, hm, Option.map_none, Option.map_some, firstDue, he]
    unfold takeProg
    split
    · rfl
    · simp [q1, h2, firstDue]
  simp only [voted, votedDown, masks, release, succeed, flushUnit, hj, hd, hr, boundary, pu_modPu_self, modPu_modPu,
    Option.isSome_none, Bool.false_eq_true, if_false, hp, q2, q4, Bool.or_self]
  simpa using halts_quiet q2 q3 q4 q5

theorem runInstr_trap {h : Hdr} {t4 : Bool} {body : M Unit} {s t v : State} {e : Exc} (hr : ready s h.pu.val = true)
    (hv : h.vote = .agree) (hb : body (atStart s h.pu.val) = .error (.exc e) t)
    (hn : SameEnd (s.pu h.pu.val) (t.pu h.pu.val)) (hk : puLocked t h.pu.val = false)
    (he : trapped t h.pu.val e = some v) : runInstr h t4 body s = v := by
  simp only [ready, Bool.and_eq_true, Bool.not_eq_true', Option.isNone_iff_eq_none, decide_eq_true_eq] at hr
  obtain ⟨⟨⟨⟨⟨⟨⟨⟨⟨hc, hw⟩, hdue⟩, hj⟩, hd⟩, hy⟩, hs⟩, hl⟩, ha⟩, hh⟩ := hr
  replace hn := hn.trans (sameEnd_settle t h.pu.val h.pu.val)
  have hq := dueEntry_quiet hdue
  have hnone : (if atBoundary (s.pu h.pu.val) then dueEntry s h.pu.val t4 else none) = none := by
    cases t4
    · simp [dueEntry_false hdue]
    · simp [hdue]
  unfold runInstr
  simp only [hc, hw, hnone, Bool.not_true, Bool.false_or, Bool.false_eq_true, if_false, modPu_modPu]
  simp only [atStart] at hb
  rw [hb, hv]
  exact voted_trap (hn.mcImm.trans hq.1) (hn.job.trans hj) (hn.due.trans hd) (hn.resync.trans hy)
    (hn.stop.trans hs) (hn.load.trans hl) (hn.step.trans ha) (hn.halt.trans hh)
    ((puLocked_regs _ (linesOnly_settle t h.pu.val).regs).trans hk) he

end Sys2Proof.Machine
end

