-- ==== Sys2Proof/WellFormed.lean ====
section
/-! DEFINITION. The commands that the spec's encodings can spell: operand specifiers within their fields (R73 to R77), and data
of the length its carrier has. -/

namespace Sys2Proof

/-- A specifier within the fields of its mode (R73): a 16-bit displacement, an immediate of its size, a reserved mode. -/
def Spec.wf : Spec → Bool
  | .reg _ => true
  | .mem long _ _ disp => long || decide (disp.toNat < 2 ^ 16)
  | .imm arg v => if arg.toNat < 4 then decide (v.toNat < 2 ^ (8 * 2 ^ arg.toNat)) else v == 0
  | .stack _ => true
  | .reserved mode _ => decide (5 ≤ mode.toNat)

/-- What a code finds is a whole line (R213). -/
def DramResult.wf : DramResult → Bool
  | .miscorrected line => line.length == 8
  | _ => true

/-- The operands of a command are within their fields. -/
def wellFormed : Instr → Bool
  | .ld _ op1 op2 => op1.wf && op2.wf
  | .ldw _ op1 op2 => op1.wf && op2.wf
  | .ldh _ op1 op2 => op1.wf && op2.wf
  | .ldb _ op1 op2 => op1.wf && op2.wf
  | .st _ op1 op2 => op1.wf && op2.wf
  | .stw _ op1 op2 => op1.wf && op2.wf
  | .sth _ op1 op2 => op1.wf && op2.wf
  | .stb _ op1 op2 => op1.wf && op2.wf
  | .lda _ op1 op2 => op1.wf && op2.wf
  | .ldbank _ op1 op2 => op1.wf && op2.wf
  | .stbank _ op1 op2 => op1.wf && op2.wf
  | .ldx _ op1 op2 => op1.wf && op2.wf
  | .stx _ op1 op2 => op1.wf && op2.wf
  | .mov _ op1 op2 => op1.wf && op2.wf
  | .movl _ op1 op2 => op1.wf && op2.wf
  | .add _ op1 op2 => op1.wf && op2.wf
  | .sub _ op1 op2 => op1.wf && op2.wf
  | .neg _ op1 => op1.wf
  | .cmp _ op1 op2 => op1.wf && op2.wf
  | .cmpu _ op1 op2 => op1.wf && op2.wf
  | .and _ op1 op2 => op1.wf && op2.wf
  | .or _ op1 op2 => op1.wf && op2.wf
  | .xor _ op1 op2 => op1.wf && op2.wf
  | .not _ op1 => op1.wf
  | .shl _ op1 op2 => op1.wf && op2.wf
  | .shr _ op1 op2 => op1.wf && op2.wf
  | .sar _ op1 op2 => op1.wf && op2.wf
  | .rol _ op1 op2 => op1.wf && op2.wf
  | .br _ op1 => op1.wf
  | .bc _ op1 op2 => op1.wf && op2.wf
  | .brr _ op1 => op1.wf
  | .bcr _ op1 op2 => op1.wf && op2.wf
  | .call _ op1 => op1.wf
  | .callr _ op1 => op1.wf
  | .ret _ => true
  | .rsread _ op1 => op1.wf
  | .rsdrop _ op1 => op1.wf
  | .strsp _ op1 => op1.wf
  | .srsp _ op1 => op1.wf
  | .sync _ => true
  | .syncs _ => true
  | .fpsync _ => true
  | .cas _ op1 op2 op3 => op1.wf && op2.wf && op3.wf
  | .fadd _ op1 op2 op3 => op1.wf && op2.wf && op3.wf
  | .tagget _ op1 op2 => op1.wf && op2.wf
  | .tagchk _ op1 op2 => op1.wf && op2.wf
  | .tagset _ op1 op2 => op1.wf && op2.wf
  | .mkdesc _ op1 op2 op3 => op1.wf && op2.wf && op3.wf
  | .lca _ op1 op2 => op1.wf && op2.wf
  | .iostart _ op1 op2 op3 => op1.wf && op2.wf && op3.wf
  | .iohalt _ op1 => op1.wf
  | .ioclear _ op1 => op1.wf
  | .iotest _ op1 op2 => op1.wf && op2.wf
  | .iosense _ op1 op2 => op1.wf && op2.wf
  | .cmpb _ op1 op2 op3 => op1.wf && op2.wf && op3.wf
  | .expb _ op1 op2 => op1.wf && op2.wf
  | .bellowsUnit _ _ _ _ => true
  | .mlock _ op1 => op1.wf
  | .mfree _ => true
  | .mseal _ op1 op2 op3 => op1.wf && op2.wf && op3.wf
  | .mopen _ op1 op2 op3 => op1.wf && op2.wf && op3.wf
  | .muteUnit _ _ _ => true
  | .svc _ op1 => op1.wf
  | .reti _ op1 => op1.wf
  | .rdtod _ op1 => op1.wf
  | .stpu _ op1 => op1.wf
  | .nop _ => true
  | .sigpuSense _ op1 op2 => op1.wf && op2.wf
  | .sigpuExternalCall _ op1 op2 => op1.wf && op2.wf
  | .sigpuStop _ op1 op2 => op1.wf && op2.wf
  | .sigpuRestart _ op1 op2 => op1.wf && op2.wf
  | .sigpuSetPrefix _ op1 op2 => op1.wf && op2.wf
  | .pswld _ op1 => op1.wf
  | .ctlwr _ op1 op2 => op1.wf && op2.wf
  | .ctlrd _ op1 op2 => op1.wf && op2.wf
  | .pfxwr _ op1 => op1.wf
  | .pfxrd _ op1 => op1.wf
  | .tbpurge _ => true
  | .tbpurgep _ => true
  | .mul _ op1 op2 => op1.wf && op2.wf
  | .mulp _ op1 op2 => op1.wf && op2.wf
  | .mulpu _ op1 op2 => op1.wf && op2.wf
  | .div _ op1 op2 => op1.wf && op2.wf
  | .divu _ op1 op2 => op1.wf && op2.wf
  | .addbf _ op1 op2 => op1.wf && op2.wf
  | .subbf _ op1 op2 => op1.wf && op2.wf
  | .mulbf _ op1 op2 => op1.wf && op2.wf
  | .divbf _ op1 op2 => op1.wf && op2.wf
  | .fmabf _ op1 op2 op3 => op1.wf && op2.wf && op3.wf
  | .minbf _ op1 op2 => op1.wf && op2.wf
  | .maxbf _ op1 op2 => op1.wf && op2.wf
  | .negbf _ op1 => op1.wf
  | .absbf _ op1 => op1.wf
  | .lfpc _ op1 => op1.wf
  | .stfpc _ op1 => op1.wf
  | .stfia _ op1 => op1.wf
  | .sqrtbf _ op1 op2 => op1.wf && op2.wf
  | .rndbf _ op1 op2 => op1.wf && op2.wf
  | .cvtib _ op1 op2 => op1.wf && op2.wf
  | .cvtbi _ op1 op2 => op1.wf && op2.wf
  | .cvtbw _ op1 op2 => op1.wf && op2.wf
  | .cvtbn _ op1 op2 => op1.wf && op2.wf
  | .addp _ op1 op2 => op1.wf && op2.wf
  | .subp _ op1 op2 => op1.wf && op2.wf
  | .cmpp _ op1 op2 => op1.wf && op2.wf
  | .cvtpi _ op1 op2 => op1.wf && op2.wf
  | .cvtip _ op1 op2 => op1.wf && op2.wf
  | .customInstruction _ _ ops _ => ops.all Spec.wf
  | .interruptionEntry _ => true
  | .pulockClear _ => true
  | .missingBundle _ _ => true
  | .resync _ _ _ _ => true
  | .retake _ _ _ _ _ => true
  | .dissentWindowExpiry _ _ => true
  | .standinSelftestDone _ _ => true
  | .standinCopyDone _ => true
  | .standinInsertion _ _ _ _ => true
  | .moveslate _ _ => true
  | .pairtest _ _ => true
  | .pairtestComplete _ _ => true
  | .mergingBufferPerform _ _ => true
  | .preload _ => true
  | .lock _ => true
  | .unlock _ => true
  | .rangeinv _ => true
  | .l2Drain _ => true
  | .l2DrainComplete _ => true
  | .l2Enable _ => true
  | .patrolScrubRead _ _ _ found => found.wf
  | .deviceStoreTimeout _ => true
  | .deviceLoadTimeout _ => true
  | .memmapEffect => true
  | .zoneEffect => true
  | .deviceRegionEffect => true
  | .rds _ _ met => met.found.dram.wf
  | .rdx _ _ found => found.dram.wf
  | .upg _ line => line.found.dram.wf
  | .rdnc _ line => line.found.dram.wf
  | .wrnc _ line wr _ _ => decide (wr.length ≤ 8) && line.found.dram.wf
  | .atom a => a.met.found.dram.wf
  | .snps _ _ => true
  | .snpx _ _ => true
  | .snpn _ _ => true
  | .snpi _ _ => true
  | .snpr _ _ => true
  | .ack _ _ _ _ data => data.isEmpty || data.length == 8
  | .wb _ _ data => data.length == 8
  | .evc _ _ => true
  | .cmpack _ _ => true
  | .data _ _ data => data.isEmpty || data.length == 8
  | .homeSnoopTimeout _ _ => true
  | .shutterTick _ => true
  | .slotArbitration _ _ _ _ arriving => arriving.all (fun m => m.line.isEmpty || m.line.length == 8)
  | .commit _ _ _ => true
  | .slotBankExchange => true
  | .gpctlEn _ _ => true
  | .linkDownRetry _ => true
  | .trainComplete _ _ => true
  | .speedComplete _ _ => true
  | .init _ _ => true
  | .initTimeout _ => true
  | .flitReceive _ _ _ => true
  | .nakReplay _ _ => true
  | .replayTimeout _ => true
  | .retrainEnd _ _ => true
  | .guestLinkDown _ _ => true
  | .guestRequest _ _ data => decide (data.length ≤ 8)
  | .guestRequestDispatch _ _ found => found.dram.wf
  | .drd _ => true
  | .dwr _ => true
  | .drsp _ _ data => decide (data.length ≤ 8)
  | .creditReturn _ _ _ => true
  | .quiesce _ => true
  | .gpResume _ => true
  | .flush _ => true
  | .flushed _ => true
  | .gpbindWrite _ _ => true
  | .pioqrWrite _ _ _ => true
  | .startDispatch => true
  | .journalSpill => true
  | .cceFetch _ => true
  | .statusStore _ => true
  | .startTimerExpiry _ => true
  | .channelEngineFailure _ => true
  | .pathLossTimeout _ => true
  | .csctlEnable _ => true
  | .channelFrameReceive _ _ _ => true
  | .pfcPause _ _ => true
  | .neighborSolicitation _ _ _ => true
  | .login _ _ => true
  | .loginacc _ _ _ => true
  | .echo _ _ => true
  | .echorep _ _ _ => true
  | .echoTimeout _ _ => true
  | .channelAck _ _ _ => true
  | .ackDelayExpiry _ => true
  | .cmdFrame _ => true
  | .dataFrame _ => true
  | .ckpt _ => true
  | .term _ => true
  | .cmdend _ _ _ => true
  | .endack _ => true
  | .resumeFrame _ _ => true
  | .halt _ => true
  | .clear _ => true
  | .haltack _ _ _ => true
  | .clearack _ _ _ => true
  | .retransmissionTimeout _ => true
  | .belcmdTest _ _ => true
  | .mutcmdTest _ _ => true
  | .release _ => true
  | .provision => true
  | .kekErase => true
  | .pkeyownWrite _ _ _ => true
  | .linkKeyLoad => true
  | .linkKeyErase => true
  | .linkKeyGraceExpiry _ => true
  | .drbgReseed _ _ => true
  | .cutTrigger _ _ _ => true
  | .unfreeze => true
  | .configRequest _ => true
  | .bar0Access _ _ _ _ => true
  | .unsupportedRequest _ => true
  | .bar2WindowAccess _ _ _ words => decide (1 ≤ words.length) && decide (words.length ≤ 512)
  | .epwinWrite _ _ => true
  | .epwinEffect => true
  | .doorbell _ _ => true
  | .abortPu _ => true
  | .abortIoq _ => true
  | .abortChannelEngine _ => true
  | .abortBellows _ => true
  | .abortMute _ => true
  | .abortComplete _ => true
  | .copyin _ => true
  | .copyout _ => true
  | .hostCompletion _ _ _ data => decide (data.length ≤ 512)
  | .completionTimeout _ => true
  | .restart _ => true
  | .firmwareMessage _ => true
  | .epfwdone _ _ => true
  | .epattnset => true
  | .busMasterDisable => true
  | .functionLevelReset => true
  | .sePerst => true
  | .ppsEdge _ => true
  | .ppsPulseAccept _ => true
  | .ppsWindowClose => true
  | .todStep => true
  | .todset _ => true
  | .todctlWrite _ => true
  | .todsteerWrite _ => true
  | .clockComparator _ => true
  | .temperatureSample _ => true
  | .pwrgoodRise => true
  | .pwrgoodFall => true
  | .resetNLow => true
  | .resetNRise => true
  | .arraysComplete _ _ _ _ _ _ => true
  | .memoryTrainingComplete _ => true
  | .selftestComplete _ _ => true
  | .loadmc => true
  | .startfw _ => true
  | .iplchan _ _ => true
  | .iplchanEnd => true
  | .iplmem _ _ => true
  | .preset _ => true
  | .presetFlushTimeout _ => true
  | .sysreset => true
  | .moduleSeal => true
  | .partitionSeal _ => true
  | .pupartWrite _ _ => true
  | .enroll _ => true
  | .load _ => true
  | .unload _ => true
  | .ident => true
  | .extest => true
  | .sample _ => true
  | .preloadScan _ => true
  | .debugHalt _ => true
  | .debugStep _ => true
  | .debugResume _ => true
  | .debugLock => true
  | .trstLow => true
  | .dbgacc _ _ _ _ => true
  | .vfselUpdate _ => true
  | .registerWrite _ _ => true
  | .unassignedOpcode _ b1 _ => !(decide (0xE0 ≤ b1.toNat) && decide (b1.toNat ≤ 0xEF))
  | .cmpResponse _ _ => true
  | .channelPortLinkUp _ => true
  | .channelPortLinkDown _ => true
  | .pfcFrameReceive _ _ _ => true
  | .pfcPauseExpiry _ => true
  | .haltRetransmissionTimeout _ => true
  | .engineCheckWindowExpiry _ _ => true
  | .moveslateComplete _ => true
  | .l2CommandComplete _ => true
  | .openMicrostoreCommandComplete => true
  | .kekCommandComplete => true
  | .linkKeyCommandComplete => true
  | .loadmcComplete => true
  | .presetComplete => true
  | .systemResetWritebackComplete => true
  | .timingOutputEdge _ => true
  | .endpointLinkUp _ _ => true
  | .endpointLinkDown => true
  | .sePerstRelease => true
  | .debugUnlock _ => true

end Sys2Proof
end

