-- ==== Sys2Proof/Tests/Slice0.lean ====
section
/-! SUPPORT. Small tests on concrete states: ill-formed terms that WellFormed refuses, and for each statement of Obligations.lean a
state and operands that meet its hypotheses, with what its conclusion says there. `starts` and `okB` read off the intermediate
results that a statement quantifies over. Expected values are worked out by hand from the rules named. -/

namespace Sys2Proof.Tests

open Sys2Proof Sys2Proof.Machine

set_option Elab.async false

/-- The operation ends well, with a result and a state that pass. -/
def okB {α : Type} (r : EStateM.Result Stop State α) (f : α → State → Bool) : Bool :=
  match r with
  | .ok a s => f a s
  | .error _ _ => false

theorem okB_spec {α : Type} {r : EStateM.Result Stop State α} {f : α → State → Bool} (h : okB r f = true) :
    ∃ a s, r = .ok a s ∧ f a s = true := by
  cases r with
  | ok a s => exact ⟨a, s, rfl, h⟩
  | error e s => cases h

/-- The instruction is one of a ready PU, and passes steps 1 to 4 of R83 with a context and a state that pass. -/
def starts (h : Hdr) (i : OpInfo) (sp : List Spec) (s : State) (f : Ctx → State → Bool) : Bool :=
  ready s h.pu.val && decide (h.vote = .agree) && okB (prelude h i sp (atStart s h.pu.val)) f

theorem starts_spec {h : Hdr} {i : OpInfo} {sp : List Spec} {s : State} {f : Ctx → State → Bool} (e : starts h i sp s f = true) :
    ∃ c s1, Starts h i sp s c s1 ∧ f c s1 = true := by
  simp only [starts, Bool.and_eq_true, decide_eq_true_eq] at e
  obtain ⟨c, s1, h1, h2⟩ := okB_spec e.2
  exact ⟨c, s1, ⟨e.1.1, e.1.2, h1⟩, h2⟩

/-- The outcome is this next state. -/
def is (o : Host.Outcome State Fault Refusal) (t : State) : Bool :=
  match o with
  | .next u => decide (u = t)
  | _ => false

/-- The outcome is a next state that passes. -/
def nextB (o : Host.Outcome State Fault Refusal) (f : State → Bool) : Bool :=
  match o with
  | .next u => f u
  | _ => false

/-- Memory and the registers of PUs 0 to 2 are as they were. -/
def quietB (s t : State) : Bool :=
  decide (t.mem = s.mem) && (List.range 3).all (fun k => decide ((t.pu k).arch = (s.pu k).arch))

/-- A bank over all of memory with every right. -/
def bankAll : Bank := ⟨⟨0, tagDesc⟩, ⟨0xFFFFFFFF000000C7, tagDesc⟩⟩

/-- Bank registers of the tests: B6 and B7. -/
def banks : Sparse Bank := [(6, bankAll), (7, bankAll)]

/-- A PU at address 0x100 with these general registers, PL0. -/
def puG (g : List (Nat × TWord)) : Pu := { Pu.reset with g := g, b := banks, psw := 0x100, rsp := 0x4000 }

/-- PU 0 in RUN on die 0, one GiB of installed memory there, and further registers. -/
def stR (p : Pu) (m : Sparse TWord) (r : Sparse Word) : State :=
  { State.reset with
    mem := m
    regs := r ++ [(0x0100200000, 0x8100000000000001), (0x0100200008, 0x8000000000000001), (0x0100800000, 0x1000000000000000)]
    pus := [(0, p)] }

def st (p : Pu) (m : Sparse TWord) : State := stR p m []

def h0 : Hdr := { pu := 0, pfx := [], vote := .agree }

/-- The codes find no error. -/
def fine : Found := { dir := .clean, dram := .clean }

/-- A bank-short operand through B6. -/
def at6 (a : BitVec 32) : Spec := .mem false 6 none a

def imm (v : Word) : Spec := .imm 3 v

def im2 (v : Word) : Spec := .imm 1 v

def im4 (v : Word) : Spec := .imm 2 v

/-! ### Well-formedness -/

/-- A 16-bit displacement holds 16 bits (R73); an immediate its size; 5 is the first reserved mode. -/
theorem test_wf_operands : wellFormed (.ld h0 (.reg 1) (.mem false 6 none 0x10000)) = false ∧ wellFormed (.ld h0 (.reg 1) (.mem true 6 none 0x10000)) = true ∧
    wellFormed (.mov h0 (.reg 1) (.imm 0 0x100)) = false ∧ wellFormed (.mov h0 (.reg 1) (.imm 1 0x10000)) = false ∧
    wellFormed (.mov h0 (.reg 1) (.imm 2 0x100000000)) = false ∧ wellFormed (.mov h0 (.reg 1) (.imm 4 1)) = false ∧
    wellFormed (.mov h0 (.reg 1) (.imm 0 0xFF)) = true ∧ wellFormed (.neg h0 (.reserved 4 0)) = false ∧ wellFormed (.neg h0 (.reserved 5 0)) = true ∧
    wellFormed (.customInstruction h0 0 [.reg 1, .reserved 0 0] ⟨[], [], []⟩) = false := by decide +kernel

/-- Messages carry a whole line or none, and at most the data their length admits. -/
theorem test_wf_messages : wellFormed (.wrnc (.pu 0) ⟨0, fine⟩ (List.replicate 9 ⟨0, uninitWord⟩) none 0) = false ∧
    wellFormed (.ack 0 0 true true [uninitWord]) = false ∧ wellFormed (.wb 0 ⟨0, .none⟩ []) = false ∧
    wellFormed (.wb 0 ⟨0, .none⟩ (List.replicate 8 uninitWord)) = true ∧
    wellFormed (.slotArbitration 0 0 0 64 [⟨.request, .pu 0, [uninitWord], [], []⟩]) = false ∧
    wellFormed (.rds (.pu 0) 0 ⟨⟨.clean, .miscorrected []⟩, .none⟩) = false ∧ wellFormed (.patrolScrubRead 0 0 0 (.miscorrected [])) = false ∧
    wellFormed (.data (.pu 0) 0 [uninitWord]) = false ∧ wellFormed (.guestRequest 0 0 (List.replicate 9 0)) = false ∧
    wellFormed (.drsp 0 0 (List.replicate 9 0)) = false := by decide +kernel

/-- A prefix byte is no opcode (R63, R69). -/
theorem test_wf_opcode : wellFormed (.unassignedOpcode h0 0xEC 0) = false ∧ wellFormed (.unassignedOpcode h0 0xF1 0) = true := by decide +kernel

/-- 1 to 512 words of a window access; at most 512 of a completion. -/
theorem test_wf_host : wellFormed (.bar2WindowAccess 0 0 true []) = false ∧ wellFormed (.bar2WindowAccess 0 0 true (List.replicate 513 ⟨0xFF, 0⟩)) = false ∧
    wellFormed (.bar2WindowAccess 0 0 true (List.replicate 512 ⟨0xFF, 0⟩)) = true ∧ wellFormed (.hostCompletion 0 0 false (List.replicate 513 0)) = false ∧
    wellFormed (.hostCompletion 0 0 false (List.replicate 512 0)) = true := by decide +kernel

/-! ### The machine -/

theorem test_step : step { st (puG []) [] with pending := [.epattnset] } = exec .epattnset (st (puG []) []) := rfl

theorem test_reset : memGet State.reset 5 = ⟨0, tagUninit⟩ ∧ (State.reset.pu 3).ctlReg 12 = 0xFFFFFFFFFFFFFFFF ∧
    (State.reset.pu 3).ctlReg 11 = 0 ∧ State.reset.pending = [] ∧ Memory.wf State.reset.mem = true := by decide +kernel

theorem test_canonical : Memory.wf (st (puG []) [(0x200, intWord 5)]).mem = true ∧
    spWf regDefault (st (puG []) []).regs = true ∧ spWf (fun _ => Pu.reset) (st (puG []) []).pus = true := by decide +kernel

theorem test_memory : memGet (memPut (st (puG []) [(0x200, intWord 5)]) 0x201 (intWord 6)) 0x200 = intWord 5 ∧
    memGet (agentWrite (st (puG []) []) 0x201 (intWord 6)) 0x201 = intWord 6 ∧
    memByte (agentWrite (st (puG []) []) 0x201 (intWord 0x0102030405060708)) 0x1008 = 1 ∧
    memByte (agentWrite (st (puG []) [(0x200, intWord 7)]) 0x201 (intWord 6)) 0x1007 = 7 := by decide +kernel

/-! ### Operands -/

def cx : Ctx := { pu := 0, ia := 0x100, len := 3, relax := false, narrow := false, atomic := false, bank := none, vote := .agree }

theorem test_source_register : okB (source cx (place opLoad [.reg 1, .reg 2] 2) 8 tagsWhole (.reg 2) (st (puG [(2, ⟨9, tagPtr⟩)]) []))
    (fun w _ => decide (w = ⟨9, tagPtr⟩)) = true := by decide +kernel

theorem test_source_immediate : okB (source cx (place opLoad [.reg 1, .imm 0 0x80] 2) 8 tagsWhole (.imm 0 0x80) (st (puG []) []))
    (fun w _ => decide (w = intWord 0xFFFFFFFFFFFFFF80)) = true := by decide +kernel

/-- The hypotheses of the memory clause hold for a byte in the middle of a word, which is zero-extended. -/
theorem test_source_memory :
    let s := st (puG []) [(0x200, ⟨0x1122334455667788, tagBytes⟩)]
    let pl := place opLoad [.reg 1, at6 0x1003] 2
    okB (specAddr cx pl (at6 0x1003) s) (fun x s1 => decide (x.1 = 6) &&
      okB (memLoc cx pl.slot 6 x.2 1 pl.use.kind pl.use.right .window s1) (fun m s2 =>
        !inWindow m.abs && !inDevice m.abs && !strictPending (s2.pu 0).mb && mayRead s2 0 (m.abs / 64)
          && tagsNarrow.contains (puView s2 0 (m.abs / 8)).tag && policyLoad (bankPolicy s2 0 m.bank) (puView s2 0 (m.abs / 8)).tag
          && okB (source cx pl 1 tagsNarrow (at6 0x1003) s) (fun w s3 => decide (w.data = 0x44) &&
            decide (s3 = s2.modPu 0 (fun p => { p with touched := p.touched ++ [(false, m.abs / 64)] }))))) = true := by
  decide +kernel

/-! ### Loads, stores and moves -/

def sLoad : State := st (puG [(2, ⟨0x77, tagPtr⟩)]) [(0x200, ⟨0x1122334455667788, tagBytes⟩)]

theorem test_loads : starts h0 opLoad [.reg 1, at6 0x1000] sLoad (fun c s1 =>
    okB (source c (place opLoad [.reg 1, at6 0x1000] 2) 8 tagsWhole (at6 0x1000) s1) (fun w s2 =>
      decide (w = ⟨0x1122334455667788, tagBytes⟩) && is (exec (.ld h0 (.reg 1) (at6 0x1000)) sLoad)
        (completed c opLoad [.reg 1, at6 0x1000] s2 (s2.pu 0).mb (fun p => p.setReg 1 w))) &&
    [(Instr.ldw h0 (.reg 1) (at6 0x1000), 4, (0x11223344 : Word)), (.ldh h0 (.reg 1) (at6 0x1000), 2, 0x1122),
      (.ldb h0 (.reg 1) (at6 0x1000), 1, 0x11)].all (fun x =>
        okB (source c (place opLoad [.reg 1, at6 0x1000] 2) x.2.1 tagsNarrow (at6 0x1000) s1) (fun _ s2 =>
          is (exec x.1 sLoad) (completed c opLoad [.reg 1, at6 0x1000] s2 (s2.pu 0).mb (fun p => p.setReg 1 (intWord x.2.2)))))) = true := by
  decide +kernel

/-- Frame: a completed load leaves the other registers, and memory. -/
theorem test_load_frame : nextB (exec (.ld h0 (.reg 1) (at6 0x1000)) sLoad) (fun t =>
    decide ((t.pu 0).reg 2 = ⟨0x77, tagPtr⟩) && decide (t.mem = sLoad.mem) && decide (pswIA (t.pu 0).psw = 0x105)) = true := by decide +kernel

theorem test_stores : starts h0 opStore [at6 0x1008, .reg 2] sLoad (fun c s1 =>
    [(Instr.st h0 (at6 0x1008) (.reg 2), 8), (.stw h0 (at6 0x1008) (.reg 2), 4), (.sth h0 (at6 0x1008) (.reg 2), 2),
      (.stb h0 (at6 0x1008) (.reg 2), 1)].all (fun x =>
      let s := if x.2 = 8 then sLoad else st (puG [(2, intWord 0x77)]) []
      starts h0 opStore [at6 0x1008, .reg 2] s (fun c s1 =>
        okB (target c (place opStore [at6 0x1008, .reg 2] 1) x.2 (at6 0x1008) s1) (fun l s2 =>
          okB (source c (place opStore [at6 0x1008, .reg 2] 2) 8 (if x.2 = 8 then tagsWhole else tagsLogic) (.reg 2) s2) (fun w s3 =>
            okB (checkDest c l w.tag s3) (fun _ s4 => decide (s4 = s3)) &&
            (match (s3.pu 0).push (storesOf s3 0 l w) with
            | some b => decide (b.length = 1) &&
                is (exec x.1 s) (completed c opStore [at6 0x1008, .reg 2] s3 b (fun p => regOf l w p))
            | none => false))))) && decide (c.pu = 0) && decide (s1.mem = sLoad.mem)) = true := by decide +kernel

theorem test_lda : starts h0 opLda [.reg 1, at6 0x1008] sLoad (fun c s1 =>
    okB (specAddr c (place opLda [.reg 1, at6 0x1008] 2) (at6 0x1008) s1) (fun x s2 =>
      is (exec (.lda h0 (.reg 1) (at6 0x1008)) sLoad) (completed c opLda [.reg 1, at6 0x1008] s2 (s2.pu 0).mb
        (fun p => p.setReg 1 ⟨BitVec.ofNat 64 x.2, tagPtr⟩)) && decide (x.2 = 0x1008))) = true := by decide +kernel

def sIdx : State := st (puG [(1, intWord 0x1000), (2, intWord 0x1000)]) [(0x200, ⟨7, tagDec⟩)]

theorem test_ldx : starts h0 opLdx [.reg 3, .reg 2] sIdx (fun c s1 =>
    okB (memLoc c 4 (c.bank.getD 6) 0x1000 8 .load .r .window s1) (fun m s2 =>
      okB (readLoc c 4 tagsWhole (.mem m) s2) (fun w s3 =>
        is (exec (.ldx h0 (.reg 3) (.reg 2)) sIdx)
          (completed c opLdx [.reg 3, .reg 2] s3 (s3.pu 0).mb (fun p => p.setReg 3 w)) && decide (w = ⟨7, tagDec⟩)))) = true := by decide +kernel

theorem test_stx : starts h0 opStx [.reg 1, .reg 2] sIdx (fun c s1 =>
    okB (memLoc c 4 (c.bank.getD 6) 0x1000 8 .store .w .window s1) (fun m s2 =>
      okB (checkDest c (.mem m) tagInt s2) (fun _ s3 => decide (s3 = s2)) &&
      (match (s2.pu 0).push [storeOf s2 0 m (intWord 0x1000)] with
      | some b => is (exec (.stx h0 (.reg 1) (.reg 2)) sIdx) (completed c opStx [.reg 1, .reg 2] s2 b id)
      | none => false))) = true := by decide +kernel

theorem test_mov : starts h0 opMov [.reg 3, at6 0x1000] sIdx (fun c s1 =>
    okB (target c (place opMov [.reg 3, at6 0x1000] 1) 8 (.reg 3) s1) (fun l s2 =>
      okB (source c (place opMov [.reg 3, at6 0x1000] 2) 8 tagsWhole (at6 0x1000) s2) (fun w s3 =>
        okB (checkDest c l w.tag s3) (fun _ s4 => decide (s4 = s3)) &&
        (match (s3.pu 0).push (storesOf s3 0 l w) with
        | some b => is (exec (.mov h0 (.reg 3) (at6 0x1000)) sIdx) (completed c opMov [.reg 3, at6 0x1000] s3 b (fun p => regOf l w p))
            && decide (l = .reg 3) && decide (w = ⟨7, tagDec⟩)
        | none => false)))) = true := by decide +kernel

def sBank : State := st (puG []) [(0x200, ⟨0x2000, tagDesc⟩), (0x201, ⟨0xFFFFFFFF000000C7, tagDesc⟩)]

theorem test_ldbank : starts h0 opLdbank [imm 5, at6 0x1000] sBank (fun c s1 =>
    okB (source c (place opLdbank [imm 5, at6 0x1000] 1) 8 tagsAny (imm 5) s1) (fun k s2 =>
      okB (longOperand c (place opLdbank [imm 5, at6 0x1000] 2) 2 16 (at6 0x1000) s2) (fun ms s3 =>
        okB (readPair c tagsOwn ms s3) (fun ws s4 => decide (k = intWord 5) &&
          (match ws with
          | [b, a] => decide (b.tag = tagDesc) && decide (a.tag = tagDesc) && attrValid a.data &&
              is (exec (.ldbank h0 (imm 5) (at6 0x1000)) sBank)
                (completed c opLdbank [imm 5, at6 0x1000] s4 (s4.pu 0).mb (fun p => p.setBank 5 ⟨b, a⟩))
          | _ => false))))) = true := by decide +kernel

theorem test_stbank : starts h0 opStore [at6 0x1000, imm 6] sBank (fun c s1 =>
    okB (longOperand c (place opStore [at6 0x1000, imm 6] 1) 2 16 (at6 0x1000) s1) (fun ms s2 =>
      okB (source c (place opStore [at6 0x1000, imm 6] 2) 8 tagsAny (imm 6) s2) (fun _ s3 =>
        let ws := [bankAll.base, bankAll.attr]
        okB (pairPolicy c ms ws s3) (fun _ s4 => decide (s4 = s3)) &&
        (match (s3.pu 0).push (pairStores s3 0 ms ws) with
        | some m => is (exec (.stbank h0 (at6 0x1000) (imm 6)) sBank) (completed c opStore [at6 0x1000, imm 6] s3 m id)
        | none => false)))) = true := by decide +kernel
/-! ### Integer and logical instructions -/

def sInt : State := st (puG [(1, intWord 0xFFFFFFFFFFFFFFFF), (2, intWord 3)]) []

/-- The register form of each row: op1 becomes the result, CC its code, nothing else. -/
theorem test_integer :
    [(Instr.add h0 (.reg 1) (.reg 2), AtomOp.add, opArith, [Spec.reg 1, .reg 2], (2 : Word), 2), (.sub h0 (.reg 1) (.reg 2), .sub, opArith, [.reg 1, .reg 2], 0xFFFFFFFFFFFFFFFC, 1),
      (.and h0 (.reg 1) (.reg 2), .and, opArith, [.reg 1, .reg 2], 3, 1), (.or h0 (.reg 1) (.reg 2), .or, opArith, [.reg 1, .reg 2], 0xFFFFFFFFFFFFFFFF, 1),
      (.xor h0 (.reg 1) (.reg 2), .xor, opArith, [.reg 1, .reg 2], 0xFFFFFFFFFFFFFFFC, 1), (.neg h0 (.reg 1), .neg, opUnary, [.reg 1], 1, 2),
      (.not h0 (.reg 1), .not, opUnary, [.reg 1], 0, 0)].all (fun (j, op, i, sp, v, cc) =>
      starts h0 i sp sInt (fun c s1 =>
        okB (update c (place i sp 1) c.width (op.accepts false) (sp.headD (.reg 0)) s1) (fun lx s2 =>
          okB (secondOperand c i (op.accepts false) sp s2) (fun ly s3 =>
            (match opResult op c.bitsOf lx.2 ly.2 with
            | some r => decide (r.data = v) && decide (r.cc = cc) && decide (lx.1 = .reg 1) &&
                okB (checkDest c lx.1 r.tag s3) (fun _ s4 => decide (s4 = s3)) &&
                is (exec j sInt) (completed c i sp s3 (s3.pu 0).mb (fun p => (regOf lx.1 ⟨r.data, r.tag⟩ p).setCC r.cc))
            | none => false))))) = true := by decide +kernel

theorem test_add_overflow : opResult .add 64 (intWord 0x7FFFFFFFFFFFFFFF) (intWord 1) = some ⟨0x8000000000000000, tagInt, 3⟩ ∧
    opResult .sub 64 (intWord 0) (intWord 1) = some ⟨0xFFFFFFFFFFFFFFFF, tagInt, 1⟩ ∧
    opResult .neg 64 (intWord 0x8000000000000000) (intWord 0) = some ⟨0x8000000000000000, tagInt, 3⟩ := by decide +kernel

theorem test_pointer_wraps : opResult .add 64 ⟨5, tagPtr⟩ (intWord 0xFFFFFFFFFFFFFFFF) = some ⟨4, tagPtr, 2⟩ ∧
    opResult .add 64 ⟨0, tagPtr⟩ (intWord 0xFFFFFFFFFFFFFFFF) = some ⟨0xFFFFFFFFFFFFFFFF, tagPtr, 3⟩ := by decide +kernel

/-! ### Shifts, multiply and divide -/

def sShift : State := st (puG [(1, intWord 0x8000000000000001), (2, intWord 65)]) []

theorem test_shifts :
    [(Instr.shl h0 (.reg 1) (.reg 2), ShiftOp.shl, (2 : Word)), (.shr h0 (.reg 1) (.reg 2), .shr, 0x4000000000000000),
      (.sar h0 (.reg 1) (.reg 2), .sar, 0xC000000000000000), (.rol h0 (.reg 1) (.reg 2), .rol, 3)].all (fun (j, op, v) =>
      starts h0 opShift [.reg 1, .reg 2] sShift (fun c s1 =>
        okB (update c (place opShift [.reg 1, .reg 2] 1) c.width tagsLogic (.reg 1) s1) (fun lx s2 =>
          okB (source c (place opShift [.reg 1, .reg 2] 2) c.width tagsLogic (.reg 2) s2) (fun y s3 =>
            let d := shiftData op c.bitsOf (y.data.toNat % c.bitsOf) lx.2.data
            decide (d = v) && is (exec j sShift) (completed c opShift [.reg 1, .reg 2] s3 (s3.pu 0).mb
              (fun p => (regOf lx.1 ⟨d, tagInt⟩ p).setCC (ccShift c.bitsOf d))))))) = true := by decide +kernel

theorem test_mul : starts h0 opShift [.reg 1, .reg 2] sInt (fun c s1 =>
    okB (update c (place opShift [.reg 1, .reg 2] 1) c.width tagsInt (.reg 1) s1) (fun lx s2 =>
      okB (source c (place opShift [.reg 1, .reg 2] 2) c.width tagsInt (.reg 2) s2) (fun _ s3 =>
        is (exec (.mul h0 (.reg 1) (.reg 2)) sInt) (completed c opShift [.reg 1, .reg 2] s3 (s3.pu 0).mb
          (fun p => (regOf lx.1 (intWord 0xFFFFFFFFFFFFFFFD) p).setCC 1))))) = true := by decide +kernel

def sPair : State := st (puG [(2, intWord 0xFFFFFFFFFFFFFFF9), (3, intWord 0xFFFFFFFFFFFFFFF9), (4, intWord 2)]) []

/-- G3 x G4 = -7 x 2 and its unsigned form; G2 / G4 = -7 / 2 is -3, rest -1. -/
theorem test_pairs :
    [(Instr.mulp h0 (.reg 2) (.reg 4), false, (0xFFFFFFFFFFFFFFFF : Word), (0xFFFFFFFFFFFFFFF2 : Word), 1), (.mulpu h0 (.reg 2) (.reg 4), false, 1, 0xFFFFFFFFFFFFFFF2, 2),
      (.div h0 (.reg 2) (.reg 4), true, 0xFFFFFFFFFFFFFFFD, 0xFFFFFFFFFFFFFFFF, 1), (.divu h0 (.reg 2) (.reg 4), true, 0x7FFFFFFFFFFFFFFC, 1, 2)].all (fun (j, n, a, b, cc) =>
      starts h0 (opPairSrc n) [.reg 2, .reg 4] sPair (fun c s1 =>
        okB (source c (place (opPairSrc n) [.reg 2, .reg 4] 2) 8 tagsInt (.reg 4) s1) (fun y s2 => decide (y = intWord 2) &&
          is (exec j sPair) (completed c (opPairSrc n) [.reg 2, .reg 4] s2 (s2.pu 0).mb
            (fun p => (setPair 2 (intWord a) (intWord b) p).setCC cc))))) = true := by decide +kernel

theorem test_divide_bounds : divide true 64 0x8000000000000000 0xFFFFFFFFFFFFFFFF = none ∧ divide false 64 5 0 = none ∧
    divide true 64 0x8000000000000000 1 = some (-9223372036854775808, 0) := by decide +kernel

/-! ### Compares and tags -/

theorem test_compares :
    [(Instr.cmp h0 (.reg 1) (.reg 2), tagsCmp, 1), (.cmpu h0 (.reg 1) (.reg 2), tagsCmpu, 2)].all (fun (j, ok, cc) =>
      starts h0 opCmp [.reg 1, .reg 2] sInt (fun c s1 =>
        okB (cmpOperands c ok (.reg 1) (.reg 2) s1) (fun x s2 =>
          decide (cmpType c.relax x.1.tag x.2.2.tag = some tagInt) &&
          (decide (j ≠ .cmp h0 (.reg 1) (.reg 2)) || decide (cmpAs c tagInt x.1.data x.2.2.data = some (1, 0))) &&
          is (exec j sInt) (completed c opCmp [.reg 1, .reg 2] s2 (s2.pu 0).mb (fun p => p.setCC cc))))) = true := by decide +kernel

theorem test_compare_bounds : cmpAs cx tagPtr 0xFFFFFFFFFFFFFFFF 1 = some (2, 0) ∧ cmpAs cx tagInt 0xFFFFFFFFFFFFFFFF 1 = some (1, 0) ∧
    cmpType false tagInt tagPtr = none ∧ cmpType false tagDec tagDec = some tagDec := by decide +kernel

def sTag : State := st (puG [(1, ⟨9, tagSealed⟩), (2, intWord 5)]) [(0x200, intWord 7)]

theorem test_tagget : starts h0 opTagget [.reg 3, .reg 1] sTag (fun c s1 =>
    okB (tagOperand c (place opTagget [.reg 3, .reg 1] 2) (.reg 1) s1) (fun w s2 => decide (w.tag = tagSealed) &&
      is (exec (.tagget h0 (.reg 3) (.reg 1)) sTag) (completed c opTagget [.reg 3, .reg 1] s2 (s2.pu 0).mb
        (fun p => p.setReg 3 (intWord (tagSealed.setWidth 64)))))) = true := by decide +kernel

theorem test_tagchk : [((0x200 : Word), 0), (0x100, 1)].all (fun (v, cc) =>
    starts h0 opTagchk [.reg 1, imm v] sTag (fun c s1 =>
      okB (tagOperand c (place opTagchk [.reg 1, imm v] 1) (.reg 1) s1) (fun w s2 =>
        okB (source c (place opTagchk [.reg 1, imm v] 2) 8 tagsInt (imm v) s2) (fun _ s3 => decide (w.tag.toNat = 9) &&
          is (exec (.tagchk h0 (.reg 1) (imm v)) sTag) (completed c opTagchk [.reg 1, imm v] s3 (s3.pu 0).mb (fun p => p.setCC cc)))))) = true := by
  decide +kernel

theorem test_tagset_register : [(9 : Word), 15].all (fun v => starts h0 opTagset [.reg 1, imm v] sTag (fun c s1 =>
    okB (source c (place opTagset [.reg 1, imm v] 2) 8 tagsInt (imm v) s1) (fun _ s2 =>
      is (exec (.tagset h0 (.reg 1) (imm v)) sTag) (completed c opTagset [.reg 1, imm v] s2 (s2.pu 0).mb
        (fun p => p.setReg 1 ⟨9, BitVec.ofNat 4 v.toNat⟩))))) = true := by decide +kernel

theorem test_tagset_memory : starts h0 opTagset [at6 0x1000, imm 4] sTag (fun c s1 =>
    okB (specAddr c (place opTagset [at6 0x1000, imm 4] 1) (at6 0x1000) s1) (fun x sa =>
      okB (memLoc c 1 x.1 x.2 8 .rmw .w .memory sa) (fun m s2 =>
        okB (source c (place opTagset [at6 0x1000, imm 4] 2) 8 tagsInt (imm 4) s2) (fun _ s3 =>
          let u := s3.modPu 0 (fun p => { p with touched := p.touched ++ [(false, m.abs / 64)] })
          let x := retag u 0 (m.abs / 8) 4
          !storesWaiting (s3.pu 0) && !strictPending (s3.pu 0).mb && unlatched s3 0 && policyStore (bankPolicy s3 0 m.bank) 4 &&
          (match atomSent c s1 with | .ok b s1' => !b && decide (s1' = s1) | _ => false) && mayRead s3 0 (m.abs / 64) &&
          mayOwn u 0 (m.abs / 64) && decide (memGet x 0x200 = ⟨7, 4⟩) &&
          is (exec (.tagset h0 (at6 0x1000) (imm 4)) sTag) (completed c opTagset [at6 0x1000, imm 4]
            (requested x 0 .nearAtomic m.abs []) (s3.pu 0).mb id))))) = true := by decide +kernel

def sDesc : State := st (puG [(2, ⟨0x2000, tagPtr⟩), (3, intWord 0xFFFFFFFF000000C7)]) []

theorem test_mkdesc : starts h0 opMkdesc [at6 0x1000, .reg 2, .reg 3] sDesc (fun c s1 =>
    okB (longOperand c (place opMkdesc [at6 0x1000, .reg 2, .reg 3] 1) 2 16 (at6 0x1000) s1) (fun ms s2 =>
      let ws : List TWord := [⟨0x2000, tagDesc⟩, ⟨0xFFFFFFFF000000C7, tagDesc⟩]
      okB (pairPolicy c ms ws s2) (fun _ s3 => decide (s3 = s2)) &&
      (match (s2.pu 0).push (pairStores s2 0 ms ws) with
      | some m => is (exec (.mkdesc h0 (at6 0x1000) (.reg 2) (.reg 3)) sDesc) (completed c opMkdesc [at6 0x1000, .reg 2, .reg 3] s2 m id)
      | none => false))) = true := by decide +kernel

theorem test_lca : starts h0 opLca [.reg 1, at6 0x1000] sDesc (fun c s1 =>
    okB (specAddr c (place opLca [.reg 1, at6 0x1000] 2) (at6 0x1000) s1) (fun x s2 =>
      okB (bankAddr c 2 x.1 x.2 1 6 .x s2) (fun y s3 => decide (y.1 = 0x1000) &&
        is (exec (.lca h0 (.reg 1) (at6 0x1000)) sDesc) (completed c opLca [.reg 1, at6 0x1000] s3 (s3.pu 0).mb
          (fun p => p.setReg 1 ⟨0x1000, tagCode⟩))))) = true := by decide +kernel

/-! ### Branches, calls and the return stack -/

def sBr : State := st (puG [(1, ⟨0x1000, tagCode⟩)]) []

theorem test_br : starts h0 (opBranch [(.A, .addr)]) [at6 0x1000] sBr (fun c s1 =>
    okB (bankTarget c (place (opBranch [(.A, .addr)]) [at6 0x1000] 1) (at6 0x1000) s1) (fun t s2 =>
      okB (checkTarget c t (arrived c (opBranch [(.A, .addr)]) [at6 0x1000] s2 (s2.pu 0).mb id t)) (fun _ v =>
        is (exec (.br h0 (at6 0x1000)) sBr) (ended v 0 id) && decide (pswIA (v.pu 0).psw = 0x1000)))) = true := by decide +kernel

theorem test_brr : starts h0 (opBranch [(.R, .rd)]) [.reg 1] sBr (fun c s1 =>
    okB (checkTarget c 0x1000 (arrived c (opBranch [(.R, .rd)]) [.reg 1] s1 (s1.pu 0).mb id 0x1000)) (fun _ v =>
      is (exec (.brr h0 (.reg 1)) sBr) (ended v 0 id) && decide (pswIA (v.pu 0).psw = 0x1000))) = true := by decide +kernel

/-- CC is 0: mask 8 takes the branch, mask 7 does not. -/
theorem test_bc : [((8 : Word), true), (7, false)].all (fun (v, go) =>
    let i := opBranch [(.S, .rd), (.A, .addr)]
    let sp := [imm v, at6 0x1000]
    starts h0 i sp sBr (fun c s1 => okB (source c (place i sp 1) 8 tagsAny (imm v) s1) (fun _ s2 =>
      okB (bankTarget c (place i sp 2) (at6 0x1000) s2) (fun t s3 =>
        if go then okB (checkTarget c t (arrived c i sp s3 (s3.pu 0).mb id t)) (fun _ w => is (exec (.bc h0 (imm v) (at6 0x1000)) sBr) (ended w 0 id))
        else is (exec (.bc h0 (imm v) (at6 0x1000)) sBr) (completed c i sp s3 (s3.pu 0).mb id))))) = true := by decide +kernel

theorem test_bcr : [((8 : Word), true), (7, false)].all (fun (v, go) =>
    let i := opBranch [(.S, .rd), (.R, .rd)]
    let sp := [imm v, .reg 1]
    starts h0 i sp sBr (fun c s1 => okB (source c (place i sp 1) 8 tagsAny (imm v) s1) (fun _ s2 =>
      if go then okB (checkTarget c 0x1000 (arrived c i sp s2 (s2.pu 0).mb id 0x1000)) (fun _ w => is (exec (.bcr h0 (imm v) (.reg 1)) sBr) (ended w 0 id))
      else is (exec (.bcr h0 (imm v) (.reg 1)) sBr) (completed c i sp s2 (s2.pu 0).mb id)))) = true := by decide +kernel
/-- RSREAL covers the real addresses 0x3000 to 0x4FFF (R52). -/
def sRs : State :=
  st { puG [(1, ⟨0x1000, tagCode⟩)] with ctl := [(14, 0x3002)] } [(0x800, ⟨0x300, tagRetaddr⟩)]

theorem test_call : starts h0 (opBranch [(.A, .addr)]) [at6 0x1000] sRs (fun c s1 =>
    let i := opBranch [(.A, .addr)]
    okB (bankTarget c (place i [at6 0x1000] 1) (at6 0x1000) s1) (fun t s2 =>
      okB (rsAccess c 0x3FF8 .rstore s2) (fun a s3 => decide (a = 0x3FF8) &&
        (match (s3.pu 0).push [{ abs := a, va := 0x3FF8, len := 8, data := 0x104, tag := some tagRetaddr, device := false, strict := false, part := 0 }] with
        | some b => decide (c.next = 0x104) &&
            okB (checkTarget c t (arrived c i [at6 0x1000] s3 b (fun p => { p with rsp := 0x3FF8 }) t)) (fun _ v =>
              is (exec (.call h0 (at6 0x1000)) sRs) (ended v 0 id) && decide (pswIA (v.pu 0).psw = 0x1000 ∧ (v.pu 0).rsp = 0x3FF8))
        | none => false)))) = true := by decide +kernel

theorem test_callr : starts h0 (opBranch [(.R, .rd)]) [.reg 1] sRs (fun c s2 =>
    let i := opBranch [(.R, .rd)]
    okB (rsAccess c 0x3FF8 .rstore s2) (fun a s3 =>
      (match (s3.pu 0).push [{ abs := a, va := 0x3FF8, len := 8, data := BitVec.ofNat 64 c.next, tag := some tagRetaddr, device := false, strict := false, part := 0 }] with
      | some b =>
          okB (checkTarget c 0x1000 (arrived c i [.reg 1] s3 b (fun p => { p with rsp := 0x3FF8 }) 0x1000)) (fun _ v =>
            is (exec (.callr h0 (.reg 1)) sRs) (ended v 0 id))
      | none => false))) = true := by decide +kernel

theorem test_ret : starts h0 (opBranch []) [] sRs (fun c s1 =>
    okB (rsEntry c 0x4000 s1) (fun w s2 => decide (w = 0x300) &&
      okB (checkTarget c 0x300 (arrived c (opBranch []) [] s2 (s2.pu 0).mb (fun p => { p with rsp := p.rsp + 8 }) 0x300)) (fun _ v =>
        is (exec (.ret h0) sRs) (ended v 0 id) && decide (pswIA (v.pu 0).psw = 0x300 ∧ (v.pu 0).rsp = 0x4008)))) = true := by decide +kernel

theorem test_return_stack_registers :
    starts h0 opRsD [.reg 2] sRs (fun c s1 =>
      okB (target c (place opRsD [.reg 2] 1) 8 (.reg 2) s1) (fun l s2 => okB (checkDest c l tagInt s2) (fun _ s2' => decide (s2' = s2) &&
        okB (rsEntry c 0x4000 s2) (fun a s3 => decide (a = 0x300) &&
          is (exec (.rsread h0 (.reg 2)) sRs) (completed c opRsD [.reg 2] s3 (s3.pu 0).mb (fun p => regOf l (intWord 0x300) p)) &&
          is (exec (.strsp h0 (.reg 2)) sRs) (completed c opRsD [.reg 2] s2 (s2.pu 0).mb (fun p => regOf l (intWord 0x4000) p)))))) &&
    starts h0 opRsS [imm 1] sRs (fun c s1 =>
      okB (source c (place opRsS [imm 1] 1) 8 tagsOwn (imm 1) s1) (fun w s2 => decide (w = intWord 1) &&
        okB (rsEntries c 0x4000 1 s2) (fun _ s3 =>
          is (exec (.rsdrop h0 (imm 1)) sRs) (completed c opRsS [imm 1] s3 (s3.pu 0).mb (fun p => { p with rsp := 0x4008 }))))) &&
    starts h0 opSrsp [imm 0x4800] sRs (fun c s1 =>
      okB (source c (place opSrsp [imm 0x4800] 1) 8 tagsInt (imm 0x4800) s1) (fun _ s2 =>
        is (exec (.srsp h0 (imm 0x4800)) sRs) (completed c opSrsp [imm 0x4800] s2 (s2.pu 0).mb (fun p => { p with rsp := 0x4800 })))) = true := by
  decide +kernel

/-! ### Barriers, purges, control registers -/

def sCtl : State := st { puG [] with lastTod := 7, tbMark := 0 } []

theorem test_barriers : starts h0 opBarrier [] sCtl (fun c s1 => !storesPending (s1.pu 0) && !storesWaiting (s1.pu 0) &&
    decide (firstLost (s1.pu 0).mb = none) &&
    [Instr.sync h0, .syncs h0, .fpsync h0].all (fun j => is (exec j sCtl) (completed c opBarrier [] s1 (s1.pu 0).mb id))) = true := by decide +kernel

theorem test_nop : starts h0 (opSys 1 [] false 3 false) [] sCtl (fun c s1 =>
    is (exec (.nop h0) sCtl) (completed c (opSys 1 [] false 3 false) [] s1 (s1.pu 0).mb id)) = true := by decide +kernel

theorem test_purges : starts h0 (opSys 2 [] false 2 true) [] { sCtl with tbHist := [(0x500, (1 : Word))] } (fun c s1 =>
    is (exec (.tbpurge h0) { sCtl with tbHist := [(0x500, (1 : Word))] })
      (completed c (opSys 2 [] false 2 true) [] s1 (s1.pu 0).mb (fun p => { p with tbMark := 1 })) &&
    nextB (exec (.tbpurgep h0) { sCtl with tbHist := [(0x500, (1 : Word))] }) (fun t =>
      decide ((t.pu 0).tbMark = 1 ∧ (t.pu 59).tbMark = 1 ∧ t.mem = sCtl.mem))) = true := by decide +kernel

theorem test_ctl :
    (let i := opSys 2 [(.S, .rd), (.S, .rd)] true 1 true
    starts h0 i [im2 14, im2 0x5001] sCtl (fun c s1 =>
      okB (source c (place i [im2 14, im2 0x5001] 1) 8 tagsInt (im2 14) s1) (fun _ s2 =>
        okB (source c (place i [im2 14, im2 0x5001] 2) 8 tagsInt (im2 0x5001) s2) (fun _ s3 =>
          is (exec (.ctlwr h0 (im2 14) (im2 0x5001)) sCtl)
            (completed c i [im2 14, im2 0x5001] s3 (s3.pu 0).mb (fun p => p.setCtl 14 0x5001)))))) = true ∧
    (let i := opSys 2 [(.D, .wr), (.S, .rd)] true 2 true
    starts h0 i [.reg 1, imm 12] sCtl (fun c s1 =>
      okB (target c (place i [.reg 1, imm 12] 1) 8 (.reg 1) s1) (fun l s2 =>
        okB (source c (place i [.reg 1, imm 12] 2) 8 tagsInt (imm 12) s2) (fun _ s3 =>
          is (exec (.ctlrd h0 (.reg 1) (imm 12)) sCtl)
            (completed c i [.reg 1, imm 12] s3 (s3.pu 0).mb (fun p => regOf l (intWord 0xFFFFFFFFFFFFFFFF) p)))))) = true := by decide +kernel

theorem test_prefix :
    (let i := opSys 2 [(.S, .rd)] true 1 true
    starts h0 i [imm 0x12345] sCtl (fun c s1 =>
      okB (source c (place i [imm 0x12345] 1) 8 tagsInt (imm 0x12345) s1) (fun _ s2 => pfxOk s2 0 0x12345 &&
        is (exec (.pfxwr h0 (imm 0x12345)) sCtl) (completed c i [imm 0x12345] s2 (s2.pu 0).mb (fun p => { p with pfxArea := 0x12000 }))))) = true ∧
    (let i := opSys 2 [(.D, .wr)] true 2 true
    let s := st { puG [] with pfxArea := 0x12000 } []
    starts h0 i [.reg 1] s (fun c s1 =>
      okB (target c (place i [.reg 1] 1) 8 (.reg 1) s1) (fun l s2 => okB (checkDest c l tagInt s2) (fun _ s3 => decide (s3 = s2)) &&
        is (exec (.pfxrd h0 (.reg 1)) s) (completed c i [.reg 1] s2 (s2.pu 0).mb (fun p => regOf l (intWord 0x12000) p))))) = true := by decide +kernel

def h3 : Hdr := { pu := 3, pfx := [], vote := .agree }

theorem test_stpu_rdtod :
    starts h0 (opSys 1 [(.R, .wr)] false 2 false) [.reg 1] sCtl (fun c s1 => decide (c.pu + 256 * pswPart (sCtl.pu 0).psw = 0) &&
      is (exec (.stpu h0 (.reg 1)) sCtl) (completed c (opSys 1 [(.R, .wr)] false 2 false) [.reg 1] s1 (s1.pu 0).mb (fun p => p.setReg 1 (intWord 0)))) &&
    starts h0 (opSys 1 [(.P, .wr)] false 3 false) [.reg 2] sCtl (fun c s1 =>
      is (exec (.rdtod h0 (.reg 2)) sCtl) (completed c (opSys 1 [(.P, .wr)] false 3 false) [.reg 2] s1 (s1.pu 0).mb (fun p =>
        { (p.setReg 2 (intWord 0)).setReg 3 (intWord 7) with lastTod := 8 }))) = true := by decide +kernel

/-! ### Supervisor call, RETI, PSWLD, SIGPU -/

/-- A PU with PREFIX at 0x10000 and a valid new PSW of class 2 there, T 0, IA 0x2000. -/
def sSvc : State := st { puG [] with pfxArea := 0x10000, busy := 2 } [(0x2028, intWord 0x5), (0x2029, intWord 0x400), (0x2032, intWord 0), (0x2033, intWord 0x2000)]

theorem test_svc : (let i := opSys 1 [(.S, .rd)] true 3 true
    starts h0 i [imm 9] sSvc (fun c s1 => okB (source c (place i [imm 9] 1) 8 tagsInt (imm 9) s1) (fun _ s2 =>
      (match trapped (arrived c i [imm 9] s2 (s2.pu 0).mb id c.next) 0
        { cls := 2, code := 9, fail := 0x100, ia := BitVec.ofNat 64 c.next, ilen := c.len, slot := 0, unit := 0, acc := 0, param := 0 } with
      | some v => is (exec (.svc h0 (imm 9)) sSvc) v && decide ((v.pu 0).psw = 0x2000 ∧ (v.pu 0).busy = 6)
      | none => false)))) = true := by decide +kernel

theorem test_reti : (let i := opSys 1 [(.S, .rd)] true 2 true
    let s := st { puG [] with pfxArea := 0x10000, busy := 6 } [(0x2028, intWord 0), (0x2029, intWord 0x400), (0x2030, intWord 0), (0x2031, intWord 0x500)]
    starts h0 i [imm 2] s (fun c s1 => okB (source c (place i [imm 2] 1) 8 tagsInt (imm 2) s1) (fun _ s2 =>
      let read := s2.modPu 0 (fun p => { p with touched := p.touched ++ [(false, oldPswAddr s2 0 2 / 64)] })
      !strictPending (s2.pu 0).mb && (s.pu 0).isBusy 2 && mayRead s2 0 (oldPswAddr s2 0 2 / 64) &&
      decide (oldPsw s2 0 2 = some 0x500) && decide (pswLoadFault s2 0 0x500 = none) &&
      is (exec (.reti h0 (imm 2)) s) (ended read 0 (fun p => { p.moveStack i [imm 2] with psw := 0x500, busy := 2 }))))) = true := by decide +kernel

theorem test_pswld : (let i := opSys 2 [(.M, .rd)] true 2 true
    let s := st (puG []) [(0x200, intWord 0), (0x201, intWord 0x500)]
    starts h0 i [at6 0x1000] s (fun c s1 => okB (longOperand c (place i [at6 0x1000] 1) 2 8 (at6 0x1000) s1) (fun ms s2 =>
      okB (readPair c tagsInt ms s2) (fun ws s3 => decide (ws = [intWord 0, intWord 0x500]) && decide (pswLoadFault s3 0 0x500 = none) &&
        is (exec (.pswld h0 (at6 0x1000)) s) (ended s3 0 (fun p => { p.moveStack i [at6 0x1000] with psw := 0x500 })))))) = true := by decide +kernel

/-- A PSW of a level below its own is refused (R50), and one with a partition at PL 0 (R46). -/
theorem test_psw_refused : pswLoadFault (st { puG [] with psw := (3 : BitVec 128) <<< 123 } []) 0 0x500 ≠ none ∧
    pswLoadFault (st (puG []) []) 0 ((1 : BitVec 128) <<< 118) = some 0x0006 := by decide +kernel

/-- PU 1 is STOPPED, PU 2 locked up or off line. -/
def sSig : State := stR (puG []) [] [(0x0100810000, 0x2000000000000000)]

def sSigL : State :=
  { st (puG []) [] with regs := [(0x0100200000, 0x8100000000000001), (0x0100200008, 0x8000000000000001), (0x0100800000, 0x1000000000000000), (0x0100810000, 0x2000000000000000)] }

theorem test_sigpu : [(Instr.sigpuSense h0 (im4 1) (im4 0), (0 : Word)), (.sigpuExternalCall h0 (im4 1) (im4 1), 1), (.sigpuStop h0 (im4 1) (im4 2), 2),
      (.sigpuRestart h0 (im4 1) (im4 3), 3), (.sigpuSetPrefix h0 (im4 1) (im4 0x12004), 0x12004)].all (fun (j, w) =>
    starts h0 opSigpu [im4 1, im4 w] sSigL (fun c s1 =>
      okB (source c (place opSigpu [im4 1, im4 w] 1) 8 tagsInt (im4 1) s1) (fun _ s2 =>
        okB (source c (place opSigpu [im4 1, im4 w] 2) 8 tagsInt (im4 w) s2) (fun _ s3 =>
          orderOk w && unlatched s3 0 && !notOperational s3 1 0 && pfxOk s3 0 w &&
          (let r := sigpuOrder s3 0 1 (bits w.toNat 7 0) w
          is (exec j sSigL) (completed c opSigpu [im4 1, im4 w] r.1 (s3.pu 0).mb (fun p => p.setCC r.2))))))) = true := by decide +kernel

theorem test_sigpu_gone : starts h0 opSigpu [im4 2, im4 1] sSigL (fun c s1 =>
    okB (source c (place opSigpu [im4 2, im4 1] 1) 8 tagsInt (im4 2) s1) (fun _ s2 =>
      okB (source c (place opSigpu [im4 2, im4 1] 2) 8 tagsInt (im4 1) s2) (fun _ s3 =>
        unlatched s3 0 && notOperational s3 2 0 &&
        is (exec (.sigpuExternalCall h0 (im4 2) (im4 1)) sSigL) (completed c opSigpu [im4 2, im4 1] s3 (s3.pu 0).mb (fun p => p.setCC 3))))) = true := by
  decide +kernel

/-- Each clause about an order at an operational target: a running target (PU 0), a stopped one (PU 1), one with a call, a stop or
a restart pending. -/
theorem test_sigpu_orders : (sigpuOrder sSigL 1 0 0 0).2 = 0 ∧ (sigpuOrder sSigL 0 1 0 0).2 = 1 ∧
    (((sigpuOrder sSigL 1 0 1 0).1).pu 0).xcall = some 1 ∧ (sigpuOrder (sigpuOrder sSigL 1 0 1 0).1 1 0 1 0).2 = 2 ∧
    (((sigpuOrder sSigL 1 0 2 0).1).pu 0).stopHeld = true ∧ (sigpuOrder (sigpuOrder sSigL 1 0 2 0).1 1 0 1 0).2 = 2 ∧
    (sigpuOrder sSigL 0 1 2 0).2 = 1 ∧ (((sigpuOrder sSigL 1 0 3 0).1).pu 0).restart = some 0x101 ∧
    (sigpuOrder (sigpuOrder sSigL 1 0 3 0).1 1 0 3 0).2 = 2 ∧ (((sigpuOrder sSigL 0 1 4 0x12004).1).pu 1).pfxArea = 0x12000 ∧
    (sigpuOrder sSigL 1 0 4 0x12004).2 = 1 := by decide +kernel
/-! ### Floating point -/

def bfp (w : Word) : TWord := ⟨w, tagBfp⟩

/-- G1 1.5, G2 2.25, G3 3, G4 the single 2.5. -/
def sFp : State := st (puG [(1, bfp 0x3FF8000000000000), (2, bfp 0x4002000000000000), (3, bfp 0x4008000000000000), (4, bfp 0x40200000), (5, intWord 7)]) []

theorem test_float_two : [(Instr.addbf h0 (.reg 1) (.reg 2), (0x400E000000000000 : Nat), 2), (.subbf h0 (.reg 1) (.reg 2), 0xBFE8000000000000, 1),
      (.mulbf h0 (.reg 1) (.reg 2), 0x400B000000000000, 2), (.divbf h0 (.reg 2) (.reg 1), 0x3FF8000000000000, 2),
      (.minbf h0 (.reg 1) (.reg 2), 0x3FF8000000000000, 2), (.maxbf h0 (.reg 1) (.reg 2), 0x4002000000000000, 2)].all (fun (j, v, cc) =>
    let i := opFp 1 [(.D, .rw), (.S, .rd)] true
    let (a, b) := if j = .divbf h0 (.reg 2) (.reg 1) then (Spec.reg 2, Spec.reg 1) else (.reg 1, .reg 2)
    starts h0 i [a, b] sFp (fun c s1 => okB (update c (place i [a, b] 1) c.width tagsBfp a s1) (fun lx s2 =>
      okB (source c (place i [a, b] 2) c.width tagsBfp b s2) (fun _ s3 => okB (checkDest c lx.1 tagBfp s3) (fun _ s4 => decide (s4 = s3)) &&
        is (exec j sFp) (completed c i [a, b] s3 (s3.pu 0).mb
          (fun p => ((regOf lx.1 (bfpWord v) p)).setCC cc)))))) = true := by decide +kernel

theorem test_fmabf : (let i := opFp 1 [(.D, .rw), (.S, .rd), (.S, .rd)] true
    let sp : List Spec := [.reg 1, .reg 2, .reg 3]
    starts h0 i sp sFp (fun c s1 => okB (update c (place i sp 1) c.width tagsBfp (.reg 1) s1) (fun lz s2 =>
      okB (source c (place i sp 2) c.width tagsBfp (.reg 2) s2) (fun _ s3 => okB (source c (place i sp 3) c.width tagsBfp (.reg 3) s3) (fun _ s4 =>
        is (exec (.fmabf h0 (.reg 1) (.reg 2) (.reg 3)) sFp) (completed c i sp s4 (s4.pu 0).mb
          (fun p => (regOf lz.1 (bfpWord 0x4020800000000000) p).setCC 2))))))) = true := by decide +kernel

theorem test_float_sign : [(Instr.negbf h0 (.reg 1), (0xBFF8000000000000 : Nat), 1), (.absbf h0 (.reg 1), 0x3FF8000000000000, 2)].all (fun (j, v, cc) =>
    let i := opFp 1 [(.D, .rw)] true
    starts h0 i [.reg 1] sFp (fun c s1 => okB (update c (place i [.reg 1] 1) c.width tagsBfp (.reg 1) s1) (fun lx s2 =>
      is (exec j sFp) (completed c i [.reg 1] s2 (s2.pu 0).mb (fun p => (regOf lx.1 (bfpWord v) p).setCC cc))))) = true := by decide +kernel

/-- The square root of 2.25, 2.25 rounded to an integer, 7 and 2.5 converted, 2.25 narrowed. -/
theorem test_float_one : [(Instr.sqrtbf h0 (.reg 6) (.reg 2), Spec.reg 2, 8, 8, tagsBfp, true, (0x3FF8000000000000 : Nat), (0 : Nat)),
      (.rndbf h0 (.reg 6) (.reg 2), .reg 2, 8, 8, tagsBfp, true, 0x4000000000000000, 1), (.cvtib h0 (.reg 6) (.reg 5), .reg 5, 8, 8, tagsInt, true, 0x401C000000000000, 0),
      (.cvtbw h0 (.reg 6) (.reg 4), .reg 4, 4, 8, tagsBfp, false, 0x4004000000000000, 0),
      (.cvtbn h0 (.reg 6) (.reg 2), .reg 2, 8, 4, tagsBfp, false, 0x40100000, 0)].all (fun (j, b, ls, ld, ok, n, v, fl) =>
    let i := opFp 2 [(.D, .wr), (.S, .rd)] n
    starts h0 i [.reg 6, b] sFp (fun c s1 => decide (c.width = 8) && okB (target c (place i [.reg 6, b] 1) ld (.reg 6) s1) (fun l s2 =>
      okB (source c (place i [.reg 6, b] 2) ls ok b s2) (fun _ s3 =>
        is (exec j sFp) (completed c i [.reg 6, b] s3 (s3.pu 0).mb (fun p => (fpRaise fl c.ia (regOf l (bfpWord v) p)).setCC 2)))))) = true := by
  decide +kernel

theorem test_cvtbi : (let i := opFp 2 [(.D, .wr), (.S, .rd)] true
    starts h0 i [.reg 6, .reg 3] sFp (fun c s1 => okB (target c (place i [.reg 6, .reg 3] 1) 8 (.reg 6) s1) (fun l s2 =>
      okB (source c (place i [.reg 6, .reg 3] 2) c.width tagsBfp (.reg 3) s2) (fun _ s3 =>
        is (exec (.cvtbi h0 (.reg 6) (.reg 3)) sFp) (completed c i [.reg 6, .reg 3] s3 (s3.pu 0).mb (fun p => (regOf l (intWord 3) p).setCC 2)))))) = true := by
  decide +kernel

def sFpc : State := st { puG [] with fpc := 0x0000A00000000400, fpfia := 0x123 } []

theorem test_fpc : starts h0 opLfpc [imm 0x0000001F00000003] { sFpc with pus := [(0, { puG [] with fpc := 0x400 })] } (fun c s1 =>
      okB (source c (place opLfpc [imm 0x0000001F00000003] 1) 8 tagsInt (imm 0x0000001F00000003) s1) (fun _ s2 =>
        is (exec (.lfpc h0 (imm 0x0000001F00000003)) { sFpc with pus := [(0, { puG [] with fpc := 0x400 })] })
          (completed c opLfpc [imm 0x0000001F00000003] s2 (s2.pu 0).mb (fun p => { p with fpc := 0x0000001F00000003 })))) = true ∧
    (let s : State := { sFpc with pus := [(0, { puG [] with fpc := 0x400, fpfia := 0x123 })] }
    [(Instr.stfpc h0 (.reg 1), (0x400 : Word)), (.stfia h0 (.reg 1), 0x123)].all (fun (j, w) => starts h0 opStfpc [.reg 1] s (fun c s1 =>
      okB (target c (place opStfpc [.reg 1] 1) 8 (.reg 1) s1) (fun l s2 =>
        is (exec j s) (completed c opStfpc [.reg 1] s2 (s2.pu 0).mb (fun p => regOf l (intWord w) p)))))) = true := by decide +kernel

theorem test_round : fmt64.round .even false 3 0 = (0x4008000000000000, 0) ∧
    fmt64.add .even (.fin false 3 0) (.fin false 5 0) = (0x4020000000000000, 0) := by decide +kernel

/-- The five clauses of the deferred trap: disabled; class 1 busy; enabled; pending already. -/
theorem test_fp_raise : (fpRaise 1 0x50 (puG [])).fpc = 0x100 ∧
    (let p : Pu := { puG [] with fpc := 0x100000000, busy := 2 }; (fpRaise 1 0x50 p).fpc = 0x100000100 ∧ (fpRaise 1 0x50 p).fpfia = 0) ∧
    (let p : Pu := { puG [] with fpc := 0x100000000 }; (fpRaise 1 0x50 p).fpc = 0x0000810100000100 ∧ (fpRaise 1 0x50 p).fpfia = 0x50) ∧
    (let p : Pu := { puG [] with fpc := 0x0000810300000100, fpfia := 9 }; (fpRaise 2 0x50 p).fpc = 0x0000C10300000300 ∧ (fpRaise 2 0x50 p).fpfia = 9) := by
  decide +kernel

/-! ### Decimal -/

def dec (w : Word) : TWord := ⟨w, tagDec⟩

/-- G2,G3 = +12, G4,G5 = -30, G6,G7 = 10^31 - 1. -/
def sDec : State := st (puG [(2, dec 0), (3, dec 0x12C), (4, dec 0), (5, dec 0x30D), (6, dec 0x9999999999999999), (7, dec 0x999999999999999C), (8, intWord 0xFFFFFFFFFFFFFFFB)]) []

theorem test_decimal_sum : [(Instr.addp h0 (.reg 2) (.reg 4), (-18 : Int)), (.subp h0 (.reg 2) (.reg 4), 42)].all (fun (j, r) =>
    let i := opDec 1 [(.P, .rw), (.P, .rd)] false
    starts h0 i [.reg 2, .reg 4] sDec (fun c s1 => okB (decPair c 1 (.reg 2) s1) (fun x s2 => okB (decPair c 2 (.reg 4) s1) (fun y _ =>
      decide (x = some 12) && decide (y = some (-30)) && decide (s2 = s1) &&
      is (exec j sDec) (completed c i [.reg 2, .reg 4] s1 (s1.pu 0).mb
        (fun p => (setPair 2 (packPair (decide (r < 0)) r.natAbs).1 (packPair (decide (r < 0)) r.natAbs).2 p).setCC (if r < 0 then 1 else 2))))))) = true := by
  decide +kernel

theorem test_decimal_overflow : (let i := opDec 1 [(.P, .rw), (.P, .rd)] false
    starts h0 i [.reg 6, .reg 6] sDec (fun c s1 => is (exec (.addp h0 (.reg 6) (.reg 6)) sDec) (completed c i [.reg 6, .reg 6] s1 (s1.pu 0).mb
      (fun p => (setPair 6 (dec 0x9999999999999999) (dec 0x999999999999998C) p).setCC 3)))) = true := by decide +kernel

theorem test_decimal_rest :
    (let i := opDec 1 [(.P, .rd), (.P, .rd)] false
    starts h0 i [.reg 2, .reg 4] sDec (fun c s1 => is (exec (.cmpp h0 (.reg 2) (.reg 4)) sDec) (completed c i [.reg 2, .reg 4] s1 (s1.pu 0).mb (fun p => p.setCC 2)))) &&
    (let i := opDec 2 [(.R, .wr), (.P, .rd)] false
    starts h0 i [.reg 1, .reg 4] sDec (fun c s1 => is (exec (.cvtpi h0 (.reg 1) (.reg 4)) sDec) (completed c i [.reg 1, .reg 4] s1 (s1.pu 0).mb
        (fun p => (p.setReg 1 (intWord (-30))).setCC 1))) &&
    starts h0 i [.reg 1, .reg 6] sDec (fun c s1 => is (exec (.cvtpi h0 (.reg 1) (.reg 6)) sDec) (completed c i [.reg 1, .reg 6] s1 (s1.pu 0).mb
        (fun p => p.setCC 3)))) &&
    (let i := opDec 2 [(.P, .wr), (.S, .rd)] true
    starts h0 i [.reg 2, .reg 8] sDec (fun c s1 => okB (source c (place i [.reg 2, .reg 8] 2) 8 tagsInt (.reg 8) s1) (fun _ s2 =>
      is (exec (.cvtip h0 (.reg 2) (.reg 8)) sDec) (completed c i [.reg 2, .reg 8] s2 (s2.pu 0).mb
        (fun p => (setPair 2 (dec 0) (dec 0x5D) p).setCC 1))))) = true := by decide +kernel

theorem test_pack : packPair true 123 = (dec 0, dec 0x123D) ∧ pairValue 0 0x123D = some (-123) ∧ pairValue 0 0x1A3C = none := by decide +kernel

/-! ### Atomics and MOVL -/

def sAt : State := st (puG [(1, intWord 5), (2, intWord 5), (3, intWord 9)]) [(0x200, intWord 5)]

def hAt : Hdr := { pu := 0, pfx := [0xA], vote := .agree }

/-- The conditions under which an atomic runs near hold, and exec answers the state the statement names, its word written `v`. -/
def nearB (j : Instr) (op : AtomOp) (i : OpInfo) (sp : List Spec) (s s1 s3 : State) (c : Ctx) (m : MLoc) (x y : TWord) (pair : Report)
    (d : Option Nat) (v : TWord) : Bool :=
  (match atomSent c s1 with | .ok b s1' => !b && decide (s1' = s1) | _ => false) &&
  !inWindow m.abs && !inDevice m.abs && !storesWaiting (s3.pu 0) && !strictPending (s3.pu 0).mb && unlatched s3 0 &&
  !runsFar s3 0 (m.abs / 64) && mayOwn s3 0 (m.abs / 64) &&
  (let r := atomReq c s3 m op (.ok (x, y)) pair
   let u := nearAtomic s3 0 r
   match atomApply r (memGet (takeOwn s3 0 (m.abs / 64)) (m.abs / 8)) with
   | .ok res => decide (memGet u (m.abs / 8) = v) &&
       is (exec j s) (completed c i sp (requested u 0 .nearAtomic m.abs [res.old, intWord (BitVec.ofNat 64 res.cc)]) (s3.pu 0).mb
         (fun p => (match d with | some n => p.setReg n res.old | none => p).setCC res.cc))
   | .error _ => false)

theorem test_cas : starts h0 opCas [at6 0x1000, .reg 2, .reg 3] sAt (fun c s1 =>
    okB (atomicLoc c (place opCas [at6 0x1000, .reg 2, .reg 3] 1) (at6 0x1000) s1) (fun m s2 =>
      okB (casOthers c [at6 0x1000, .reg 2, .reg 3] s2) (fun ab s3 => decide (m.abs = 0x1000) &&
        nearB (.cas h0 (at6 0x1000) (.reg 2) (.reg 3)) .cas opCas [at6 0x1000, .reg 2, .reg 3] sAt s1 s3 c m ab.1 ab.2 m.report none
          (intWord 9)))) = true := by decide +kernel

theorem test_fadd : starts h0 opFadd [at6 0x1000, .reg 2, .reg 3] sAt (fun c s1 =>
    okB (atomicLoc c (place opFadd [at6 0x1000, .reg 2, .reg 3] 1) (at6 0x1000) s1) (fun m s2 =>
      okB (faddOther c [at6 0x1000, .reg 2, .reg 3] s2) (fun ab s3 =>
        nearB (.fadd h0 (at6 0x1000) (.reg 2) (.reg 3)) .fadd opFadd [at6 0x1000, .reg 2, .reg 3] sAt s1 s3 c m ab.1 ab.2 m.report (some 2)
          (intWord 14)))) = true := by decide +kernel

theorem test_atomic_forms : [(Instr.add hAt (at6 0x1000) (.reg 3), AtomOp.add, opArith, [at6 0x1000, .reg 3], (14 : Word)),
      (.sub hAt (at6 0x1000) (.reg 3), .sub, opArith, [at6 0x1000, .reg 3], 0xFFFFFFFFFFFFFFFC), (.and hAt (at6 0x1000) (.reg 3), .and, opArith, [at6 0x1000, .reg 3], 1),
      (.or hAt (at6 0x1000) (.reg 3), .or, opArith, [at6 0x1000, .reg 3], 13), (.xor hAt (at6 0x1000) (.reg 3), .xor, opArith, [at6 0x1000, .reg 3], 12),
      (.neg hAt (at6 0x1000), .neg, opUnary, [at6 0x1000], 0xFFFFFFFFFFFFFFFB), (.not hAt (at6 0x1000), .not, opUnary, [at6 0x1000], 0xFFFFFFFFFFFFFFFA)].all
    (fun (j, op, i, sp, v) => starts hAt i sp sAt (fun c s1 => c.atomic &&
      okB (atomicLoc c (place i sp 1) (sp.headD (.reg 0)) s1) (fun m s2 =>
        okB (secondOperand c i (op.accepts false) sp s2) (fun ly s3 =>
          nearB j op i sp sAt s1 s3 c m ly.2 (intWord 0) (ly.1.report c 2) none (intWord v))))) = true := by decide +kernel

/-- A success of an `Except` that passes. -/
def exB {ε α : Type} (r : Except ε α) (f : α → Bool) : Bool := match r with | .ok a => f a | .error _ => false

theorem test_atomic_results :
    let z : Report := { fail := 0, slot := 0, unit := 0, acc := 0 }
    let r : AtomReq := { op := .cas, abs := 0x1000, narrow := false, relax := false, policy := 0, a := intWord 5, b := intWord 9,
                         word := z, pair := z, later := none, done := false }
    (exB (atomApply r (intWord 5)) (fun x => decide (x = ⟨some (intWord 9), intWord 5, 0⟩)) &&
    exB (atomApply r ⟨5, tagPtr⟩) (fun x => decide (x = ⟨none, ⟨5, tagPtr⟩, 1⟩)) &&
    exB (atomApply { r with op := .fadd, a := intWord 1 } (intWord 0x7FFFFFFFFFFFFFFF)) (fun x =>
      decide (x = ⟨some (intWord 0x8000000000000000), intWord 0x7FFFFFFFFFFFFFFF, 3⟩))) = true := by
  decide +kernel

/-- 24 bytes from 0x1FF8 (bank 6) to 0x3000: the first unit ends at the page, 8 bytes. G2,G3 destination, G4,G5 source. -/
def sMovl (len : Word) : State :=
  st (puG [(2, ⟨0x3000, tagPtr⟩), (3, intWord (0xC000000000000000 + len)), (4, ⟨0x1FF8, tagPtr⟩), (5, intWord (0xC000000000000000 + len))])
    [(0x3FF, ⟨0x1122334455667788, tagBytes⟩)]

theorem test_movl_unit : starts h0 opMovl [.reg 2, .reg 4] (sMovl 24) (fun c s1 =>
    okB (pairOp c 1 (.reg 2) s1) (fun d _ => okB (pairOp c 2 (.reg 4) s1) (fun r _ => lenOk d.2 && lenOk r.2 && decide (d.1.len = 24) &&
      decide ((s1.pu 0).unitHold = []) && !strictPending (s1.pu 0).mb &&
      decide (min 24 (min (toBoundary (d.1.va s1 0)) (toBoundary (r.1.va s1 0))) = 8) &&
      okB (unitLoc c d.1 8 .store .w s1) (fun x1 s2 => okB (checkNarrows c d.1 x1.1 x1.2 true (chunksOf x1.2 8) s2) (fun _ s2 => okB (unitLoc c r.1 8 .load .r s2) (fun x2 s3 => decide (x1 = (0x3000, 0x3000)) && decide (x2 = (0x1FF8, 0x1FF8)) &&
        okB (checkSource c r.1 x2.1 x2.2 true (chunksOf x2.2 8) s3) (fun _ s4 => okB (checkWholes c d.1 x1.1 x1.2 x2.2 true (chunksOf x1.2 8) s4) (fun _ s5 =>
          let held := unitStores (copyChunks s5 0 x1.2 x2.2 true (chunksOf x1.2 8) []) x1.2 x1.1 true (chunksOf x1.2 8)
          is (exec (.movl h0 (.reg 2) (.reg 4)) (sMovl 24)) (ended s5 0 (afterUnit c false 0 (fun p => { r.1.advance 8 (d.1.advance 8 p) with unitHold := held }.drain))) &&
          nextB (exec (.movl h0 (.reg 2) (.reg 4)) (sMovl 24)) (fun t => decide ((t.pu 0).reg 2 = ⟨0x3008, tagPtr⟩ ∧ (t.pu 0).reg 5 = intWord 0xC000000000000010 ∧
            pswIA (t.pu 0).psw = 0x100 ∧ puView t 0 0x600 = ⟨0x1122334455667788, tagBytes⟩))))))))))= true := by decide +kernel

theorem test_movl_end : starts h0 opMovl [.reg 2, .reg 4] (sMovl 0) (fun c s1 =>
    is (exec (.movl h0 (.reg 2) (.reg 4)) (sMovl 0)) (ended s1 0 (afterUnit c true 0 id)) &&
    nextB (exec (.movl h0 (.reg 2) (.reg 4)) (sMovl 0)) (fun t => decide (pswIA (t.pu 0).psw = 0x103))) = true := by decide +kernel
/-! ### Bellows -/

/-- A 16-byte source at 0x1000 and a 64 KiB destination at 0x4000, both in B6. -/
def gBel : List (Nat × TWord) := [(2, intWord 0x4000), (3, intWord 0xC000000000010000), (4, intWord 0x1000), (5, intWord 0xC000000000000010), (6, intWord 0)]

def sBel : State := st (puG gBel) []

theorem test_cmpb_posts : starts h0 opCmpb [.reg 2, .reg 4, .reg 6] sBel (fun c s1 =>
    okB (pairOp c 1 (.reg 2) s1) (fun d _ => okB (pairOp c 2 (.reg 4) s1) (fun r _ => okB (source c (place opCmpb [.reg 2, .reg 4, .reg 6] 3) 8 tagsInt (.reg 6) s1) (fun _ s2 =>
      lenOk d.2 && lenOk r.2 && cmpCtlOk 0 (r.1.va s2 0) && decide (belStop s2 0 r.1.len false = none) && !storesPending (s2.pu 0) && unlatched s2 0 &&
      is (exec (.cmpb h0 (.reg 2) (.reg 4) (.reg 6)) sBel) (posted s2 0 .compress (continues h0 sBel) [] [.reg 2, .reg 4, .reg 6] c.len))))) = true := by decide +kernel

theorem test_expb : starts h0 opExpb [.reg 2, .reg 4] sBel (fun c s1 =>
    okB (pairOp c 2 (.reg 4) s1) (fun r _ => decide (belStop s1 0 r.1.len false = none) && !storesPending (s1.pu 0) && unlatched s1 0 &&
      is (exec (.expb h0 (.reg 2) (.reg 4)) sBel) (posted s1 0 .expand (continues h0 sBel) [] [.reg 2, .reg 4] c.len))) = true := by decide +kernel

/-- With no source left CC is 0. -/
theorem test_bellows_ends : (let g := gBel.filter (fun e => e.1 != 5) ++ []
    let s := st (puG (g.take 3 ++ [(5, intWord 0xC000000000000000)] ++ g.drop 3)) []
    starts h0 opExpb [.reg 2, .reg 4] s (fun c s1 => decide (belStop s1 0 0 false = some 0) &&
      is (exec (.expb h0 (.reg 2) (.reg 4)) s) (ended s1 0 (afterUnit c true 0 id))) &&
    starts h0 opCmpb [.reg 2, .reg 4, .reg 6] s (fun c s1 => is (exec (.cmpb h0 (.reg 2) (.reg 4) (.reg 6)) s) (ended s1 0 (afterUnit c true 0 id)))) = true := by
  decide +kernel

/-- A PU whose unit waits at engine 0. -/
def sJob (j : Job) (g : List (Nat × TWord)) (m : Sparse TWord) : State :=
  st { puG g with latch := [{ kind := .engine, addr := 0, resp := none }], job := some j } m

/-- `Serves` with a context and a state that pass. -/
def serves (h : Hdr) (i : OpInfo) (sp : List Spec) (s : State) (f : Ctx → State → Bool) : Bool :=
  serving s h.pu.val && decide (h.vote = .agree) && okB (prelude h i sp (atStart s h.pu.val)) f

/-- The unit that engine 0 serves first. -/
def firstUnit (s : State) : Option (Nat × Fin 60) :=
  (slotOrder (spGet 4 s.belLast 0)).findSome? (fun k =>
    ((clusterPus 0)[k]?).bind (fun n => if waitsFor s n.val .compress .expand then some (k, n) else none))

def sCmp : State := sJob ⟨.compress, false, [], [.reg 2, .reg 4, .reg 6]⟩ gBel [(0x200, ⟨0x1111111111111111, tagBytes⟩), (0x201, ⟨0x1111111111111111, tagBytes⟩)]

theorem test_bellows_unit_compress : (decide (firstUnit sCmp = some (0, 0)) &&
    serves h0 opCmpb [.reg 2, .reg 4, .reg 6] (answerUnit { sCmp with belLast := spSet 4 sCmp.belLast 0 0 } 0 0) (fun c s1 =>
      let sp : List Spec := [.reg 2, .reg 4, .reg 6]
      okB (pairOp c 1 (.reg 2) s1) (fun d _ => okB (pairOp c 2 (.reg 4) s1) (fun r _ => okB (source c (place opCmpb sp 3) 8 tagsInt (.reg 6) s1) (fun _ s2 =>
        decide (belStop s2 0 r.1.len false = none) && !storesPending (s2.pu 0) && okB (engineUnit c h0 .compress (continues h0 (answerUnit { sCmp with belLast := spSet 4 sCmp.belLast 0 0 } 0 0)) sp s2) (fun v s3 => decide (v = 0) &&
          okB (sourceSpan c r.1 (min r.1.len 4096) s3) (fun src s4 =>
            let z := compressBlock 0 false (partBytes s4 0 src.2) (groupTags s4 0 src.2)
            decide (classSize z.cls ≤ d.1.len) && okB (targetSpan c d.1 (classSize z.cls) (fun _ _ => tagBytes) s4) (fun dst s5 =>
              decide (dst.2.length = 128) && decide (s5 = s4))))))))) = true := by
  decide +kernel
/-- A class-0 block of the one byte 0x01, at 0x1000 (R349 to R355). -/
def blockMem : Sparse TWord :=
  [(0x200, ⟨0xBE70000000010008, tagBytes⟩), (0x201, ⟨0xA016D05200000000, tagBytes⟩), (0x202, ⟨0x3900000000000000, tagBytes⟩)]
    ++ (List.range 125).map (fun i => (0x203 + i, ⟨0, tagBytes⟩))

def gExp : List (Nat × TWord) := [(2, intWord 0x4000), (3, intWord 0xC000000000010000), (4, intWord 0x1000), (5, intWord 0xC000000000000400)]

def sExp : State := sJob ⟨.expand, false, [], [.reg 2, .reg 4]⟩ gExp (blockMem ++ [(0x800, ⟨0x2222222222222222, tagBytes⟩)])

theorem test_bellows_unit_expand : (decide (firstUnit sExp = some (0, 0)) &&
    serves h0 opExpb [.reg 2, .reg 4] (answerUnit { sExp with belLast := spSet 4 sExp.belLast 0 0 } 0 0) (fun c s1 =>
      let sp : List Spec := [.reg 2, .reg 4]
      okB (pairOp c 1 (.reg 2) s1) (fun d _ => okB (pairOp c 2 (.reg 4) s1) (fun r _ =>
        decide (belStop s1 0 r.1.len false = none) && !storesPending (s1.pu 0) && okB (engineUnit c h0 .expand (continues h0 (answerUnit { sExp with belLast := spSet 4 sExp.belLast 0 0 } 0 0)) sp s1) (fun v s3 => decide (v = 0) &&
          okB (sourceSpan c r.1 (min r.1.len 16) s3) (fun src s4 =>
            (match readHeader (partBytes s4 0 src.2) with
            | some hd => decide (hd.ilen = 1) && decide (classSize hd.cls = 1024) && okB (sourceSpan c r.1 1024 s4) (fun src2 s5 =>
                exB (expandBlock hd (partBytes s5 0 src2.2)) (fun x => decide (x.1 = [1]) &&
                  okB (targetSpan c d.1 1 (expTag hd.kt x.2) s5) (fun dst _ => decide (dst.2.length = 1))))
            | none => false))))))) = true := by
  decide +kernel

theorem test_bellows_expands : nextB (exec (.bellowsUnit 0 .agree false false) sExp) (fun t =>
    decide (memGet t 0x800 = ⟨0x0122222222222222, tagBytes⟩ ∧ memGet t 0x801 = memGet sExp 0x801 ∧
      pswIA (t.pu 0).psw = 0x103 ∧ (t.pu 0).reg 5 = intWord 0xC000000000000000 ∧ (t.pu 0).reg 3 = intWord 0xC00000000000FFFF)) = true := by decide +kernel
/-! ### Mute -/

/-- The Mute engine of PU 0's cluster free, or held by a PU (MUTSTAT). -/
def stMut (w : Word) : State :=
  { st (puG []) [] with regs := [(0x0100200000, 0x8100000000000001), (0x0100200008, 0x8000000000000001), (0x0100404000, w), (0x0100800000, 0x1000000000000000)] }

def opMlock : OpInfo := { opLen := 1, slots := [(.R, .wr)], o := false, a := false, n := false, pl := 3, t4 := false }

def opMfree : OpInfo := { opLen := 1, slots := [], o := false, a := false, n := false, pl := 3, t4 := false }

/-- Fenced; free; held by this PU; held by PU 2. -/
theorem test_mlock : [((0x803F000000000000 : Word), (2 : Nat), (0xFFFFFFFFFFFFFFFF : Word), (3 : Nat)), (0x003F000000000000, 0, 0, 0), (0x4000000000000000, 1, 0, 1),
      (0x4002000000000000, 1, 2, 2)].all (fun (w, m, v, cc) =>
    starts h0 opMlock [.reg 1] (stMut w) (fun c s1 => unlatched s1 0 && decide (mutState s1 0 = m) && (mutDown s1 0 == decide (cc = 3)) &&
      is (exec (.mlock h0 (.reg 1)) (stMut w)) (completed c opMlock [.reg 1] (requested (if cc = 0 then setMut s1 0 1 0 else s1) 0 .mlock 0 [intWord v, intWord (BitVec.ofNat 64 cc)]) (s1.pu 0).mb
        (fun p => (p.setReg 1 (intWord v)).setCC cc)))) = true := by decide +kernel

theorem test_mfree : [((0x4000000000000000 : Word), (0 : Nat)), (0x4002000000000000, 1), (0x003F000000000000, 1)].all (fun (w, cc) =>
    starts h0 opMfree [] (stMut w) (fun c s1 => unlatched s1 0 &&
      is (exec (.mfree h0) (stMut w)) (completed c opMfree [] (requested (if cc = 0 then setMut s1 0 0 0x3F else s1) 0 .mfree 0 [intWord (BitVec.ofNat 64 cc)]) (s1.pu 0).mb (fun p => p.setCC cc)))) = true := by
  decide +kernel

/-- A parameter block at 0x5000, its words all 0: AES-256-GCM, slot 0, a new operation. 16 bytes from 0x1000 to 0x4000. -/
def blockMem0 (c : Word) : Sparse TWord := (0xA00, intWord c) :: (List.range 15).map (fun i => (0xA01 + i, intWord 0))

def gMut : List (Nat × TWord) := [(2, intWord 0x4000), (3, intWord 0xC000000000000010), (4, intWord 0x1000), (5, intWord 0xC000000000000010)]

def sMut (w : Word) (p : Pu) : State :=
  { stMut w with mem := [(0x200, ⟨0x0011223344556677, tagBytes⟩), (0x201, ⟨0x8899AABBCCDDEEFF, tagBytes⟩)] ++ blockMem0 0, pus := [(0, p)],
                 slotKeys := [(0, { key := 7, alg := 0 })] }

def spMut : List Spec := [.reg 2, .reg 4, at6 0x5000]

theorem test_mseal_mopen : [(Instr.mseal h0 (.reg 2) (.reg 4) (at6 0x5000), false), (.mopen h0 (.reg 2) (.reg 4) (at6 0x5000), true)].all (fun (j, o) =>
    [((0x803F000000000000 : Word), (0 : Nat)), (0x4002000000000000, 1), (0x4000000000000000, 2)].all (fun (w, k) => let s := sMut w (puG gMut)
      starts h0 opMute spMut s (fun c s1 =>
        okB (pairOp c 1 (.reg 2) s1) (fun d _ => okB (pairOp c 2 (.reg 4) s1) (fun r _ => okB (specAddr c (place opMute spMut 3) (at6 0x5000) s1) (fun x s2 =>
          okB (readBlock c 3 x.1 x.2 s2) (fun b s3 => okB (readWrap c b (!continues h0 s) s3) (fun _ s4 => lenOk d.2 && lenOk r.2 && ctlOk b o &&
            decide (r.1.len ≤ d.1.len) && (mutDown s4 0 == decide (k = 0)) && (holdsMute s4 0 == decide (k = 2)) && !storesPending (s4.pu 0) && unlatched s4 0 &&
            is (exec j s) (match k with
              | 0 => ended s4 0 (afterUnit c true 3 id)
              | 1 => ended s4 0 (afterUnit c true 2 id)
              | _ => posted s4 0 (if o then .opening else .sealing) (continues h0 s) [] spMut c.len)))))))))= true := by decide +kernel

/-- Every hypothesis of a payload unit, for MSEAL and for MOPEN; what it writes holds the opaque CHK. -/
theorem test_mute_unit : [false, true].all (fun o =>
    let kind : UnitKind := if o then .opening else .sealing
    let s := sMut 0x4000000000000000 { puG gMut with latch := [{ kind := .engine, addr := 0, resp := none }], job := some ⟨kind, false, [], spMut⟩ }
    decide ((clusterPus 0).find? (fun n => waitsFor s n.val .sealing .opening) = some 0) && !continues h0 s &&
    serves h0 opMute spMut (answerUnit s 0 0) (fun c s1 =>
      okB (pairOp c 1 (.reg 2) s1) (fun d _ => okB (pairOp c 2 (.reg 4) s1) (fun r _ => okB (specAddr c (place opMute spMut 3) (at6 0x5000) s1) (fun x s2 =>
        okB (readBlock c 3 x.1 x.2 s2) (fun b s3 => okB (readWrap c b true s3) (fun wr s4 => lenOk d.2 && lenOk r.2 && ctlOk b o && decide (r.1.len ≤ d.1.len) &&
          !mutDown s4 0 && holdsMute s4 0 && !storesPending (s4.pu 0) && okB (engineUnit c h0 kind (continues h0 s) spMut s4) (fun v s5 => decide (v = 0) &&
            okB (slotChecks c b wr true true s5) (fun key s6 => decide (key = { key := 7, alg := 0 }) && stateOk s6 0 b o (some d.1) && lengthOk b r.1.len &&
              okB (openBlock c b o (if o then d.1.bank * 2 ^ 61 + d.1.off % 2 ^ 33 else 0) s6) (fun ws s7 => decide (ctlPhase (blk ws 0) ≠ 2) && decide (bits (blk ws 2) 32 0 = 0) &&
                okB (sourceSpan c r.1 16 s7) (fun _ s8 => okB ((if o then sealedSpan c d.1 16 else targetSpan c d.1 16 (fun _ _ => tagBytes)) s8) (fun dst _ =>
                  decide (min r.1.len (min (toBoundary (d.1.va s7 0)) (toBoundary (r.1.va s7 0))) = 16) && decide (dst.2.length = 2))))))))))))) = true := by
  decide +kernel

/-- FIPS 197, C.3. -/
theorem test_aes : aesEncrypt (roundKeys 0x000102030405060708090A0B0C0D0E0F101112131415161718191A1B1C1D1E1F) (bytesBE 16 0x00112233445566778899AABBCCDDEEFF) =
    bytesBE 16 0x8EA2B7CA516745BFEAFC49904B496089 := by decide +kernel

/-- RFC 3720, B.4: 32 bytes of zeros. -/
theorem test_crc32c : crc32c (List.replicate 32 0) = 0x8A9136AA := by decide +kernel
/-! ### Custom instructions, I/O instructions, exceptions -/

/-- A custom instruction of one slot, allowed at PL 3: read the slot, add 5, write it back, CC 2, END (R150). -/
def image : OpenImage :=
  { binds := [(0, 0xA003000000000000)],
    words := [(0, 0x6080002000), (1, 0x1084010005), (2, 0x6404002000), (3, 0xA000010002), (4, 0x0400000000)] }

def sCus : State := { st { puG [(1, intWord 37)] with ctl := [(8, 1)] } [] with images := [(0, image)] }

theorem test_custom : (decide (binding sCus 0 0 = some (image, 0xA003000000000000)) && ready sCus 0 &&
    okB (decodeCustom h0 (some (image, 0xA003000000000000)) [.reg 1] (atStart sCus 0)) (fun c s1 =>
      let e := uPlan s1 0 (Micro.start ⟨[], [], []⟩) 8
        { c := { c with relax := false }, slots := [.reg 1], img := image, relax := c.relax,
          irq := (dueAsync (atStart sCus 0) 0).isSome || (dueMc ((atStart sCus 0).pu 0)).isSome, plan := ⟨[], []⟩ }
      decide (c.relax = false) && okB (uRun e 16385 0 (Micro.start ⟨[], [], []⟩) s1) (fun m s2 =>
        decide (m.stores = []) && decide (s2 = s1) && decide (m.cc = some 2))) &&
    nextB (exec (.customInstruction h0 0 [.reg 1] ⟨[], [], []⟩) sCus) (fun t => decide ((t.pu 0).reg 1 = intWord 42 ∧ pswCC (t.pu 0).psw = 2 ∧ pswIA (t.pu 0).psw = 0x103))) = true := by
  decide +kernel

/-- IOQ 0 of partition 0 with one operational path; a start block at 0x1000. -/
def sIo : State :=
  { st (puG []) [(0x200, intWord 7), (0x201, intWord 0), (0x202, intWord 0), (0x203, intWord 0x2000)] with
    regs := [(0x0100200000, 0x8100000000000001), (0x0100200008, 0x8000000000000001), (0x0100800000, 0x1000000000000000),
             (0x0201000008, 0x4000000000000000), (0x0201100000, 0x8000000000000000), (0x0201300000, 0x8000000000000000)]
    pairs := [(0, { noPair with oper := true })] }

/-- What an I/O request leaves: one more of its shutter, and its answer kept for a retake. -/
def counted (r : State × List Nat) : State :=
  requested (r.1.modPu 0 (fun p => { p with chanCnt := p.chanCnt + 1 })) 0 .io 0 (r.2.map (fun n => intWord (BitVec.ofNat 64 n)))

def clearB (s : State) : Bool := !storesWaiting (s.pu 0) && !strictPending (s.pu 0).mb && unlatched s 0 && decide ((s.pu 0).chanCnt < 8)

theorem test_iostart : (let sp : List Spec := [im2 0, at6 0x1000, .reg 1]
    starts h0 opIostart sp sIo (fun c s1 => okB (source c (place opIostart sp 1) 8 tagsInt (im2 0) s1) (fun d s2 =>
      okB (longOperand c (place opIostart sp 2) 4 32 (at6 0x1000) s2) (fun ms s3 => okB (readPair c tagsInt ms s3) (fun rd s4 => decide (d = intWord 0) && clearB s4 &&
        decide (rd = [intWord 7, intWord 0, intWord 0, intWord 0x2000]) &&
        (let r := ioStart 0 0 0 0x1000 [7, 0, 0, 0x2000] s4
        decide (r.2.headD 3 = 0) && decide (r.1.ring = [(0, 0)]) &&
        is (exec (.iostart h0 (im2 0) (at6 0x1000) (.reg 1)) sIo) (completed c opIostart sp (counted r) (s4.pu 0).mb
          (fun p => (p.setReg 1 (intWord (BitVec.ofNat 64 (r.2.getD 1 0)))).setCC 0)))))))) = true := by decide +kernel

theorem test_iohalt_ioclear : [(Instr.iohalt h0 (im2 0), true), (.ioclear h0 (im2 0), false)].all (fun (j, b) =>
    starts h0 opIo1 [im2 0] sIo (fun c s1 => okB (source c (place opIo1 [im2 0] 1) 8 tagsInt (im2 0) s1) (fun _ s2 => clearB s2 &&
      (let r := if b then ioHalt 0 0 s2 else ioClear 0 0 s2
      is (exec j sIo) (completed c opIo1 [im2 0] (counted r) (s2.pu 0).mb (fun p => p.setCC (r.2.headD 3))))))) = true := by
  decide +kernel

theorem test_iotest_iosense : [(Instr.iotest h0 (im2 0) (at6 0x2000), true, 4), (.iosense h0 (im2 0) (at6 0x2000), false, 8)].all (fun (j, b, n) =>
    let s := { sIo with stats := [{ id := 1, ioq := 0, xid := 0, ending := true, words := [1, 2, 3, 4] }], sense := [(0, List.replicate 8 9)] }
    starts h0 opIo2 [im2 0, at6 0x2000] s (fun c s1 => okB (source c (place opIo2 [im2 0, at6 0x2000] 1) 8 tagsInt (im2 0) s1) (fun _ s2 =>
      okB (longOperand c (place opIo2 [im2 0, at6 0x2000] 2) n 1 (at6 0x2000) s2) (fun ms s3 => clearB s3 && decide ((ms.head?.map (·.va)).getD 0 % (8 * n) = 0) &&
        (ms.take 1).all (fun m => okB (checkPolicy c m tagInt s3) (fun _ s4 => decide (s4 = s3))) && ((s3.pu 0).push (ms.map (fun m => storeOf s3 0 m (intWord 0)))).isSome &&
        (let r := if b then ioTest 0 0 s3 else ioSense 0 0 s3
        match (s3.pu 0).push ((ms.zip (r.2.tail.map (BitVec.ofNat 64))).map (fun x => storeOf s3 0 x.1 (intWord x.2))) with
        | some m => is (exec j s) (completed c opIo2 [im2 0, at6 0x2000] (counted r) m (fun p => p.setCC 0))
        | none => false))))) = true := by decide +kernel

theorem test_io_absent : ioStart 0 1 0 0 [] sIo = (sIo, [3, 0]) ∧ ioHalt 1 0 sIo = (sIo, [3]) ∧ ioClear 1 0 sIo = (sIo, [3]) ∧
    ioTest 1 0 sIo = (sIo, [3]) ∧ ioSense 1 0 sIo = (sIo, [3]) := by decide +kernel

/-- PU 0 in partition 1 at PL 3, its zone the first GiB, with a valid new PSW of class 1. -/
def sUser : State :=
  { st { puG [] with psw := (3 : BitVec 128) <<< 123 ||| (1 : BitVec 128) <<< 118 ||| 0x100, pfxArea := 0x10000 }
      [(0x202A, intWord 0x0840000000000000), (0x202B, intWord 0x3000)] with
    regs := [(0x21100, 0x8000000000000000), (0x21108, 0x0000000040000000), (0x0100200000, 0x8100000000000001), (0x0100200008, 0x8000000000000001),
             (0x0100800000, 0x1000000000000000), (0x0100800050, 1)] }

theorem test_unassigned : [((0x0B : BitVec 8), (1 : Nat)), (0xF0, 2)].all (fun (b, k) =>
    !isPrefix b.toNat && (if k = 1 then !assigned1 b.toNat else !assigned2 0xBF) && ready sUser 0 &&
    okB (checkPfx (encCtx sUser 0) 0 [] [] (atStart sUser 0)) (fun _ s1 => okB (fetchBytes (encCtx sUser 0) 0 k s1) (fun _ s2 =>
      (match trapped s2 0 { cls := 1, code := 0x0001, fail := BitVec.ofNat 64 (0x100 + k - 1), ia := 0x100, ilen := 0, slot := 0, unit := 0, acc := 6, param := 0 } with
      | some v => is (exec (.unassignedOpcode h0 b 0xBF) sUser) v && decide (pswIA (v.pu 0).psw = 0x3000)
      | none => false)))) = true := by decide +kernel

theorem test_privileged : [(Instr.tbpurge h0, opSys 2 [] false 2 true, ([] : List Spec)), (.pfxwr h0 (im2 0), opSys 2 [(.S, .rd)] true 1 true, [im2 0]),
      (.iohalt h0 (im2 0), opIo1, [im2 0]), (.sigpuSense h0 (im2 0) (im2 0), opSigpu, [im2 0, im2 0]), (.tagset h0 (.reg 1) (im2 0), opTagset, [.reg 1, im2 0])].all (fun (j, i, sp) =>
    okB (decodeM h0 i sp (atStart sUser 0)) (fun c s1 => decide (i.pl < 3) && (match trapped s1 0
        { cls := 1, code := 0x0002, fail := 0x100, ia := 0x100, ilen := c.len, slot := 0, unit := 0, acc := 6, param := 0 } with
      | some v => is (exec j sUser) v && decide ((v.pu 0).psw = (0x0840000000000000 : BitVec 64) ++ (0x3000 : BitVec 64)) && decide ((v.pu 0).busy = 2)
      | none => false))) = true := by decide +kernel

/-! ### Interruption entry and lockup -/

/-- An external call of PU 5 is pending and enabled: class 3, new PSW at 0x101D0. -/
def sXcall (busy : BitVec 6) : State :=
  st { puG [] with xcall := some 5, busy := busy, ctl := [(0, 2)], pfxArea := 0x10000, psw := (1 : BitVec 128) <<< 111 ||| 0x100 }
    [(0x203A, intWord 0), (0x203B, intWord 0x3000)]

/-- What the entry stores, but for the busy mask. -/
def callStores (s : State) : List Store :=
  [intStore 0x101C0 0, intStore 0x101C8 0x100, intStore 0x101E0 0x11001, intStore 0x101E8 0, intStore 0x101F0 5, wordStore 0x101F8 (intWord (todMid s))]

theorem test_entry_hypotheses : (let s := sXcall 0
    let u := leaveUnit s 0
    canRun s 0 && atBoundary (s.pu 0) && decide (dueEntry s 0 false = some (.xcall 5)) && decide ((s.pu 0).due = .none) &&
    decide ((entryExc u 0 (.xcall 5)).cls = 3) && !(s.pu 0).isBusy 3 && areaOk s 0 0x101C0 && mayRead u 0 (0x101C0 / 64) &&
    decide (areaBase s 0 = 0x10000) && ((u.pu 0).push (callStores s)).isSome && ((u.pu 0).push (callStores s ++ [intStore 0x10000 8])).isSome &&
    (match (u.pu 0).push (callStores s) with
      | some b => let view := u.modPu 0 (fun p => { p with mb := b })
        decide (puView view 0 0x203A = intWord 0) && decide (puView view 0 0x203B = intWord 0x3000)
      | none => false) &&
    pswValid ((0 : BitVec 64) ++ (0x3000 : BitVec 64)) 0 && !puLocked s 0) = true := by decide +kernel

theorem test_entry : nextB (exec (.interruptionEntry ⟨0, .agree⟩) (sXcall 0)) (fun t => decide ((t.pu 0).psw = 0x3000 ∧ (t.pu 0).busy = 8) &&
      decide (dueEntry t 0 false = none) && decide (puView t 0 0x2039 = intWord 0x100) && decide (puView t 0 0x203C = intWord 0x11001) &&
      decide (puView t 0 0x203E = intWord 5) && decide (t.mem = (sXcall 0).mem)) = true := by
  decide +kernel

theorem test_lockup : (match enter (sXcall 8) 0 { cls := 3, code := 0x1001, fail := 0, ia := 0x100, ilen := 0, slot := 0, unit := 0, acc := 0, param := 5 } false true with
    | some t => puLocked t 0 && decide (ccsFld t (puReg 0 0xE00) 55 48 = 1 ∧ ccsFld t (puReg 0 0xE00) 42 40 = 3 ∧ ccsFld t (puReg 0 0xE00) 31 16 = 0x1001 ∧
        ccsGet t (puReg 0 0xE08) = 0x100 ∧ ccsFld t 0x0203001018 1 1 = 1) &&
      nextB (exec (.pulockClear 0) t) (fun u => !puLocked u 0 && decide (puState u 0 = 2 ∧ (u.pu 0).busy = 0))
    | none => false) = true := by decide +kernel
/-! ### Triads -/

/-- A state with registers of complex control space written. -/
def reg (s : State) (r : List (Nat × Word)) : State := r.foldl (fun s e => ccsPut s e.1 e.2) s

def pu0 (s : State) (f : Pu → Pu) : State := s.modPu 0 f

/-- PU 0 formed of cores 0, 1 and 2, all stand-ins free. -/
def sTri : State := reg (st (puG [(1, intWord 9)]) []) [(0x0100800008, 0x8081820F00000000)]

/-- The same PU duplex. -/
def sDup : State := reg sTri [(0x0100800000, 0x1400000000000000), (0x0100800008, 0x8081000F00000000)]

theorem test_missing_bundle : (canRun sTri 0 && votes sTri 0 .trail2 && decide (puMode sTri 0 ≠ 2) && fullTriad sTri 0 && decide ((sTri.pu 0).due = .none) &&
    nextB (exec (.missingBundle 0 .trail2) sTri) (fun t => quietB sTri t && decide ((t.pu 0).masked = some .trail2 ∧ (t.pu 0).resync = some (.dissent .trail2 1 false)))) = true ∧
    (canRun sDup 0 && votes sDup 0 .trail2 && decide (puMode sDup 0 = 1) &&
    nextB (exec (.missingBundle 0 .trail2) sDup) (fun t => quietB sDup t && decide ((t.pu 0).due = .retake 1 false false (nextSeq sDup 0) false))) = true ∧
    (let s := pu0 sDup (fun p => { p with dupTimes := [0, 0] })
    nextB (exec (.missingBundle 0 .trail2) s) (fun t => quietB s t && decide (puState t 0 = 3))) = true ∧
    (let s := pu0 sTri (fun p => { p with resync := some (.dissent .lead 1 false), latch := [{ kind := .deviceRead, addr := 0, resp := some [] }] })
    canRun s 0 && votes s 0 .trail2 && !fullTriad s 0 && nextB (exec (.missingBundle 0 .trail2) s) (fun t => quietB s t && decide ((t.pu 0).due = .retake 1 false false 0 false))) = true := by
  decide +kernel

/-- DISSTRK of TRAIL2 with no dissent; with one of shutter 0 after 2^20 shutters and one fewer; with two, the earlier of shutter 0
or 1, the later recent. -/
theorem test_dissent_expiry : [((0x0400000000000000 : Word), (0x100000 : Word), (0 : Nat)), (0x0500000000000000, 0x100000, 0), (0x0500000000000000, 0xFFFFF, 1),
      (0x06000000000FFFFF, 0x100000, 1), (0x06000000010FFFFF, 0x100000, 2)].all (fun (d, c, n) =>
    let s := reg sTri [(0x0100800018, d), (0x50000, c <<< 11)]
    nextB (exec (.dissentWindowExpiry 0 .trail2) s) (fun t => quietB s t && decide (ccsFld t (dissReg 0 .trail2) 57 56 = n))) = true := by decide +kernel

theorem test_resync : (let s := pu0 sTri (fun p => { p with resync := some (.dissent .trail2 1 true) })
    !puLocked s 0 && steady (s.pu 0) && !noVoter s 0 && decide (freeStandIns s 0 = [30, 31, 32, 33]) &&
    nextB (exec (.resync 0 5 .pass .none) s) (fun t => quietB s t && decide ((t.pu 0).resync = none ∧ (t.pu 0).due = .none ∧ ccsFld t (puReg 0 0) 47 32 = 5) &&
      !roleFilled t 0 .trail2 && decide (puMode t 0 = 1 ∧ (t.pu 0).standIn = some ⟨.trail2, 30, 0⟩))) = true := by decide +kernel

theorem test_retake : (let s := pu0 sDup (fun p => { p with due := .retake 1 false false 4 false })
    calm s 0 && !noVoter s 0 && decide (puState s 0 = 1) &&
    nextB (exec (.retake 0 7 .pass .none none) s) (fun t => quietB s t && decide ((t.pu 0).due = .retaken 1 false 4 false ∧ (t.pu 0).resync = none ∧ ccsFld t (puReg 0 0) 47 32 = 7 ∧
      ccsFld t (puReg 0 0x28) 47 32 = 1))) = true := by decide +kernel

theorem test_stand_in :
    (let s := pu0 sDup (fun p => { p with standIn := some ⟨.trail4, 30, 0⟩ })
    nextB (exec (.standinSelftestDone 0 true) s) (fun t => quietB s t && decide ((t.pu 0).standIn = some ⟨.trail4, 30, 1⟩)) &&
    nextB (exec (.standinSelftestDone 0 false) s) (fun t => quietB s t && !bit (sifree t 0) 0)) = true ∧
    (let s := pu0 sDup (fun p => { p with standIn := some ⟨.trail4, 30, 1⟩ })
    !s.loader.any (fun j => j.part == puPart s 0) && nextB (exec (.standinCopyDone 0) s) (fun t => quietB s t && decide ((t.pu 0).standIn = some ⟨.trail4, 30, 2⟩))) = true ∧
    (let s := pu0 sDup (fun p => { p with standIn := some ⟨.trail4, 30, 2⟩ })
    calm s 0 && steady (s.pu 0) && !noVoter s 0 && nextB (exec (.standinInsertion 0 9 .pass .none) s) (fun t => quietB s t && decide ((t.pu 0).standIn = none) &&
      roleFilled t 0 .trail4 && decide (roleCore t 0 .trail4 = 30 ∧ ccsFld t (puReg 0 0) 47 32 = 9))) = true := by decide +kernel

/-- PU 0 CHECKSTOP, PU 1 SPARE. -/
def sChk : State := reg sTri [(0x0100800000, 0x3000000000000000)]

theorem test_moveslate : moveTargetOk sChk 0 1 = true ∧
    nextB (exec (.moveslate 0 1) sChk) (fun t => quietB sChk t && decide (ccsFld t (pucmdst 0) 63 63 = 1 ∧ (t.pu 0).puJob = some (.move 1))) = true ∧
    nextB (exec (.moveslate 0 1) sTri) (fun t => quietB sTri t && decide (ccsFld t (pucmdst 0) 63 63 = 0 ∧ ccsFld t (pucmdst 0) 55 48 = 3)) = true ∧
    (let s := pu0 (reg sChk [(0x0100800048, 0x8000000000000000)]) (fun p => { p with puJob := some (.move 1) })
    nextB (exec (.moveslateComplete 0) s) (fun t => decide ((t.pu 1).arch = (s.pu 0).arch ∧ puState t 1 = 1 ∧ puState t 0 = 4 ∧
      ccsFld t (pucmdst 0) 63 63 = 0 ∧ ccsFld t (pucmdst 0) 55 48 = 1))) = true := by decide +kernel

theorem test_pairtest : (let s := reg sTri [(0x0100800000, 0x4000000000000000)]
    nextB (exec (.pairtest 0 false) s) (fun t => quietB s t && decide (puState t 0 = 5 ∧ (t.pu 0).puJob = some .test))) = true ∧
    (let s := pu0 (reg sTri [(0x0100800000, 0x5000000000000000), (0x0100800048, 0x8000000000000000)]) (fun p => { p with puJob := some .test })
    nextB (exec (.pairtestComplete 0 6) s) (fun t => decide (puState t 0 = 0 ∧ ccsFld t (pucmdst 0) 55 48 = 1)) &&
    nextB (exec (.pairtestComplete 0 1) s) (fun t => decide (puState t 0 = 4))) = true := by decide +kernel

/-! ### Merging buffer, L2, scrub, delayed registers -/

def entry0 : MbEntry := { device := false, strict := false, line := 0x1000, vline := 0x1000, len := 64, words := [(1, ⟨0xFF, 0x77, some tagInt⟩)], phase := .waiting, part := 0 }

theorem test_perform : (let s := pu0 sTri (fun p => { p with mb := [entry0] })
    !dieFenced s 0 && decide (nextEntry (s.pu 0).mb = some entry0) && mayPerform s 0 0x40 && spSorted entry0.words && decide ((s.pu 0).unitHold = []) &&
    entry0.words.all (fun x => (applyWrite? (memGet (takeLine s 0 0x40) (0x200 + x.1)) x.2).isSome) &&
    nextB (exec (.mergingBufferPerform 0 0) s) (fun t => decide ((t.pu 0).mb = [] ∧ memGet t 0x201 = intWord 0x77 ∧ memGet t 0x200 = memGet s 0x200))) = true := by
  decide +kernel

theorem test_device_timeouts : (let s := pu0 sTri (fun p => { p with mb := [{ entry0 with device := true, phase := .sent 0 }] })
    nextB (exec (.deviceStoreTimeout 0) s) (fun t => quietB s t && (t.pu 0).mb.any (fun x => decide (x.phase = .lost 0x0050)))) = true ∧
    (let s := pu0 sTri (fun p => { p with devLoad := some { abs := 0x5000, va := 0x6000, len := 8, ilen := 3, slot := 2, unit := 0, ticks := 0, sent := true } })
    calm s 0 && nextB (exec (.deviceLoadTimeout 0) s) (fun t => decide ((t.pu 0).devLoad = none ∧ (t.pu 0).latch = []))) = true := by decide +kernel

theorem test_l2_lock : (let s := reg sTri [(0x0100801008, 0x00FF)]
    l2On s 0 && nextB (exec (.lock 0) s) (fun t => quietB s t && decide (lockedWays t 0 = 0xFF ∧ ccsFld t (l2Reg 0 0x28) 55 48 = 1))) = true ∧
    (let s := reg sTri [(0x0100801008, 0x01231FFF)]
    nextB (exec (.lock 0) s) (fun t => quietB s t && decide (lockedWays t 0 = 0x0123 ∧ ccsFld t (l2Reg 0 0x28) 55 48 = 4))) = true ∧
    (let s := pu0 (reg sTri [(0x0100801008, 0x012300FF)]) (fun p => { p with l2resv := [(1, 2)] })
    nextB (exec (.unlock 0) s) (fun t => quietB s t && decide (lockedWays t 0 = 0 ∧ (t.pu 0).l2resv = [] ∧ ccsFld t (l2Reg 0 0x28) 55 48 = 1))) = true := by decide +kernel

theorem test_l2_run : [(Instr.preload 0, 1), (.rangeinv 0, 4)].all (fun (j, c) => let s := reg sTri [(0x0100801018, 0x1000), (0x0100801020, 2)]
    nextB (exec j s) (fun t => quietB s t && decide (ccsFld t (l2Reg 0 0x28) 63 63 = 1 ∧ (t.pu 0).l2cmd = some (c, 0x40, 2)))) = true ∧
    [1, 4].all (fun c => let s := pu0 (reg sTri [(0x0100801028, 0x8000000000000000)]) (fun p => { p with l2cmd := some (c, 0x40, 2), l2 := [⟨0x41, 0, .E⟩, ⟨0x42, 1, .S⟩] })
    installed s 0x1000 && installed s 0x1040 && (preloadRun 0 (plWays s 0) 2 0x40 [] 0 s).isSome && nextB (exec (.l2CommandComplete 0) s) (fun t => quietB s t && decide (ccsFld t (l2Reg 0 0x28) 63 63 = 0 ∧ ccsFld t (l2Reg 0 0x28) 55 48 = 1) &&
      (c == 1 || decide ((t.pu 0).l2 = [⟨0x42, 1, .S⟩])))) = true := by decide +kernel

theorem test_l2_drain : nextB (exec (.l2Drain 0) sTri) (fun t => quietB sTri t && decide (ccsFld t (l2Reg 0 0) 63 62 = 1 ∧ ccsFld t (l2Reg 0 0) 0 0 = 0)) = true ∧
    (let s := pu0 (reg sTri [(0x0100801000, 0x4000000000000000)]) (fun p => { p with l2 := [⟨0x41, 0, .E⟩] })
    nextB (exec (.l2DrainComplete 0) s) (fun t => quietB s t && decide (ccsFld t (l2Reg 0 0) 63 62 = 2 ∧ (t.pu 0).l2 = [] ∧ lockedWays t 0 = 0))) = true ∧
    (let s := reg sTri [(0x0100801000, 0x8000000000000000)]
    nextB (exec (.l2Enable 0) s) (fun t => quietB s t && decide (ccsFld t (l2Reg 0 0) 63 62 = 0 ∧ ccsFld t (l2Reg 0 0) 0 0 = 1))) = true := by decide +kernel

theorem test_scrub : (let s := reg sTri [(0x0100200010, 1)]
    decide (homeOf s 0x1000 = some 0) && is (exec (.patrolScrubRead 0 0 0x40 .clean) s) s &&
    nextB (exec (.patrolScrubRead 0 0 0x40 .corrected) s) (fun t => quietB s t && decide (ccsFld t 0x0100200100 15 0 = 1)) &&
    nextB (exec (.patrolScrubRead 0 0 0x40 .lost) s) (fun t => decide (ccsFld t 0x0100200100 31 16 = 1 ∧ ccsGet t 0x0100200108 = 0x1000 ∧
      memGet t 0x207 = poisonWord ∧ memGet t 0x208 = memGet s 0x208)) &&
    nextB (exec (.patrolScrubRead 0 0 0x40 (.miscorrected (List.replicate 8 (intWord 9)))) s) (fun t => decide (ccsFld t 0x0100200100 15 0 = 1 ∧ memGet t 0x207 = intWord 9)) &&
    (let u := { s with dir := [(0x40, ⟨.X, 1, 2, 0, false⟩)] }
    nextB (exec (.patrolScrubRead 0 0 0x40 .lost) u) (fun t => decide (t.mem = u.mem ∧ (0x207, poisonWord) ∈ t.dram)))) = true := by decide +kernel

/-- A zone register of partition 1, the device region of partition 1 and die 0's MEMMAP wait for their tick, or are at it. -/
theorem test_delayed : [(Instr.zoneEffect, 0x21100), (.deviceRegionEffect, 0x21400), (.memmapEffect, 0x0100200000)].all (fun (j, a) => [(0 : Nat), 1].all (fun k =>
    let s := { reg sTri [(a, 0x8100000000000002)] with pend := [{ addr := a, was := 0x8100000000000001, ticks := k }] }
    (regAt a).isSome && nextB (exec j s) (fun t => quietB s t && decide (inForce t a = if k = 0 then 0x8100000000000002 else 0x8100000000000001)))) = true := by decide +kernel

theorem test_register_write :
    is (exec (.registerWrite 0x30 5) sTri) sTri = true ∧
    nextB (exec (.registerWrite 0x0100800028 0x1234) sTri) (fun t => quietB sTri t && decide (ccsGet t 0x0100800028 = 0x1234)) = true ∧
    nextB (exec (.registerWrite 0 0x1234) sTri) (fun t => quietB sTri t && decide (ccsGet t 0 = 0xB1C75E2781004100)) = true ∧
    (let s := reg sTri [(0x0100800000, 0x1100000000000000)]
    nextB (exec (.registerWrite 0x0100800000 0x0100000000000000) s) (fun t => quietB s t && decide (ccsGet t 0x0100800000 = 0x1000000000000000))) = true ∧
    nextB (exec (.registerWrite 0x21100 0x800000FF00100001) sTri) (fun t => quietB sTri t && decide (ccsGet t 0x21100 = 0x800000FF00100000 ∧ inForce t 0x21100 = 0)) = true := by
  decide +kernel
/-! ### Coherence -/

/-- An owned and a shared entry of line 0x40, and an entry of node 6. -/
def dirE (st : DirSt) (o v : Nat) : Sparse DirEnt := [(0x40, ⟨st, o, v, 0, false⟩)]

def pu1 : Requester := .pu 0

theorem test_requests_idle : (let s := sTri
    decide (s.atNode = [] ∧ s.homeQ = [] ∧ s.txns = [] ∧ s.cmps = [] ∧ homeOf s 0x1000 = some 0) && !dieFenced s 0 && !nodeFailed s 0 && decide (dirFind s 0x40 = none) &&
    decide ((setEntries s 0x40).length < 16) && l2On s 0 && !dieHolds s 0 0x40 &&
    [(Instr.rds pu1 0x40 ⟨fine, .none⟩, HomeOp.rds, Moesi.E), (.rdx pu1 0x40 fine, .rdx, .M)].all (fun (j, op, g) =>
      nextB (exec j s) (fun t => quietB s t && (match dirFind t 0x40 with | some e => decide (e.st = .X ∧ e.owner = 0 ∧ e.vec = 1) | none => false) &&
        decide (t.cmps = [{ op := op, who := pu1, line := 0x40, txn := 0, grant := g, needs := true, ans := [], alone := true, refused := false, part := 0 }]))) &&
    nextB (exec (.rdnc pu1 ⟨0x40, fine⟩) s) (fun t => quietB s t && decide (dirFind t 0x40 = none ∧ t.txns = []) && t.cmps.all (fun c => decide (c.op = .rdnc ∧ c.grant = .I)))) = true := by
  decide +kernel

theorem test_wrnc : nextB (exec (.wrnc pu1 ⟨0x40, fine⟩ [⟨0xFF, intWord 5⟩, ⟨0, intWord 6⟩] none 0) sTri) (fun t =>
    decide (memGet t 0x200 = intWord 5 ∧ memGet t 0x201 = memGet sTri 0x201 ∧ memGet t 0x208 = memGet sTri 0x208 ∧ dirFind t 0x40 = none ∧ t.txns = [])) = true := by decide +kernel

theorem test_requests_shared : (let s := { sTri with dir := dirE .S 1 2 }
    l2On s 0 && !dieHolds s 0 0x40 && nextB (exec (.rds pu1 0x40 ⟨fine, .none⟩) s) (fun t => quietB s t &&
      (match dirFind t 0x40 with | some e => decide (e.st = .S ∧ e.vec = 3) | none => false) && t.cmps.all (fun c => decide (c.grant = .S)))) = true ∧
    (let s := pu0 { sTri with dir := dirE .S 0 1 } (fun p => { p with l2 := [⟨0x40, 0, .S⟩] })
    decide (l2StateOf s pu1 0x40 = some .S) && nextB (exec (.upg pu1 ⟨0x40, fine⟩) s) (fun t => quietB s t &&
      (match dirFind t 0x40 with | some e => decide (e.st = .X ∧ e.owner = 0 ∧ e.vec = 1) | none => false) && t.cmps.all (fun c => decide (c.op = .upg ∧ c.needs = false)))) = true := by
  decide +kernel

theorem test_requests_owned : (let s := { sTri with dir := dirE .X 1 2 }
    !nodeFailed s 1 && nextB (exec (.rds pu1 0x40 ⟨fine, .none⟩) s) (fun t => quietB s t && decide (t.cmps = [] ∧ dirFind t 0x40 = some ⟨.X, 1, 2, 0, false⟩) &&
      t.txns.all (fun u => decide (u.snoops = [{ node := 1, kind := .snps, ticks := 0, ans := none, txn := 0 }] ∧ u.src = some 1)) && decide (t.txns.length = 1))) = true := by decide +kernel

/-- A transaction of PU 0 with one snoop of die 1. -/
def txn (kind : SnoopKind) (ans : Option (Bool × Bool)) (ticks : Nat) : Txn :=
  { req := { op := .rds, who := .pu 0, line := 0x40, wr := [], stash := none, part := 0, txn := 0, found := fine, cycle := 0, port := 0 },
    snoops := [{ node := 1, kind := kind, ticks := ticks, ans := ans, txn := 0 }], src := some 1, dirty := false, held := false, grant := .S, alone := false, got := false, done := false }

def sSnp (u : Txn) : State := ({ sTri with dir := dirE .X 1 2, txns := [u] }).modPu 10 (fun p => { p with l2 := [⟨0x40, 0, .M⟩] })

theorem test_snoops : [(Instr.snps 1 ⟨0x40, .none⟩, SnoopKind.snps, true), (.snpx 1 ⟨0x40, .none⟩, .snpx, false), (.snpn 1 ⟨0x40, .none⟩, .snpn, true), (.snpi 1 0x40, .snpi, false), (.snpr 1 ⟨0x40, .none⟩, .snpr, false)].all (fun (j, kind, k) =>
    let s := sSnp (txn kind none 0)
    decide (s.homeQ = []) && !nodeFailed s 1 && nextB (exec j s) (fun t => quietB s t && decide (t.txns = [txn kind (some (true, true)) 0]) && (dieHolds t 1 0x40 == k || kind == .snps))) = true := by
  decide +kernel

theorem test_ack : (let s := sSnp (txn .snps (some (true, true)) 0)
    nextB (exec (.ack 1 0x40 true true []) s) (fun t => quietB s t && (match dirFind t 0x40 with | some e => decide (e.st = .O) && bit e.vec 0 | none => false) &&
      decide (t.cmps.map (fun c => (c.line, c.grant, c.needs)) = [(0x40, .S, true)]))) = true ∧
    nextB (exec (.homeSnoopTimeout 1 0x40) (sSnp (txn .snps none 4))) (fun t => nodeFailed t 1) = true := by decide +kernel

theorem test_data : (let s := { sTri with txns := [{ txn .snps none 0 with snoops := [], src := none, grant := .E }] }
    l2On s 0 && !nodeFailed s 0 && (fillWay (trkPut (trkRoom s 0 0x40) 0 0x40 (some .E)) 0 0x40).isSome && nextB (exec (.data pu1 0x40 []) s) (fun t => quietB s t && decide (((t.pu 0).l2Line 0x40).map (·.state) = some .E) && t.txns.all (·.got))) = true := by
  decide +kernel

def cmp (op : HomeOp) : Cmp := { op := op, who := pu1, line := 0x40, txn := 0, grant := .M, needs := false, ans := [intWord 1], alone := true, refused := false, part := 0 }

theorem test_cmp : [HomeOp.rdx, .upg].all (fun op => let s := { sTri with cmps := [cmp op] }
      let alone := (diePus 0).foldl (fun s m => if m = 0 then s else l2Inval s m 0x40 true) (l3Put { s with cmps := [] } 0 0x40 none)
      l2On s 0 && (fillWay (trkPut (trkRoom alone 0 0x40) 0 0x40 (some .M)) 0 0x40).isSome && nextB (exec (.cmpResponse pu1 0x40) s) (fun t => quietB s t && decide (t.cmps = [] ∧ ((t.pu 0).l2Line 0x40).map (·.state) = some .M))) = true ∧
    (let s := pu0 { sTri with cmps := [cmp .atom] } (fun p => { p with latch := [{ kind := .farAtomic, addr := 0x1000, resp := none }] })
    nextB (exec (.cmpResponse pu1 0x40) s) (fun t => quietB s t && decide (t.cmps = [] ∧ (t.pu 0).atomReq = none) && (t.pu 0).latch.all (fun e => e.resp.isSome))) = true ∧
    (let s := { sTri with txns := [{ txn .snps none 0 with snoops := [], done := true }] }
    nextB (exec (.cmpack pu1 0x40) s) (fun t => quietB s t && decide (t.txns = []))) = true := by decide +kernel

theorem test_atom : (let r : AtomReq := { op := .fadd, abs := 0x1008, narrow := false, relax := false, policy := 0, a := intWord 3, b := intWord 0, word := ⟨0, 0, 0, 0⟩, pair := ⟨0, 0, 0, 0⟩, later := none, done := false }
    let s := pu0 { sTri with mem := [(0x201, intWord 4)] } (fun p => { p with atomReq := some r })
    nextB (exec (.atom ⟨0, fine, .none⟩) s) (fun t => decide (memGet t 0x201 = intWord 7 ∧ l3Get t 0 0x40 = some .M) && t.cmps.all (fun c => decide (c.op = .atom)) && decide (t.cmps.length = 1))) = true := by
  decide +kernel

theorem test_departures : (let s := (sSnp (txn .snps none 0))
    let s := { s with txns := [] }
    dieDirty s 1 0x40 && nextB (exec (.wb 1 ⟨0x40, .none⟩ []) s) (fun t => quietB s t && decide (dirFind t 0x40 = none) && !dieHolds t 1 0x40)) = true ∧
    (let s := ({ sTri with dir := dirE .X 1 2 }).modPu 10 (fun p => { p with l2 := [⟨0x40, 0, .E⟩] })
    dieHolds s 1 0x40 && !dieDirty s 1 0x40 && nextB (exec (.evc 1 0x40) s) (fun t => quietB s t && decide (dirFind t 0x40 = none) && !dieHolds t 1 0x40)) = true ∧
    (let s := { sTri with dir := dirE .X 6 64 }
    nextB (exec (.evc 6 0x40) s) (fun t => quietB s t && decide (dirFind t 0x40 = none)) &&
    nextB (exec (.wb 6 ⟨0x40, .none⟩ (List.replicate 8 ⟨5, tagPtr⟩)) s) (fun t => decide (dirFind t 0x40 = none ∧ memGet t 0x203 = ⟨5, tagBytes⟩ ∧ memGet t 0x208 = memGet s 0x208))) = true := by
  decide +kernel
/-! ### Fabric -/

/-- Link 0 of node 0, slot 64 granted to partition 2 (table word 8 of bank 0). -/
def sFab : State := reg sTri [(0x0100310040, 0x82)]

def fm (ty : FabType) (p : Fin 32) : FabMsg := { type := ty, src := .stash p, line := [], returns := [], nacks := [] }

def fl (s : State) (ty : FabType) (p : Fin 32) : Flit := flitFor s (fm ty p)

theorem test_slots : linkExists 0 0 0 = true ∧ linkSlots 0 = 2048 ∧ slotKind 64 (slotEntry sFab 0 0 0 (activeBank sFab 0 0 0) 64) = .granted 2 ∧
    slotKind 65 (slotEntry sFab 0 0 0 0 65) = .best ∧ slotKind 67 0 = .reserve := by decide +kernel

theorem test_granted_slot : nextB (exec (.slotArbitration 0 0 0 64 [fm .request 1, fm .request 2]) sFab) (fun t => quietB sFab t &&
      decide (t.fabLink 0 = { sFab.fabLink 0 with next := 65, won := some (fl sFab .request 2), guar := 1, queue := [fl sFab .request 1] } ∧ spGet 0 t.served 2 = 1)) = true ∧
    nextB (exec (.slotArbitration 0 0 0 64 [fm .ioReply 1, fm .request 2]) sFab) (fun t => quietB sFab t &&
      decide (t.served = sFab.served ∧ t.fabLink 0 = { sFab.fabLink 0 with next := 65, won := some (fl sFab .ioReply 1), ctl := 1, claims := [2], queue := [fl sFab .request 2] })) = true ∧
    nextB (exec (.slotArbitration 0 0 0 65 [fm .request 1, fm .data 2]) sFab) (fun t => quietB sFab t &&
      decide (t.fabLink 0 = { sFab.fabLink 0 with next := 66, won := some (fl sFab .request 1), be := 1, ptr := 2, queue := [fl sFab .data 2] })) = true ∧
    nextB (exec (.slotArbitration 0 0 0 64 []) sFab) (fun t => decide (t.fabLink 0 = { sFab.fabLink 0 with next := 65, won := none })) = true := by decide +kernel

theorem test_flit_kinds : kindOf .snoop = .coherence ∧ kindOf .tbPurge = .general ∧ kindOf .abort = .urgentRequest ∧ kindOf .evc = .response ∧
    (fl sFab .data 5).part = 5 ∧ (fl sFab .snoop 5).part = 0 ∧
    (enqueue { FabLink.reset with queue := List.replicate 64 (fl sFab .sigpu 0) } (fl sFab .sigpu 0)).source = [fl sFab .sigpu 0] := by decide +kernel

/-- Entry 0 of the other bank is not 0, which a control slot does not allow (R258). -/
theorem test_commit_bad : (let s := reg sTri [(0x0100311000, 0x01)]
    decide (slotFault s 0 0 0 0 = some 2) && nextB (exec (.commit 0 0 0) s) (fun t => quietB s t && decide (ccsFld t (slotCmt 0 0 0) 55 48 = 2 ∧ ccsFld t (slotCmt 0 0 0) 43 32 = 0))) = true := by
  decide +kernel

theorem test_exchange : (let s := { sTri with fab := [(0, { FabLink.reset with commit := some 0 })] }
    nextB (exec .slotBankExchange s) (fun t => quietB s t && decide (activeBank t 0 0 0 = 1))) = true := by decide +kernel

/-! ### Guest ports -/

/-- Port 0 in a link state, its control register, and what it holds. -/
def sGp (st : Nat) (ctl : Word) (f : GPort → GPort) : State := (reg sTri [(0x0100C00000, ctl), (0x0100C00008, BitVec.ofNat 64 (st * 2 ^ 60))]).modGp 0 f

def down (s t : State) (c : Nat) : Bool := quietB s t && decide (lstate t 0 = 0 ∧ ccsFld t (gpReg 0 8) 55 48 = c)

set_option maxRecDepth 65536 in
theorem test_guest_train :
    (let s := sGp 0 0 id; nextB (exec (.gpctlEn 0 true) s) (fun t => quietB s t && decide (lstate t 0 = 1))) = true ∧
    (let s := sGp 3 0x8000000000000000 id; nextB (exec (.gpctlEn 0 false) s) (fun t => down s t 1)) = true ∧
    (let s := reg (sGp 0 0x8000000000000000 id) [(0x50000, 0x200000)]; decide (1024 ≤ shCount s - (s.gp 0).since) && nextB (exec (.linkDownRetry 0) s) (fun t => quietB s t && decide (lstate t 0 = 1))) = true ∧
    (let s := sGp 1 0 id; nextB (exec (.trainComplete 0 .up) s) (fun t => decide (lstate t 0 = 2)) && nextB (exec (.trainComplete 0 .refused) s) (fun t => down s t 2) &&
      nextB (exec (.trainComplete 0 .timeout) s) (fun t => down s t 3)) = true ∧
    (let s := sGp 2 0 id; nextB (exec (.speedComplete 0 true) s) (fun t => quietB s t && decide (lstate t 0 = 3 ∧ t.sent = [⟨.guest, [0, flitOut (s.gp 0) [1, portInit 0]]⟩]))) = true ∧
    (let s := reg (sGp 3 0 id) [(0x50000, 0x10000)]; decide (16 ≤ shCount s - (s.gp 0).since) && nextB (exec (.initTimeout 0) s) (fun t => down s t 3)) = true := by decide +kernel

/-- An INIT record with 5 device credits, no caching agent. -/
def initRec : BitVec 128 := BitVec.ofNat 128 (mkRec 0x3F 0 0 0 0 (5 * 2 ^ 44) 0 0)

theorem test_guest_init : (let s := sGp 3 0 id
    decide (recOpc initRec = 0x3F ∧ recAux initRec = 0 ∧ 1 ≤ bits initRec.toNat 95 88) && !bit (recSt initRec) 0 &&
    nextB (exec (.init 0 initRec) s) (fun t => quietB s t && decide (lstate t 0 = 4 ∧ (t.gp 0).devCrd = 5) && !gpCaching t 0)) = true := by decide +kernel

set_option maxRecDepth 65536 in
theorem test_guest_run :
    (let s := sGp 6 0 (fun g => { g with back := 4 }); nextB (exec (.retrainEnd 0 true) s) (fun t => quietB s t && decide (lstate t 0 = 4))) = true ∧
    (let s := sGp 4 0 (fun g => { g with devCrd := 1 }); nextB (exec (.guestLinkDown 0 5) s) (fun t => down s t 5) && nextB (exec (.quiesce 0) s) (fun t => decide (lstate t 0 = 5))) = true ∧
    (let s := sGp 4 0 (fun g => { g with opens := [⟨0, [], true, false, false⟩] }); nextB (exec (.quiesce 0) s) (fun t => quietB s t && decide (lstate t 0 = 4) && (t.gp 0).quiet)) = true ∧
    (let s := sGp 5 0 id; nextB (exec (.gpResume 0) s) (fun t => quietB s t && decide (lstate t 0 = 4))) = true ∧
    (let s := reg (sGp 5 0 id) [(0x0100C00008, 0x5800000000000000)]; gpCaching s 0 && nextB (exec (.flush 0) s) (fun t => quietB s t && decide (lstate t 0 = 7 ∧ t.sent = [⟨.guest, [0, nullOut (s.gp 0) 1]⟩]))) = true ∧
    (let s := sGp 7 0 id; nextB (exec (.flushed 0) s) (fun t => decide (lstate t 0 = 5) && !gpCaching t 0)) = true ∧
    (let s := sGp 5 0 id; gpIdle s 0 && nextB (exec (.gpbindWrite 0 0x80000000000000E2) s) (fun t => quietB s t && decide (ccsGet t 0x0100C00010 = 0x8000000000000002))) = true ∧
    (let s := sGp 4 0 id; !gpIdle s 0 && nextB (exec (.gpbindWrite 0 0x8000000000000002) s) (fun t => quietB s t && decide (ccsGet t 0x0100C00010 = 0 ∧ ccsFld t (gpReg 0 8) 58 58 = 1))) = true := by
  decide +kernel

theorem test_credits : (let s := sGp 4 0 id
    nextB (exec (.creditReturn 0 1 3) s) (fun t => quietB s t && decide (t.gp 0 = { s.gp 0 with snpCrd := 3 })) &&
    nextB (exec (.creditReturn 0 2 3) s) (fun t => quietB s t && decide (t.gp 0 = { s.gp 0 with devCrd := 3 }))) = true := by decide +kernel

set_option maxRecDepth 65536 in
theorem test_flit_lost : (let s := sGp 4 0 id
    carries s 0 && nextB (exec (.flitReceive 0 0 false) s) (fun t => quietB s t && (t.gp 0).nak && decide (ccsFld t (gpReg 0 0x300) 63 48 = 1 ∧ t.sent = [⟨.guest, [0, nullOut { s.gp 0 with nakDue := true } 0]⟩]))) = true := by decide +kernel

set_option maxRecDepth 65536 in
theorem test_replay : (let f : TxFlit := { seq := 1, payload := List.replicate 232 7, descs := List.replicate 4 0 }
    let s := sGp 4 0 (fun g => { g with replay := [f] })
    [Instr.nakReplay 0 0, .replayTimeout 0].all (fun j => nextB (exec j s) (fun t => quietB s t &&
      decide (lstate t 0 = 4 ∧ t.sent = [⟨.guest, [0, ofBE (flitBody f.payload f.descs (linkControl (s.gp 0) 1 false 0))]⟩] ∧ ccsFld t (gpReg 0 0x300) 47 32 = 1)))) = true := by
  decide +kernel

/-- A port bound to partition 0 with inbound and outbound windows over the first MiB; RDNC of 8 bytes at 0x1000 with TXN 3. -/
def sGw (f : GPort → GPort) : State :=
  reg (sGp 4 0 f) [(0x0100C00010, 0x8000000000000000), (0x0100C00100, 0xFF00000000000000), (0x0100C00200, 0x8000000000000000)]

def rdncRec : BitVec 128 := BitVec.ofNat 128 (mkRec 4 3 0 0 0 0x1000 8 0)

set_option maxRecDepth 65536 in
theorem test_guest_request : (let s := sGw id
    decide (recOpc rdncRec = 4) && decide (nackReason s 0 rdncRec = none) &&
    nextB (exec (.guestRequest 0 rdncRec []) s) (fun t => quietB s t && decide ((t.gp 0).opens = [⟨rdncRec, recBytes s 0 rdncRec [], false, false, false⟩]))) = true ∧
    (let s := sGp 4 0 id
    decide (nackReason s 0 rdncRec = some 3) && nextB (exec (.guestRequest 0 rdncRec []) s) (fun t => quietB s t && decide ((t.gp 0).opens = [] ∧
      t.sent = [⟨.guest, [0, flitOut (s.gp 0) [0, mkRec 0x1A 3 0 3 0 0x1000 8 0]]⟩] ∧ spGet 0 t.refused 0 = 1))) = true := by decide +kernel

theorem test_guest_dispatch : (let q : GReq := ⟨rdncRec, [], false, false, false⟩
    let s := sGw (fun g => { g with opens := [q] })
    accessOk s 0 4 0x1000 && decide (homeOf s 0x1000 = some 0) && creditLeft s 0 (creditHolder (.guest 0)) && !nodeFailed s 0 &&
      nextB (exec (.guestRequestDispatch 0 0 fine) s) (fun t => decide ((t.gp 0).opens = [{ q with gone := true }]))) = true ∧
    (let q : GReq := ⟨rdncRec, [], false, false, false⟩
    let s := sGp 4 0 (fun g => { g with opens := [q] })
    !accessOk s 0 4 0x1000 && nextB (exec (.guestRequestDispatch 0 0 fine) s) (fun t => quietB s t && decide ((t.gp 0).opens = []))) = true := by decide +kernel

def devLd (sent : Bool) : DevLoad := { abs := 0x5000, va := 0x5000, len := 8, ilen := 3, slot := 2, unit := 0, ticks := 9, sent := sent }

def devEntry (p : MbPhase) : MbEntry := { device := true, strict := false, line := 0x6000, vline := 0x6000, len := 8, words := [(0, ⟨0xFF, 5, some tagInt⟩)], phase := p, part := 0 }

theorem test_device_requests : (let s := pu0 (sGw (fun g => { g with devCrd := 1 })) (fun p => { p with devLoad := some (devLd false), mb := [devEntry .waiting] })
    !unreachable s 0 && decide (outPort s 0 0x5000 = some 0 ∧ outPort s 0 0x6000 = some 0) && !inWindow 0x6000 &&
    nextB (exec (.drd 0) s) (fun t => quietB s t && decide ((t.pu 0).devLoad = some (devLd true) ∧ (t.gp 0).devCrd = 0 ∧ (t.gp 0).devs.map (fun d => (d.txn, d.pu, d.write, d.abs)) = [(0, 0, false, 0x5000)])) &&
    nextB (exec (.dwr ⟨0, false⟩) s) (fun t => quietB s t && decide ((t.pu 0).mb = [devEntry (.sent (devTimeout s 0))] ∧ (t.gp 0).devs.map (fun d => (d.write, d.abs, d.len)) = [(true, 0x6000, 8)]))) = true := by
  decide +kernel

theorem test_drsp : (let d : GDev := { txn := 3, pu := 0, write := false, abs := 0x5000, len := 8 }
    let s := pu0 (sGw (fun g => { g with devs := [d] })) (fun p => { p with devLoad := some (devLd true), latch := [{ kind := .deviceRead, addr := 0x5000, resp := none }] })
    let r := BitVec.ofNat 128 (mkRec 0x20 3 0 0 1 0x5000 8 0)
    devWaits s d && nextB (exec (.drsp 0 r [7]) s) (fun t => quietB s t && decide ((t.gp 0).devs = [] ∧ (t.pu 0).devLoad = none) && (t.pu 0).latch.all (fun e => e.resp.isSome))) = true ∧
    (let d : GDev := { txn := 3, pu := 0, write := true, abs := 0x6000, len := 8 }
    let s := pu0 (sGw (fun g => { g with devs := [d] })) (fun p => { p with mb := [devEntry (.sent 4)] })
    devWaits s d && nextB (exec (.drsp 0 (BitVec.ofNat 128 (mkRec 0x21 3 0 0 0 0x6000 8 0)) []) s) (fun t => quietB s t && decide ((t.gp 0).devs = [] ∧ (t.pu 0).mb = endStore 0x6000 none (s.pu 0).mb))) = true := by
  decide +kernel
/-- The slot tables of link 0 hold zeros: a COMMIT finds no fault (R258). -/
theorem test_commit_clean : ∀ j < linkSlots 0, slotFault sTri 0 0 0 j = none := by
  have h : ∀ w < 256, ∀ b < 2, ccsGet sTri (fabBase 0 + 0x10000 + 0x4000 * 0 + 0x2000 * 0 + 0x1000 * b + 8 * w) = 0 := by decide +kernel
  have e : ∀ j < 2048, ∀ b < 2, slotEntry sTri 0 0 0 b j = 0 := by
    intro j hj b hb
    simp only [slotEntry, ccsFld, h (j / 8) (by omega) b hb]
    simp [bits]
  have a : activeBank sTri 0 0 0 = 0 := by decide +kernel
  intro j hj
  have hj : j < 2048 := hj
  simp only [slotFault, a, e j hj 0 (by omega), e j hj 1 (by omega)]
  by_cases c : j < 64 ∨ j % 4 = 3
  · simp [badEntry, c]
  · simp [badEntry, c, bits, bit]

/-- A state in which a tick does something: powered, after the first rise of RESET_N. -/
theorem test_tick_runs : (let s := { sTri with boot := { sTri.boot with pwrGood := true, ran := true } }
    s.boot.pwrGood && s.boot.ran && decide (shCount s = 0)) = true := by decide +kernel

set_option maxRecDepth 65536 in
theorem test_flit : (let s := sGp 4 0 id
    let flit := BitVec.ofNat 2048 ((2 ^ 38 * 2 ^ 64 + 16278896834469093037) * 2 ^ 48)
    let b := bytesBE 256 flit.toNat
    decide (ofBE ((b.drop 242).take 8) = (crc64 (b.take 242)).toNat ∧ (b.drop 232).take 4 = [0, 0, 0, 0] ∧ bits (ofBE ((b.drop 236).take 6)) 47 38 = 1) && carries s 0 &&
    nextB (exec (.flitReceive 0 flit true) s) (fun t => decide ((t.gp 0).rxSeq = 1 ∧ (t.gp 0).nak = false ∧ (t.gp 0).rxBytes.length = 40))) = true := by decide +kernel
/-! ### Channels -/

/-- The channel subsystem enabled, IOQ 0 with one path over port 0 to control unit 0, the link up and the pair operational; a start
of IOQ 0 with the CCEs c0 and its exchange. -/
def start0 (c0 : Word) (e : Option Exch) : Start :=
  { ioq := 0, xid := 0, user := 7, sbk := 0x1000, nosusp := false, tmo := 1, c0 := c0, c1 := 0x2000, rest := 0, pu := some 0, gone := false, exch := e }

def sCh (starts : List Start) : State :=
  { reg sTri [(0x0201000008, 0x4000000000000000), (0x0201100000, 0x8000000000000000), (0x0201300000, 0x8000000000000000), (0x0202000028, 0x8000000000000000)] with
    pairs := [(0, { noPair with oper := true })], starts := starts, ring := [(0, 0)] }

/-- An exchange on path 0. -/
def exch : Exch := { Exch.fresh 0 with path := some 0, lastK := 0 }

def cce (w0 : Word) : Cce := ⟨0, w0, 0x2000⟩

def sEx (f : Exch → Exch) : State := sCh [start0 0x0100000000000000 (some (f exch))]

theorem test_dispatch : (let s := sCh [start0 0x0100000000000000 none]
    decide (nextStart s = some (start0 0x0100000000000000 none) ∧ pickEngine s = some 0 ∧ csState s = 1 ∧ engineLoad s 0 = 0) &&
    nextB (exec .startDispatch s) (fun t => quietB s t && (match exchOf t 0 with
      | some e => decide (e.engine = 0 ∧ e.path = some 0 ∧ e.idx = 0) && e.more
      | none => false)) &&
    nextB (exec .journalSpill s) (fun t => quietB s t && decide (t.ring = [] ∧ t.starts = s.starts)) &&
    decide ((s.starts.find? (fun y => y.ioq == 0 && y.xid == 0)).isSome) && (let u := s.modBoot (fun b => { b with ran := true })
      let t := loseStarts [⟨0, 0, true⟩] u
      decide (t.starts = [] ∧ t.ring = [] ∧ t.stats.length = 1 ∧ ccsFld t 0x0201000008 15 0 = 1) && u.boot.pwrGood && u.boot.ran)) = true := by decide +kernel

theorem test_cce : (let s := sEx id
    decide (readCce s (start0 0x0100000000000000 (some exch)) 0 = some (cce 0x0100000000000000) ∧ cceErr (cce 0x0100000000000000) none = none) &&
    nextB (exec (.cceFetch 0) s) (fun t => quietB s t && decide (exchOf t 0 = some { exch with nxt := [cce 0x0100000000000000], idx := 1, nxtDone := true }))) = true ∧
    (let s := sCh [start0 0xC000000000000000 (some exch)]
    decide (cceErr (cce 0xC000000000000000) none = some 1) && nextB (exec (.cceFetch 0) s) (fun t => quietB s t && (match (exchOf t 0).bind (·.ending) with
      | some d => decide (d.kind = 2 ∧ d.err = 1)
      | none => false))) = true := by decide +kernel

def ending0 : Ending := { kind := 1, err := 0, uncert := false, timed := false, devst := 0, idx := 0, resid := 0, sense := [] }

theorem test_status : (let s := sEx (fun e => { e with ending := some ending0 })
    nextB (exec (.statusStore 0) s) (fun t => quietB s t && t.stats.all (fun y => y.ending && decide (y.ioq = 0) && decide ((y.words.map (fun w => (bits w.toNat 63 60, bits w.toNat 55 48))).head? = some (1, 0))) &&
      decide (t.stats.length = 1 ∧ t.ioInts = [{ ioq := 0, status := s.statSeq }] ∧ t.starts = []))) = true ∧
    (let s := sEx (fun e => { e with progDue := some 0 })
    nextB (exec (.statusStore 0) s) (fun t => quietB s t && t.stats.all (fun y => !y.ending) && decide ((exchOf t 0).bind (·.progDue) = none ∧ t.stats.length = 1))) = true := by decide +kernel

theorem test_timers : (let s := sEx (fun e => { e with ticks := 1025 })
    nextB (exec (.startTimerExpiry 0) s) (fun t => quietB s t && decide (exchOf t 0 = some { exch with ticks := 1025, halt := some { clear := false, timed := true, sends := 0, result := none } }))) = true ∧
    (let s := { sEx (fun e => { e with path := none, lost := 0x100001 }) with pairs := [] }
    pathless s 0 { exch with path := none } && nextB (exec (.pathLossTimeout 0) s) (fun t => quietB s t && (match (exchOf t 0).bind (·.ending) with
      | some d => decide (d.kind = 2 ∧ d.err = 0xB) && d.uncert
      | none => false))) = true := by decide +kernel

theorem test_engine_failure : (let s := reg (sEx id) [(0x0201000180, 0x4000000000000000)]
    nextB (exec (.channelEngineFailure 0) s) (fun t => quietB s t && decide (ccsFld t 0x0201000100 63 62 = 2 ∧ ccsFld t 0x0201000180 63 62 = 0) &&
      t.starts.all (fun x => match x.exch with | some e => e.engine != 0 | none => true))) = true := by decide +kernel

theorem test_csctl : (let s := sCh []
    nextB (exec (.csctlEnable 0) s) (fun t => quietB s t && decide (csState t = 0 ∧ ccsFld t 0x0201000000 63 63 = 0))) = true ∧
    (let s := reg (sCh []) [(0x0201000008, 0), (0x0201000010, 0), (0x0201000018, 0x40000000), (0x0101200000, 0x8200000100000001), (0x0101200008, 0x8000000000000001)]
    journalOk s && nextB (exec (.csctlEnable 0x8000000500000000) s) (fun t => quietB s t && decide (csState t ≠ 0 ∧ ccsFld t 0x0201000000 47 32 = 5 ∧ t.epoch = todMid s))) = true ∧
    (let s := reg (sCh []) [(0x0201000008, 0)]
    !journalOk s && nextB (exec (.csctlEnable 0x8000000000000000) s) (fun t => quietB s t && decide (csState t = 0 ∧ ccsFld t 0x0201000008 55 48 = 2))) = true := by decide +kernel

theorem test_pioqr : (let s := sCh []
    decide (heldIoqs s = []) && nextB (exec (.pioqrWrite 1 0 0x0003000000000100) s) (fun t => quietB s t && decide (ccsGet t 0x21800 = 0x0003000000000100 ∧ inForce t 0x21800 = 0)) &&
    nextB (exec (.pioqrWrite 1 0 0x8003000000000000) s) (fun t => quietB s t && decide (ccsGet t 0x21800 = 0 ∧ ccsFld t 0x0201000008 61 61 = 1))) = true := by decide +kernel

/-! ### Channel ports and frames -/

def fr (type arg ack : Nat) (data : List (BitVec 8)) : ChanFrame := mkFrame type 0 0 0 0 ack arg false data []

theorem test_port_links : (let s := reg (sCh []) [(0x0202000000, 0x8000000000000000), (0x0202000028, 0)]
    nextB (exec (.channelPortLinkUp 0) s) (fun t => quietB s t && chpLink t 0)) = true ∧
    nextB (exec (.channelPortLinkDown 0) (sCh [])) (fun t => quietB (sCh []) t && !chpLink t 0 && !(t.pair 0).oper) = true ∧
    nextB (exec (.pfcPauseExpiry 0) (reg (sCh []) [(0x0202000028, 0xC000000000000000)])) (fun t => !chpPaused t 0) = true := by decide +kernel

theorem test_port_up : (let s := sCh []
    chpLink s 0 && nextB (exec (.pfcPause 0 0x180000) s) (fun t => quietB s t && decide (ccsFld t 0x0202000028 61 61 = 1 ∧ t.sent.length = 1)) &&
    nextB (exec (.pfcFrameReceive 0 8 5) s) (fun t => quietB s t && chpPaused t 0) &&
    nextB (exec (.neighborSolicitation 0 0 9) s) (fun t => quietB s t && decide (t.sent = [⟨.neighbor, [0, 0, 0, 9]⟩]))) = true ∧
    (let s := reg (sCh []) [(0x0202000028, 0xA000000000000000)]
    nextB (exec (.pfcPause 0 0x100000) s) (fun t => quietB s t && decide (ccsFld t 0x0202000028 61 61 = 0 ∧ t.sent.length = 1))) = true := by decide +kernel

theorem test_pairs_answer : (let s := { sCh [] with pairs := [(0, { noPair with login := some 0 })] }
    nextB (exec (.loginacc 0 0 (fr 0x02 0 0 [])) s) (fun t => quietB s t && (t.pair 0).oper)) = true ∧
    (let s := { sCh [] with pairs := [(0, { noPair with oper := true, echo := some 0, misses := 1 })] }
    nextB (exec (.echorep 0 0 (fr 0x04 0 0 (List.replicate 8 0))) s) (fun t => quietB s t && decide ((t.pair 0).echo = none ∧ (t.pair 0).misses = 0)) &&
    (let u := { s with tod := 2 ^ 80 }; !echoInTime u 0 0 && nextB (exec (.echorep 0 0 (fr 0x04 0 0 (List.replicate 8 0))) u) (fun t => decide (t.pairs = u.pairs))) &&
    nextB (exec (.echoTimeout 0 0) s) (fun t => quietB s t && (t.pair 0).oper && decide ((t.pair 0).echo = none ∧ (t.pair 0).misses = 2))) = true ∧
    (let s := { sCh [] with pairs := [(0, { noPair with oper := true, echo := some 0, misses := 2 })] }
    nextB (exec (.echoTimeout 0 0) s) (fun t => quietB s t && !(t.pair 0).oper)) = true := by decide +kernel

theorem test_login_echo : (let s := { reg (sCh []) [(0x0202100010, 0x8000000000000000)] with pairs := [] }
    pairUsed s 0 && mayLeave s 0 0x01 && nextB (exec (.login 0 0) s) (fun t => quietB s t && decide ((t.pair 0).login = some 0 ∧ t.sent.length = 1))) = true ∧
    (let s := sCh []
    mayLeave s 0 0x03 && nextB (exec (.echo 0 0) s) (fun t => quietB s t && decide ((t.pair 0).echo = some 0 ∧ t.sent.length = 1))) = true := by decide +kernel

/-- A frame of no bytes fails the checks. -/
theorem test_bad_frame : (let s := sCh []
    (match checkFrame s 0 [] true with | .error .bad => true | _ => false) &&
    nextB (exec (.channelFrameReceive 0 [] true) s) (fun t => quietB s t && decide (ccsFld t 0x0202000030 15 0 = 1))) = true := by decide +kernel

def sends (s : State) (j : Instr) (f : Exch → Bool) : Bool :=
  nextB (exec j s) (fun t => quietB s t && decide (t.sent.length = 1) && (match exchOf t 0 with | some e => f e | none => false))

theorem test_frames_out :
    (let s := sEx (fun e => { e with nxt := [cce 0x0100000000000000], nxtDone := true })
    mayLeave s 0 0x10 && decide (exchPair s (start0 0 none) exch = some 0) && sends s (.cmdFrame 0) (fun e => !e.more && decide (e.cur = [cce 0x0100000000000000] ∧ e.txSeq = 1 ∧ e.out = [⟨0, 0x10, 0x100, false, [], [], 0⟩]))) = true ∧
    (let s := { sEx (fun e => { e with more := false, cur := [cce 0x4000000000000004] }) with mem := [(0x400, ⟨0x0102030405060708, tagBytes⟩)] }
    mayLeave s 0 0x11 && sends s (.dataFrame (.send 0)) (fun e => decide (e.off = 4 ∧ e.txSeq = 1 ∧ e.out = [⟨0, 0x11, 0, true, [1, 2, 3, 4], [], 0⟩]))) = true ∧
    (let s := sEx (fun e => { e with more := false, cur := [cce 0x4000000000000004], curStop := some ⟨6, 0, 4, 0⟩ })
    mayLeave s 0 0x13 && sends s (.term 0) (fun e => e.termed && decide (e.out = [⟨0, 0x13, 0, false, List.replicate 8 0, [], 0⟩]))) = true ∧
    (let s := reg (sEx (fun e => { e with out := [⟨0, 0x11, 0, true, [1], [], 0⟩], txSeq := 1 })) [(0x0202000000, 2)]
    mayLeave s 0 0x11 && sends s (.retransmissionTimeout 0) (fun e => decide (e.expiries = 1 ∧ e.out.length = 1))) = true := by decide +kernel

theorem test_frames_out_more :
    (let s := sEx (fun e => { e with more := false, cur := [cce 0x8000000000000004], stored := 4 })
    decide (0 < ccesBelow [cce 0x8000000000000004] 4) && mayLeave s 0 0x12 && sends s (.ckpt 0) (fun e => decide (e.ckpts = 1))) = true ∧
    (let s := sEx (fun e => { e with ackDue := true }); mayLeave s 0 0x08 && sends s (.ackDelayExpiry 0) (fun e => !e.ackDue)) = true ∧
    [(true, false), (false, true)].all (fun b => let s := sEx (fun e => { e with resume := b.1, moved := b.2 })
      mayLeave s 0 0x16 && sends s (.resumeFrame 0 false) (fun e => !e.ackDue && e.resume && !e.moved)) = true ∧
    [true, false].all (fun b => let h : Halting := { clear := b, timed := false, sends := 0, result := none }
      let s := sEx (fun e => { e with halt := some h })
      mayLeave s 0 (if b then 0x21 else 0x20) && sends s (if b then .clear 0 else .halt 0) (fun e => decide (e.halt = some { h with sends := 1 })) &&
      (let s := sEx (fun e => { e with halt := some { h with sends := 8 } })
      nextB (exec (.haltRetransmissionTimeout 0) s) (fun t => quietB s t && (match (exchOf t 0).bind (·.ending) with
        | some d => d.uncert && decide (d.kind = if b then 4 else 3)
        | none => false)))) = true ∧
    (let s := { sCh [] with endacks := [{ ioq := 0, xid := 0, rxSeq := 0, port := 0, cu := 0 }] }
    mayLeave s 0 0x15 && nextB (exec (.endack 0) s) (fun t => quietB s t && decide (t.endacks = [] ∧ t.sent.length = 1))) = true := by decide +kernel

theorem test_frames_in :
    (let s := sEx (fun e => { e with txSeq := 1, out := [⟨0, 0x10, 0, false, [], [], 0⟩] })
    nextB (exec (.channelAck 0 0 (fr 0x08 0 1 [])) s) (fun t => quietB s t && (match exchOf t 0 with | some e => decide (e.out = [] ∧ e.txAck = 1) | none => false))) = true ∧
    (let s := sEx (fun e => { e with more := false, cur := [cce 0x8000000000000008] })
    nextB (exec (.dataFrame (.receive 0 0 (fr 0x11 0 0 [1, 2, 3, 4, 5, 6, 7, 8]))) s) (fun t => decide (memGet t 0x400 = ⟨0x0102030405060708, tagBytes⟩) && (match exchOf t 0 with
      | some e => e.ackDue && decide (e.rxSeq = 1 ∧ e.off = 8 ∧ e.stored = 8) | none => false))) = true ∧
    (let s := sEx (fun e => { e with more := false, cur := [cce 0x0100000000000000] })
    nextB (exec (.cmdend 0 0 (fr 0x14 0x0C00 0 (List.replicate 8 0))) s) (fun t => quietB s t && (match (exchOf t 0).bind (·.ending) with
      | some d => decide (d.kind = 1 ∧ d.err = 0 ∧ d.devst = 0x0C) | none => false))) = true ∧
    [true, false].all (fun b => let s := sEx (fun e => { e with halt := some { clear := b, timed := false, sends := 1, result := none } })
      nextB (exec (if b then .clearack 0 0 (fr 0x23 0 0 []) else .haltack 0 0 (fr 0x22 0 0 [])) s) (fun t => quietB s t && (match (exchOf t 0).bind (·.ending) with
        | some d => !d.uncert && decide (d.kind = if b then 4 else 3) | none => false))) = true := by decide +kernel
/-! ### Engines, keys, Cut -/

/-- Engine 0's Bellows and Mute status words. -/
def sEng (b m : Word) : State := reg sTri [(0x0100400000, b), (0x0100404000, m)]

theorem test_self_tests : (let s := sEng 0x8000000000000000 0x803F000000000000
    belDown s 0 && decide (mutState s 0 = 2) &&
    nextB (exec (.belcmdTest 0 true) s) (fun t => quietB s t && !belDown t 0 && decide (ccsFld t 0x0100400000 39 32 = 1)) &&
    nextB (exec (.belcmdTest 0 false) s) (fun t => quietB s t && belDown t 0 && decide (ccsFld t 0x0100400000 39 32 = 2)) &&
    nextB (exec (.mutcmdTest 0 true) s) (fun t => quietB s t && decide (mutState t 0 = 0 ∧ ccsFld t 0x0100404000 39 32 = 1)) &&
    nextB (exec (.mutcmdTest 0 false) s) (fun t => quietB s t && decide (mutState t 0 = 2 ∧ ccsFld t 0x0100404000 39 32 = 2))) = true ∧
    (let s := sEng 0 0x4003000000000000
    nextB (exec (.release 0) s) (fun t => quietB s t && decide (mutState t 0 = 0 ∧ mutOwner t 0 = 0x3F))) = true ∧
    (let s := { reg (sEng 0 0) [(0x50000, 0x80000000)] with engTimes := [(0, [0, 0xFFFFF])] }
    decide (recentChecks s 0 = [0xFFFFF]) && nextB (exec (.engineCheckWindowExpiry 0 false) s) (fun t => quietB s t && decide (ccsFld t 0x0100400000 41 40 = 1))) = true := by
  decide +kernel

theorem test_slot_owners : (let s := reg sTri [(0x22600, 2)]
    nextB (exec (.pkeyownWrite 1 0 1) s) (fun t => quietB s t && decide (ccsGet t 0x21600 = 1 ∧ inForce t 0x21600 = 0)) &&
    nextB (exec (.pkeyownWrite 1 0 3) s) (fun t => quietB s t && decide (ccsGet t 0x21600 = 0 ∧ ccsFld t 0x0100404000 60 60 = 1))) = true ∧
    (let s := reg sTri [(0x21000, 0x8000000000000000)]
    partSealed s 1 && is (exec (.pkeyownWrite 1 0 1) s) s) = true := by decide +kernel

theorem test_key_commands : [(Instr.provision, 1), (.kekErase, 2)].all (fun (j, c) => let s := reg sTri [(0x40100, 3)]
      nextB (exec j s) (fun t => quietB s t && decide (ccsFld t 0x40138 63 63 = 1 ∧ t.kekJob.map (fun b => (b.cmd, b.sel)) = some (c, 3))) &&
      (let s := reg sTri [(0x40138, 0x8000000000000000)]
      nextB (exec j s) (fun t => quietB s t && decide (t.kekJob = none ∧ ccsFld t 0x40008 60 60 = 1)))) = true ∧
    [(Instr.linkKeyLoad, 1), (.linkKeyErase, 2)].all (fun (j, c) => let s := reg sTri [(0x0205000008, 3)]
      nextB (exec j s) (fun t => quietB s t && decide (ccsFld t 0x0205000040 63 63 = 1 ∧ t.lkJob.map (fun b => (b.cmd, b.sel)) = some (c, 3)))) = true := by decide +kernel

/-- An erasure, by which partition 3 loses its key, image key and the slot it owns; a LOAD of a link key without a key of partition 0. -/
theorem test_key_results : (let s := { reg sTri [(0x40138, 0x8000000000000000), (0x23600, 1)] with
        kekJob := some ⟨2, 3, [], false⟩, keks := [(3, 7)], imageKeys := [(3, 8)], slotKeys := [(0, ⟨9, 0⟩)] }
    decide (slotOwner s 0 0 = 3) && nextB (exec .kekCommandComplete s) (fun t => quietB s t && decide (ccsFld t 0x40138 55 48 = 1 ∧ t.keks = [] ∧ t.imageKeys = [] ∧ t.slotKeys = []))) = true ∧
    (let s := { reg sTri [(0x0205000040, 0x8000000000000000)] with lkJob := some ⟨1, 3, [], false⟩ }
    nextB (exec .linkKeyCommandComplete s) (fun t => quietB s t && decide (ccsFld t 0x0205000040 55 48 = 2 ∧ linkKey t 3 = noLinkKey))) = true ∧
    (let s := { reg sTri [(0x0205000040, 0x8000000000000000)] with lkJob := some ⟨2, 3, [], false⟩, linkKeys := [(3, { noLinkKey with cur := some 5 })] }
    nextB (exec .linkKeyCommandComplete s) (fun t => quietB s t && decide (ccsFld t 0x0205000040 55 48 = 1 ∧ linkKey t 3 = noLinkKey))) = true ∧
    (let s := { sTri with linkKeys := [(3, { noLinkKey with cur := some 5, prev := some 6 })] }
    nextB (exec (.linkKeyGraceExpiry 3) s) (fun t => quietB s t && decide (linkKey t 3 = { noLinkKey with cur := some 5 }))) = true := by decide +kernel

/-- Trigger 0 present, and firmware's with partition 2. -/
theorem test_cut : (let s := { sTri with slotKeys := [(0, ⟨9, 0⟩)], keks := [(3, 7)] }
    nextB (exec (.cutTrigger 1 1 2) s) (fun t => decide (ccsFld t 0x40008 21 16 = 0x11 ∧ ccsFld t 0x40008 28 24 = 2 ∧ ccsFld t 0x40008 33 32 = maskLevel s 0x11))) = true := by
  decide +kernel

theorem test_unfreeze : (let s := reg sTri [(0x40008, 0x8000000000000000), (0x0100404000, 0xC03F000000000000), (0x0205000000, 0xC000000000000000)]
    frozen s && decide (maskLevel s 0 = 0) && nextB (exec .unfreeze s) (fun t => quietB s t && !frozen t && decide (mutState t 0 = 0 ∧ ccsFld t 0x0205000000 63 62 = 0))) = true ∧
    nextB (exec .unfreeze sTri) (fun t => quietB sTri t && !frozen t && decide (ccsFld t 0x40008 60 60 = 1)) = true := by decide +kernel

theorem test_temperature : (let s := sTri
    s.boot.pwrGood && nextB (exec (.temperatureSample [(6, 50)]) s) (fun t => quietB s t && decide (ccsFld t 0x0200000000 7 0 = 50 ∧ ccsFld t 0x40008 51 51 = 0))) = true := by decide +kernel

theorem test_reseeds : nextB (exec (.drbgReseed 0 true) { sTri with withheld := [(0, 2)] }) (fun t => decide (spGet 0 t.withheld 0 = 0 ∧ ccsFld t 0x0100404000 61 61 = 0)) = true ∧
    nextB (exec (.drbgReseed 0 false) { sTri with withheld := [(0, 2)] }) (fun t => decide (spGet 0 t.withheld 0 = 3 ∧ ccsFld t 0x0100404000 61 61 = 0)) = true ∧
    nextB (exec (.drbgReseed 0 false) { sTri with withheld := [(0, 3)] }) (fun t => quietB sTri t && decide (ccsFld t 0x0100404000 61 61 = 1)) = true := by decide +kernel

/-! ### Service endpoint -/

/-- The endpoint up, Memory Space and Bus Master enabled. -/
def sEp : State :=
  let s := reg sTri [(0x0203001000, 0x8000000000000000)]
  cfgPut { s with boot := { s.boot with resetN := true }, ep := { s.ep with perst := false } } 1 6

def answered (s t : State) (a : List Nat) : Bool := decide (t.sent = s.sent ++ [⟨.hostCpl, a⟩])

def rejected (s t : State) (posted : Bool) : Bool :=
  quietB s t && decide (ccsFld t 0x0203001008 63 48 = 1) && (if posted then decide (t.sent = s.sent) else answered s t [1])

theorem test_endpoint_link : epUp sEp = true ∧ memOn sEp = true ∧ busMaster sEp = true ∧
    (let s := reg sEp [(0x0203001000, 0)]
    nextB (exec (.endpointLinkUp 3 2) s) (fun t => quietB s t && epUp t && decide (ccsFld t 0x0203001000 62 60 = 4 ∧ ccsFld t 0x0203001000 59 57 = 4))) = true ∧
    nextB (exec .endpointLinkDown sEp) (fun t => quietB sEp t && !epUp t) = true ∧
    nextB (exec .sePerst sEp) (fun t => quietB sEp t && !epUp t && t.ep.perst && decide (t.ep.cfg = [])) = true ∧
    (let s := { sEp with ep := { sEp.ep with perst := true } }; nextB (exec .sePerstRelease s) (fun t => quietB s t && decide (t.ep = sEp.ep))) = true := by decide +kernel

theorem test_windows : nextB (exec (.epwinWrite 1 0x8000000000300001) sEp) (fun t => quietB sEp t && decide (ccsGet t (epwin 1) = 0x8000000000300000 ∧ inForce t (epwin 1) = 0)) = true ∧
    (let s := { reg sEp [(epwin 1, 0x8000000000300000)] with pend := [{ addr := epwin 1, was := 0, ticks := 0 }] }
    nextB (exec .epwinEffect s) (fun t => quietB s t && decide (inForce t (epwin 1) = 0x8000000000300000))) = true := by decide +kernel

theorem test_endpoint_resets : nextB (exec .functionLevelReset (reg sEp [(mbReg 0 0x40, 0x4000000000000000)])) (fun t => quietB sEp t && decide (t.ep.cfg = []) && !slotBusy t 0 &&
      decide (ccsFld t (mbReg 0 0x40) 55 48 = 0x0C)) = true ∧
    nextB (exec .busMasterDisable sEp) (fun t => quietB sEp t && !busMaster t) = true ∧
    [true, false].all (fun b => nextB (exec (.unsupportedRequest b) sEp) (fun t => rejected sEp t b)) = true := by decide +kernel

theorem test_config : nextB (exec (.configRequest (.read 1)) sEp) (fun t => quietB sEp t && answered sEp t [0, (cfgGet sEp 1).toNat]) = true ∧
    nextB (exec (.configRequest (.write 0x0F 1 0x55)) sEp) (fun t => quietB sEp t && decide (t.sent.getLast? = some ⟨.hostCpl, [0]⟩ ∧
      cfgGet t 0x0F = (cfgGet sEp 0x0F &&& ~~~(cfgRw 0x0F &&& 0xFF)) ||| (0x55 &&& (cfgRw 0x0F &&& 0xFF)))) = true ∧
    nextB (exec (.configRequest (.tableRead 1)) sEp) (fun t => quietB sEp t && answered sEp t [0, 0x100000000]) = true ∧
    nextB (exec (.configRequest (.tableWrite 1 true true 0x2222222200001234)) sEp) (fun t => quietB sEp t && decide (msixWord t 1 = 0x00001234)) = true ∧
    (let s := cfgPut sEp 1 4
    nextB (exec (.configRequest (.tableRead 1)) s) (fun t => rejected s t false) && nextB (exec (.configRequest (.tableWrite 1 true true 0)) s) (fun t => rejected s t true)) = true := by decide +kernel

theorem test_bar0 : (regAt 0x0203001000).isSome = true ∧ regAt 0x0203000FF8 = none ∧
    nextB (exec (.bar0Access false 0x1000 true 0) sEp) (fun t => quietB sEp t && answered sEp t [0, (ccsReadBy sEp 1 0x0203001000).1.toNat]) = true ∧
    (match ccsWrite sEp 0x0203001008 0 with | some u => is (exec (.bar0Access true 0x1008 true 0) sEp) u | none => false) = true ∧
    [true, false].all (fun b => nextB (exec (.bar0Access b 0x0FF8 true 0) sEp) (fun t => rejected sEp t b)) = true ∧
    [true, false].all (fun b => nextB (exec (.bar0Access b 0x1000 false 0) sEp) (fun t => rejected sEp t b)) = true := by decide +kernel

/-- Window 0 over memory from 0, window 1 over complex control space, window 2 off. -/
theorem test_bar2 : (let s := { reg sEp [(epwin 0, 0x8000000000000000), (epwin 1, 0xC000000000000000)] with mem := [(1, intWord 5), (2, ⟨6, tagPoison⟩), (3, ⟨7, tagSealed⟩)] }
    [true, false].all (fun b => nextB (exec (.bar2WindowAccess 2 0 b [⟨0xFF, 0⟩]) s) (fun t => rejected s t b)) && canOwn s 0 && !guestOwns s 0 &&
    nextB (exec (.bar2WindowAccess 0 1 true [⟨0xFF, 9⟩]) s) (fun t => decide (memGet t 1 = ⟨9, tagBytes⟩ ∧ memGet t 2 = ⟨6, tagPoison⟩)) &&
    nextB (exec (.bar2WindowAccess 0 1 false [⟨0xFF, 0⟩]) s) (fun t => quietB s t && answered s t [0, 5]) &&
    nextB (exec (.bar2WindowAccess 0 2 false [⟨0xFF, 0⟩]) s) (fun t => quietB s t && answered s t [8, 6]) &&
    nextB (exec (.bar2WindowAccess 0 3 false [⟨0xFF, 0⟩]) s) (fun t => quietB s t && answered s t [4]) &&
    nextB (exec (.bar2WindowAccess 1 0 false [⟨0xFF, 0⟩]) s) (fun t => quietB s t && answered s t [0, 0xB1C75E2781004100])) = true := by decide +kernel

/-! ### Mailbox -/

/-- Slot 0 with a command, its arguments, BUSY or not; `rung` where its work has not begun. -/
def sMb (cmd : Word) (args : List (Nat × Word)) (busy : Bool) : State :=
  let s := reg sEp ([(mbReg 0 0, cmd)] ++ args.map (fun x => (mbReg 0 (8 + 8 * x.1), x.2)) ++ [(mbReg 0 0x40, if busy then 0x4000000000000005 else 0)])
  if busy then s.modEp (fun e => { e with rung := [0] }) else s

def ends (s t : State) (st : Nat) : Bool := quietB s t && decide (ccsFld t (mbReg 0 0x40) 63 62 = 2 ∧ ccsFld t (mbReg 0 0x40) 55 48 = st)

theorem test_doorbell : (let s := sMb 0x0400000000000000 [] false
    decide (mailFault s 0 = none) && nextB (exec (.doorbell 0 true) s) (fun t => quietB s t && slotBusy t 0 && decide (t.ep.rung = [0] ∧ ccsFld t (mbReg 0 0x40) 31 0 = ccsFld s 0x0203001030 31 0))) = true ∧
    (let s := sMb 0x7F00000000000000 [] false
    (match mailFault s 0 with | some c => nextB (exec (.doorbell 0 true) s) (fun t => ends s t c) | none => false)) = true ∧
    (let s := sMb 0x0400000000000000 [] true
    nextB (exec (.doorbell 0 true) s) (fun t => quietB s t && slotBusy t 0 && decide (ccsFld t 0x0203001008 15 0 = 1)) &&
    nextB (exec (.doorbell 0 false) s) (fun t => quietB s t && decide (t.ep.rung = [0] ∧ ccsFld t 0x0203001008 63 48 = 1))) = true := by decide +kernel

theorem test_restart : (let s := sMb 0x0400000000000000 [(0, 0)] true
    awaits s 0 4 && nextB (exec (.restart 0) s) (fun t => ends s t 1 && decide ((t.pu 0).restart = some 0))) = true ∧
    (let s := reg (sMb 0x0400000000000000 [(0, 0)] true) [(0x0100800000, 0x4000000000000000)]
    nextB (exec (.restart 0) s) (fun t => ends s t 0x0A)) = true := by decide +kernel

theorem test_firmware : (let s := sMb 0x8000000000000000 [] true
    nextB (exec (.firmwareMessage 0) s) (fun t => quietB s t && decide (t.serv = [5] ∧ t.ep.rung = [])) &&
    nextB (exec (.epfwdone 0 0x33) s) (fun t => ends s t 0x33)) = true ∧
    (let s := sMb 0x8000000000000000 [] false
    nextB (exec (.epfwdone 0 0x33) s) (fun t => quietB s t && !slotBusy t 0 && decide (ccsFld t 0x0203001008 15 0 = 1))) = true ∧
    nextB (exec .epattnset sEp) (fun t => quietB sEp t && decide (ccsFld t 0x0203001018 0 0 = 1)) = true := by decide +kernel

theorem test_copies : (let s := sMb 0x0200000000000000 [(0, 0x9000), (1, 0x1000), (2, 16)] true
    awaits s 0 2 && nextB (exec (.copyin 0) s) (fun t => quietB s t && decide (t.sent.head? = some ⟨.hostRead, [0, 0x9000, 16]⟩))) = true ∧
    (let s := { sMb 0x0300000000000000 [(0, 0x9000), (1, 0x1000), (2, 16)] true with mem := [(0x200, intWord 3), (0x201, ⟨4, tagSealed⟩)] }
    awaits s 0 3 && decide (copyWords s 2 0x1000 = ([3], some true)) && nextB (exec (.copyout 0) s) (fun t => decide (t.sent.head? = some ⟨.hostWrite, [0x9000, 3]⟩) && ends s t 9 &&
      decide (ccsGet t (mbReg 0 0x48) = 8))) = true := by decide +kernel

theorem test_completions : (let r : HostRead := { tag := 0, slot := some 0, off := 8, left := 8, gone := false }
    let c : Copy := { slot := 0, out := false, host := 0x9000, addr := 0x1000, len := 16, tag := tagInt, asked := 16, done := 8, held := [] }
    let s := (sMb 0x0200000000000000 [] true).modEp (fun e => { e with reads := [r], copies := [c], rung := [] })
    canOwn s 0x40 && nextB (exec (.hostCompletion 0 0 false [7]) s) (fun t => decide (memGet t 0x201 = intWord 7 ∧ t.ep.reads = [] ∧ ccsFld t (mbReg 0 0x40) 55 48 = 1 ∧ ccsGet t (mbReg 0 0x48) = 16)) &&
    nextB (exec (.hostCompletion 0 1 false []) s) (fun t => ends s t 8) && !bit (cfgGet s 0x22).toNat 4 &&
    nextB (exec (.completionTimeout 0) s) (fun t => ends s t 7 && decide (t.ep.reads = []))) = true := by decide +kernel

theorem test_aborts : [(Instr.abortPu 0, 1), (.abortIoq 0, 2), (.abortChannelEngine 0, 3), (.abortBellows 0, 4), (.abortMute 0, 5)].all (fun (j, kind) =>
    let s := sMb 0x0100000000000000 [(0, BitVec.ofNat 64 (kind * 2 ^ 56))] true
    awaits s 0 1 && nextB (exec j s) (fun t => quietB s t && decide (t.ep.rung = [] ∧ t.ep.aborts.map (fun a => (a.slot, a.kind, a.status)) = [(0, kind, (abortAct s kind 0).2.2.1)]))) = true ∧
    (let s := (sMb 0x0100000000000000 [(0, 0x0100000000000000)] true).modEp (fun e => { e with abortCnt := 32 })
    awaits s 0 1 && is (exec (.abortPu 0) s) s) = true ∧
    (abortAct sTri 1 0).2.2.1 = 1 ∧ puState (abortAct sTri 1 0).1 0 = 2 ∧
    (let s := (sMb 0x0100000000000000 [] true).modEp (fun e => { e with rung := [], aborts := [{ slot := 0, kind := 4, target := 0, status := 1, res0 := 5, res1 := 6 }] })
    nextB (exec (.abortComplete 0) s) (fun t => ends s t 1 && decide (ccsGet t (mbReg 0 0x48) = 5 ∧ ccsGet t (mbReg 0 0x50) = 6))) = true := by decide +kernel
/-! ### Time of day -/

/-- TODCTL in force: LOCK as given, 10 µs window, PPS_OUT on, 1 ms pulses, SYNC_OUT period 1 s. -/
def tctl (lock : Word) : Word := (lock <<< 63) ||| 0x400F4240000A0001

/-- TOD at second 10 and a fraction, STATE as given. -/
def sTod (st : Word) (frac : Nat) (c : Clock) : State :=
  { reg sTri [(todctl, tctl 1), (todstat, st <<< 62)] with
    tod := 10 * 2 ^ 64 + frac, clock := c, boot := { Boot.reset with resetN := true, ran := true } }

/-- The next edge comes `off` units after second `n`. -/
def pulseAt (n off : Nat) : Pulse := { tod := n * 2 ^ 64 + off, e := ppsError (n * 2 ^ 64 + off) }

theorem test_tod_tick_hypotheses : (let s := sTod 0 5 { Clock.reset with set := some 12 }
    s.boot.pwrGood && s.boot.ran && decide (s.clock.step = none ∧ s.clock.steer = none ∧ s.clock.servo = none ∧
      (s.tod + (s.clock.rem + todGain s) / 10 ^ 6) % 2 ^ 128 / 2 ^ 64 < 12 ∧ (sTod 0 5 Clock.reset).clock.set = none)) = true := by decide +kernel

/-- A write of TODCTL with a period that does not divide 1 s, one that does. -/
theorem test_tod_writes : nextB (exec (.todset 77) sTri) (fun t => quietB sTri t && decide (t.clock.set = some 77 ∧ ccsFld t todstat 60 59 = 1)) = true ∧
    nextB (exec (.todctlWrite 0xFFF003E8000A0001) sTri) (fun t => quietB sTri t && decide (ccsGet t todctl = 0xE00003E8000A0001 ∧ inForce t todctl = inForce sTri todctl)) = true ∧
    [(0x00000007000A0001 : Word), 0x0000000000000001, 0x000003E800000001, 0x000003E8000A0000, 0x000003E8000A03E8].all (fun v =>
      nextB (exec (.todctlWrite v) sTri) (fun t => quietB sTri t && decide (ccsGet t todctl = ccsGet sTri todctl ∧ ccsFld t todstat 58 58 = 1))) = true ∧
    nextB (exec (.todctlWrite 0x000003E8000A03E7) sTri) (fun t => decide (ccsGet t todctl = 0x000003E8000A03E7)) = true ∧
    (forceFld sTri todctl 63 63 == 0 && nextB (exec (.todsteerWrite 0x100000005) sTri) (fun t => quietB sTri t && decide (t.clock.steer = some 5))) = true ∧
    (let s := sTod 1 0 Clock.reset
    forceFld s todctl 63 63 == 1 && nextB (exec (.todsteerWrite 5) s) (fun t => quietB s t && decide (t.clock = s.clock ∧ ccsFld t todstat 58 58 = 1))) = true := by
  decide +kernel

/-- An edge at the start of the shutter, 2^62 units into the second: 0.25 s, 8e9 units of 31.25 ps; one that follows an edge not
yet judged. -/
theorem test_pps_edge : (let s := sTod 1 (2 ^ 62) Clock.reset
    s.boot.pwrGood && nextB (exec (.ppsEdge 0) s) (fun t => quietB s t && decide (t.clock.pulse = some ⟨10 * 2 ^ 64 + 2 ^ 62, 8000000000⟩ ∧ ccsFld t todstat 31 16 = 0))) = true ∧
    (let s := sTod 1 (2 ^ 62) { Clock.reset with pulse := some ⟨0, 0⟩ }
    nextB (exec (.ppsEdge 0) s) (fun t => decide (ccsFld t todstat 31 16 = 1))) = true := by decide +kernel

theorem test_pulse_low_or_free : (let s := sTod 0 0 { Clock.reset with pulse := some (pulseAt 10 (2 ^ 44)) }
    nextB (exec (.ppsPulseAccept false) s) (fun t => quietB s t && decide (t.clock.pulse = none ∧ ccsFld t todstat 31 16 = 1 ∧ ccsGet t toderr = 0)) &&
    decide (todState s = 0) && nextB (exec (.ppsPulseAccept true) s) (fun t => quietB s t && decide (ccsFld t toderr 31 0 = 30518 ∧ t.clock = { s.clock with pulse := none }))) = true := by
  decide +kernel

theorem test_pulse_acquire : (let s := sTod 1 0 { Clock.reset with pulse := some (pulseAt 10 0) }
    decide (todState s = 1) && nextB (exec (.ppsPulseAccept true) s) (fun t => quietB s t && decide (todState t = 1 ∧ t.clock.cands = [10 * 2 ^ 64]))) = true ∧
    (let s := sTod 1 0 { Clock.reset with pulse := some (pulseAt 10 0), cands := [9 * 2 ^ 64] }
    inWin s 0 && nextB (exec (.ppsPulseAccept true) s) (fun t => quietB s t && decide (todState t = 2 ∧ t.clock.cands = [] ∧ t.clock.step = none))) = true ∧
    (let s := sTod 1 0 { Clock.reset with pulse := some (pulseAt 10 (2 ^ 62)), cands := [9 * 2 ^ 64 + 2 ^ 62] }
    !inWin s (pulseAt 10 (2 ^ 62)).e && nextB (exec (.ppsPulseAccept true) s) (fun t => quietB s t && decide (todState t = 2 ∧ t.clock.step = some (3 * 2 ^ 62, false)))) = true := by
  decide +kernel

/-- An error of 1 s x 2^-20, 30518 units: FREQ falls by its 64th, STEER by its 4th more, in units of 2^-48. -/
theorem test_pulse_locked : (let s := sTod 2 0 { Clock.reset with pulse := some (pulseAt 10 (2 ^ 44)) }
    decide (2 ≤ todState s ∧ s.clock.accSec ≠ some 10) && inWin s 30518 &&
    nextB (exec (.ppsPulseAccept true) s) (fun t => quietB s t && decide (todState t = 2 ∧ ccsFld t toderr 31 0 = 30518 ∧ ccsFld t toderr 63 32 = 1 ∧ t.clock.accSec = some 10 ∧
      t.clock.servo = some (2 ^ 32 - 4194362, 2 ^ 32 - 4194362 - 67109792)))) = true ∧
    (let s := sTod 2 0 { Clock.reset with pulse := some (pulseAt 10 (2 ^ 62)) }
    !inWin s 8000000000 && nextB (exec (.ppsPulseAccept true) s) (fun t => quietB s t && decide (todState t = 2 ∧ t.clock.servo = none ∧ ccsFld t todstat 31 16 = 1))) = true := by
  decide +kernel

/-- Second 9's window, with no pulse in it; the 16th miss; one accepted. -/
theorem test_window_close : (let s := sTod 2 0 { Clock.reset with closed := 8 }
    decide (s.clock.pulse = none ∧ s.clock.closed + 1 ≤ passedSec s ∧ todState s = 2 ∧ s.clock.accSec ≠ some 9)) = true ∧
    [(14, 3), (15, 1)].all (fun (m, st) => let s := sTod 3 0 { Clock.reset with closed := 8, misses := m }
      nextB (exec .ppsWindowClose s) (fun t => quietB s t && decide (todState t = st))) = true ∧
    (let s := sTod 2 0 { Clock.reset with closed := 8, accSec := some 9 }
    is (exec .ppsWindowClose s) { s with clock := { s.clock with closed := 9 } }) = true := by decide +kernel

theorem test_tod_step_hypotheses : (let s := sTod 2 0 { Clock.reset with step := some (2 ^ 62, true) }
    decide (s.clock.step = some (2 ^ 62, true) ∧ s.clock.set = none)) = true := by decide +kernel

/-- PPS_OUT rises with the second and stays for 1 ms (18446744073709551 units of 2^-64 s). -/
theorem test_timing_outputs : [(0, false, true), (4503599628, false, false), (4503599628, true, true), (18446744073709550, true, true), (18446744073709552, true, false)].all
    (fun (f, was, is) => let s := sTod 0 f { Clock.reset with ppsOut := was, syncOut := true }
      nextB (exec (.timingOutputEdge 0) s) (fun t => quietB s t && decide (t.clock.ppsOut = is ∧ t.clock.syncOut = false))) = true := by decide +kernel

theorem test_clock_comparator : nextB (exec (.clockComparator 0) sTri) (fun t => quietB sTri t && decide ((t.pu 0).clkPend = clockDue sTri 0)) = true := by decide +kernel
/-! ### Resets and partitions -/

/-- The boot sequencer in a phase, out of reset, partition 0's PU 0 in RUN. -/
def sPh (p : Nat) : State :=
  { reg sTri [(0x1008, BitVec.ofNat 64 (p * 2 ^ 60))] with boot := { Boot.reset with resetN := true, ran := true } }

theorem test_pwrgood : (let s := { sPh 8 with boot := { Boot.reset with pwrGood := false } }
    nextB (exec .pwrgoodRise s) (fun t => t.boot.pwrGood && decide (t.regs = [] ∧ t.mem = [] ∧ t.pus = [] ∧ t.pending = s.pending))) = true ∧
    nextB (exec .pwrgoodFall (sPh 8)) (fun t => !t.boot.pwrGood && decide (t.regs = [] ∧ t.mem = [] ∧ t.pus = [])) = true := by decide +kernel

theorem test_canonical_booted : (let s := sPh 8; Memory.wf s.mem && spWf regDefault s.regs && spWf (fun _ => Pu.reset) s.pus &&
    (let s := reg s [(mbReg 3 0x40, 0x4000000000000000)]; spWf regDefault s.regs)) = true := by decide +kernel

theorem test_resets : (let s := sPh 8
    s.boot.resetN && nextB (exec .resetNLow s) (fun t => decide (t.mem = s.mem ∧ (t.pu 0).arch = Pu.reset.arch ∧ t.tod = s.tod ∧ ccsFld t 0x1008 59 58 = 1 ∧ phase t = 1 ∧
      puState t 0 = 0 ∧ puPart t 0 = 0) && !modSealed t)) = true ∧
    (let s := reg (sPh 8) [(mbReg 3 0x40, 0x4000000000000000)]
    slotBusy s 3 && nextB (exec .sysreset s) (fun t => decide (t.mem = s.mem ∧ ccsFld t 0x1008 59 58 = 2 ∧ phase t = 1 ∧ ccsFld t (mbReg 3 0x40) 55 48 = 0x0C) && !slotBusy t 3)) = true ∧
    nextB (exec .resetNRise State.reset) (fun t => quietB State.reset t && t.boot.resetN && t.boot.ran && !t.dbg.extest) = true ∧
    (let s := { sPh 1 with boot := { (sPh 1).boot with wb := true } }
    s.boot.wb && nextB (exec .systemResetWritebackComplete s) (fun t => decide (t.mem = s.mem ∧ t.dir = [] ∧ t.l3 = []) && !t.boot.wb)) = true := by decide +kernel

/-- All dies but CD5 pass. -/
theorem test_arrays : bootGoes (sPh 1) 1 = true ∧
    nextB (exec (.arraysComplete 0x1F true true true true 0x3F) (sPh 1)) (fun t => decide (phase t = 2 ∧ puState t 55 = 4 ∧ puState t 45 = 0)) = true ∧
    nextB (exec (.arraysComplete 0x3F true false true true 0x3F) (sPh 1)) (fun t => decide (phase t = 1 ∧ ccsFld t 0x1008 7 0 = 1)) = true ∧
    nextB (exec (.arraysComplete 0x3F true true true false 0x3F) (sPh 1)) (fun t => decide (phase t = 1 ∧ ccsFld t 0x1008 7 0 = 3)) = true := by decide +kernel

theorem test_training : bootGoes (sPh 2) 2 = true ∧
    nextB (exec (.memoryTrainingComplete [⟨0, 0, true, 1, 64⟩]) (sPh 2)) (fun t => decide (phase t = 3 ∧ t.mem = [])) = true ∧
    nextB (exec (.memoryTrainingComplete []) (reg (sPh 2) [(0x1008, 0x2600000000000000)])) (fun t => decide (phase t = 5)) = true := by decide +kernel

/-- Every pair of CD0 passes, the other dies fenced. -/
theorem test_selftest : (let s := reg (sPh 5) ((List.range 5).map (fun d => (dieReg (d + 1) 0, 0x8000000000000000)))
    bootGoes s 5 && !dieFenced s 0 && dieFenced s 1 && (List.range 34).all (coreGood 0x1FFFF 0x1FFFF 0) &&
    nextB (exec (.selftestComplete 0x1FFFF 0x1FFFF) s) (fun t => decide (phase t = 7 ∧ sifree t 0 = 15 ∧ puState t 9 = 0 ∧ puMode t 9 = 0 ∧ puPart t 9 = 0))) = true := by
  decide +kernel

theorem test_seals : nextB (exec .moduleSeal sTri) (fun t => quietB sTri t && modSealed t) = true ∧
    is (exec (.partitionSeal 5) sTri) sTri = true ∧
    (let s := reg sTri [(0x1030, 0x8000000000000000)]
    modSealed s && nextB (exec (.partitionSeal 5) s) (fun t => quietB s t && partSealed t 5) && nextB (exec (.partitionSeal 0) s) (fun t => quietB s t && partSealed t 0)) = true := by
  decide +kernel

/-- A PU in SPARE, one in RUN, one STOPPED that the firmware runs on. -/
theorem test_pupart : (puState sTri 1 == 0 && nextB (exec (.pupartWrite 1 3) sTri) (fun t => decide (puPart t 1 = 3 ∧ puState t 1 = 2 ∧ (t.pu 1).arch = Pu.reset.arch ∧ t.mem = sTri.mem ∧
      (t.pu 0).arch = (sTri.pu 0).arch))) = true ∧
    is (exec (.pupartWrite 0 3) sTri) sTri = true ∧
    (let s := reg sTri [(0x0100800000, 0x2003000000000000)]
    puState s 0 == 2 && nextB (exec (.pupartWrite 0 0) { s with boot := { s.boot with fwPu := some 0 } }) (fun t => decide (puState t 0 = 0 ∧ puPart t 0 = 0 ∧ (t.pu 0).arch = Pu.reset.arch))) = true := by
  decide +kernel

/-! ### Boot commands -/

def withJob (s : State) (j : BootJob) : State := { reg s [(0x1028, 0x8000000000000000)] with boot := { s.boot with job := some j } }

/-- The boot command ended. -/
def bootEnded (t : State) (status : Nat) : Bool := decide (ccsFld t 0x1028 63 63 = 0 ∧ ccsFld t 0x1028 55 48 = status ∧ t.boot.job = none)

theorem test_boot_busy : (let s := withJob (sPh 4) (.loadmc 7 [(0, 5)])
    [Instr.loadmc, .startfw 0, .iplchan 0 1, .iplmem 0 1, .preset 1].all (fun j => nextB (exec j s) (fun t => quietB s t && decide (t.boot = s.boot ∧ ccsFld t 0x1028 62 62 = 1))) &&
    nextB (exec .loadmcComplete s) (fun t => quietB s t && bootEnded t 1 && decide (phase t = 5 ∧ ccsFld t 0x1008 57 57 = 1 ∧ ccsFld t 0x1008 47 32 = 7 ∧ t.micro = [(0, 5)]))) = true ∧
    nextB (exec .loadmc (sPh 4)) (fun t => quietB (sPh 4) t && bootEnded t 3 && decide (phase t = 4)) = true := by decide +kernel

/-- The image header of LOADMC; the words after it are still UNINIT, which LOADMC may read. -/
def sImage : State := { sPh 3 with mem := [(0x2000, ⟨0xB1C75E2781004100, tagInt⟩), (0x2001, ⟨0x0100000700006000, tagInt⟩)] }

theorem test_loadmc_header : (let s := reg sImage [(0x1018, 0x10000)]
    decide (s.boot.job = none ∧ phase s = 3 ∧ bootAddr s % 8 = 0 ∧ bits 0x0100000700006000 63 56 = 1 ∧ bits 0x0100000700006000 14 0 = 24576)) = true := by decide +kernel

/-- An image of one word, 0, whose CRC-32C is 0x8C28B28A, and a PSW of PL0 at 0x100. -/
def sFw : State :=
  reg { sPh 7 with
    mem := [(0x2000, ⟨0xB1C75E2781004100, tagInt⟩), (0x2001, ⟨0x0300000000000000, tagInt⟩), (0x2002, ⟨0x48, tagInt⟩),
      (0x2003, ⟨0x8C28B28A, tagInt⟩), (0x2004, ⟨0, tagInt⟩), (0x2005, ⟨0x100, tagInt⟩), (0x2006, intWord 0), (0x2007, intWord 0), (0x2008, intWord 0)] }
    [(0x1018, 0x10000)]

theorem test_startfw_hypotheses : (decide (sFw.boot.job = none ∧ phase sFw = 7 ∧ puState sFw 1 = 0 ∧ 8192 ≤ bootAddr sFw ∧ bootAddr sFw % 8192 = 0) && startReady sFw 0xE000 && pswValid 0x100 0 &&
    decide (pswPL 0x100 = 0) && !pswT 0x100 &&
    (match readWords sFw 0x10000 8, readWords sFw 0x10040 1 with
    | some hs, some body =>
      let w (i : Nat) : Nat := (hs.getD i uninitWord).data.toNat
      decide (w 0 = 0xB1C75E2781004100 ∧ bits (w 1) 63 56 = 3 ∧ w 2 = 0x48 ∧ w 3 = (crc32c (wordBytes (body.map (·.data)))).toNat ∧ w 4 * 2 ^ 64 + w 5 = 0x100)
    | _, _ => false)) = true := by decide +kernel

/-- PU 1 STOPPED in partition 3, whose zone 0 begins at 1 MiB and holds a PSW of PL1 at 0x100. -/
def sIpl : State :=
  reg { sPh 8 with mem := [(0x20400, intWord 0x08C0000000000000), (0x20401, intWord 0x100)] }
    [(0x0100810000, 0x2000000000000000), (0x0100810050, 3), (partReg 3 0, 0x8000000000000000), (partReg 3 0x100, 0x8000000000100000), (0x1030, 0x8000000000000000)]

theorem test_ipl : startReady sIpl 0x100000 = true ∧ decide (sIpl.boot.job = none ∧ iplFault sIpl 1 3 = none ∧ iplBase sIpl 3 = 0x100000) = true ∧
    decide (readWords sIpl 0x102000 2 = some [intWord 0x08C0000000000000, intWord 0x100]) = true ∧
    (let psw : BitVec 128 := 0x08C00000000000000000000000000100
    decide (pswPL psw = 1 ∧ pswPart psw = 3) && pswValid psw 3) = true ∧
    decide (iplFault sIpl 2 3 = some 5) = true ∧
    [Instr.iplchan 2 3, .iplmem 2 3].all (fun j => nextB (exec j sIpl) (fun t => quietB sIpl t && bootEnded t 5)) = true ∧
    (!ioqReady sIpl 3 0 && nextB (exec (.iplchan 1 3) sIpl) (fun t => quietB sIpl t && bootEnded t 8)) = true := by decide +kernel
/-- sIpl with IOQ 0 and a path, IOQs 0 to 255 partition 3's. -/
def sIplChan : State :=
  { reg sIpl [(0x0201000008, 0x4000000000000000), (0x0201100000, 0x8000000000000000), (0x0201300000, 0x8000000000000000), (0x0202000028, 0x8000000000000000),
      (0x23800, 0x8000000000000100)] with pairs := [(0, { noPair with oper := true })] }

/-- The start of an IPL has ended, as given in bits 63:60 of its first word. -/
def sIplEnd (code : Word) : State :=
  { withJob sIpl (.ipl 1 3 0 9) with stats := [{ id := 4, ioq := 0, xid := 9, ending := true, words := [code <<< 60] }] }

theorem test_iplchan : decide (iplFault sIplChan 1 3 = none ∧ sIplChan.boot.job = none) = true ∧ ioqReady sIplChan 3 0 = true ∧
    nextB (exec (.iplchan 1 3) sIplChan) (fun t => quietB sIplChan t && decide (t.boot.job = some (.ipl 1 3 0 0) ∧ ccsFld t 0x1028 63 63 = 1 ∧ t.starts.length = 1)) = true ∧
    decide ((sIplEnd 1).stats.find? (fun y => y.ioq == 0 && y.xid == 9 && y.ending) = some { id := 4, ioq := 0, xid := 9, ending := true, words := [0x1000000000000000] }) = true ∧
    nextB (exec .iplchanEnd (sIplEnd 2)) (fun t => quietB (sIplEnd 2) t && bootEnded t 0x0A) = true := by decide +kernel

/-- A port of partition 3 that trains; PU 1 STOPPED, in lockup; no port. -/
def sPreset : State := (reg (withJob sIpl (.preset 3 0)) [(0x0100C00008, 0x4000000000000000), (0x0100C00010, 0x8000000000000003), (0x50000, 64 <<< 11)]).modGp 0 (fun g => { g with quiet := true })

theorem test_preset : nextB (exec (.preset 3) sIpl) (fun t => quietB sIpl t && decide (t.boot.job = some (.preset 3 0) ∧ ccsFld t 0x1028 63 63 = 1)) = true ∧
    (let s := sPreset
    let s := reg s [(0x0100C00008, 0x6000000000000000)]
    decide (0 + 64 ≤ shCount s ∧ gpBound s 0 = some 3) && !portSettled s 0 && nextB (exec (.presetFlushTimeout 0) s) (fun t => decide (lstate t 0 = 0))) = true ∧
    (let s := reg (withJob sIpl (.preset 3 0)) [(0x0100810E00, 0x8000000000000000)]
    puLocked s 1 && decide (portsOf s 3 = [] ∧ pusOf s 3 = [1] ∧ puState s 1 = 2) &&
    nextB (exec .presetComplete s) (fun t => bootEnded t 1 && decide (t.mem = s.mem ∧ (t.pu 1).arch = Pu.reset.arch ∧ t.pu 0 = s.pu 0) && !puLocked t 1)) = true := by decide +kernel

/-! ### Open microstore -/

/-- Partition 3 with PU 1 in RUN, an image key, and at 0x10000 the header of an image of one microword. -/
def sOm : State :=
  { reg sTri [(0x0100810000, 0x1000000000000000), (0x0100810050, 3), (partReg 3 0x308, 0x10000)] with
    mem := [(0x2000, ⟨0xB1C75E2781004100, tagInt⟩), (0x2001, ⟨0x0200000000030001, tagInt⟩)], imageKeys := [(3, 8)] }

/-- Its loader at work, PU 1 stopped. -/
def sOmAt (load : Bool) : State :=
  { reg sOm [(0x0100810000, 0x2000000000000000), (omstat 3, 0x8000000000000000)] with loader := some ⟨3, load, 1, false⟩, images := [(3, ⟨[], []⟩)] }

def omEnded (t : State) (status : Nat) : Bool := decide (t.loader = none ∧ ccsFld t (omstat 3) 63 63 = 0 ∧ ccsFld t (omstat 3) 55 48 = status)

def okIs (r : Except Nat Nat) (n : Nat) : Bool := match r with | .ok k => k == n | .error _ => false
def errIs (r : Except Nat Nat) (n : Nat) : Bool := match r with | .ok _ => false | .error k => k == n

/-- ENROLL of a partition without a key fails; LOAD and UNLOAD begin; a LOAD with another partition's image does not. -/
theorem test_open_microstore_begin : (!partSealed sOm 3 && decide (sOm.loader = none ∧ pusOf sOm 3 = [1]) && okIs (headerCheck sOm 3) 1) = true ∧
    nextB (exec (.enroll 3) sOm) (fun t => quietB sOm t && omEnded t 0x20 && decide (spFind t.imageKeys 3 = some 8)) = true ∧
    [(Instr.load 3, true), (.unload 3, false)].all (fun (j, l) => nextB (exec j sOm) (fun t => quietB sOm t && decide (t.loader = some ⟨3, l, if l then 1 else 0, false⟩ ∧ ccsFld t (omstat 3) 63 63 = 1))) = true ∧
    (let s := { sOm with mem := [(0x2000, ⟨0xB1C75E2781004100, tagInt⟩), (0x2001, ⟨0x0200000000040001, tagInt⟩)] }
    errIs (headerCheck s 3) 0x12 && nextB (exec (.load 3) s) (fun t => quietB s t && omEnded t 0x12)) = true ∧
    [Instr.enroll 3, .load 3, .unload 3].all (fun j => nextB (exec j (sOmAt true)) (fun t => quietB (sOmAt true) t && decide (t.loader = (sOmAt true).loader ∧ ccsFld t (omstat 3) 62 62 = 1))) = true := by
  decide +kernel

theorem test_open_microstore_end : (pusOf (sOmAt true) 3).all (fun n => puState (sOmAt true) n != 1 && !((sOmAt true).pu n).loaderStop) = true ∧
    nextB (exec .openMicrostoreCommandComplete (sOmAt false)) (fun t => quietB (sOmAt false) t && omEnded t 1 && decide (spFind t.images 3 = none)) = true ∧
    (let s := sOmAt true; okIs (headerCheck s 3) 1 && (readWords s (omsrc s 3) (0x48 + 1)).isSome && decide (spFind s.imageKeys 3 = some 8)) = true := by decide +kernel

/-! ### Debug port -/

def sDbg (f : Debug → Debug) : State := { sTri with dbg := f { Debug.reset with unlocked := true } }

def dbgEnds (s t : State) (pu status : Nat) : Bool := quietB s t && decide (t.dbg.ir = 0x21 ∧ t.dbg.status = status ∧ t.dbg.pu = pu)

theorem test_scan : nextB (exec .ident sTri) (fun t => quietB sTri t && decide (t.dbg.ir = 0x10 ∧ t.dbg.dr = (ccsRead sTri 0).toNat)) = true ∧
    nextB (exec (.sample [true]) sTri) (fun t => quietB sTri t && decide (t.dbg.ir = 1 ∧ t.dbg.bsr = [true])) = true ∧
    nextB (exec (.preloadScan [true]) sTri) (fun t => quietB sTri t && decide (t.dbg.ir = 2 ∧ t.dbg.bsr = [true])) = true ∧
    nextB (exec .trstLow (sDbg id)) (fun t => quietB sTri t && !t.dbg.unlocked && decide (t.dbg.ir = 0xFF)) = true ∧
    [Instr.extest, .debugHalt 0, .debugStep 0, .debugResume 0, .debugLock, .dbgacc 0 false 0 uninitWord, .vfselUpdate 5].all (fun j =>
      nextB (exec j sTri) (fun t => quietB sTri t && !t.dbg.unlocked && decide (t.dbg.ir = 0xFF ∧ t.dbg.dr = 0 ∧ t.dbg.vfsel = sTri.dbg.vfsel))) = true ∧
    [(false, (0x00 : BitVec 8)), (true, 0xFF)].all (fun (r, ir) => let s := { sDbg id with boot := { Boot.reset with resetN := r } }
      nextB (exec .extest s) (fun t => quietB s t && decide (t.dbg.ir = ir ∧ t.dbg.extest = !r))) = true := by decide +kernel

/-- A challenge may be answered while the condition of trigger 5 is absent; the eighth failure is the boundary. -/
theorem test_unlock_hypotheses : (!cutLock sTri && decide ((sDbg (fun d => { d with chal := some 5, fails := 7 })).dbg.fails = 7)) = true := by decide +kernel

/-- PU 0 halted, its index and B6 as given. -/
def sHalt : State := { sDbg id with pus := [(0, { sTri.pu 0 with halted := true })] }

theorem test_halt : nextB (exec (.debugHalt 60) (sDbg id)) (fun t => dbgEnds (sDbg id) t 60 3) = true ∧ nextB (exec (.debugHalt 1) (sDbg id)) (fun t => dbgEnds (sDbg id) t 1 3) = true ∧
    (let s := sDbg id
    decide (puState s 0 = 1 ∧ (s.pu 0).latch = [] ∧ (s.pu 0).due = .none) && (s.pu 0).rested && !puLocked s 0 && nextB (exec (.debugHalt 0) s) (fun t => dbgEnds s t 0 1 && (t.pu 0).halted && decide (puMode t 0 = 2))) = true ∧
    (let s := pu0 (sDbg id) (fun p => { p with latch := [{ kind := .deviceRead, addr := 0, resp := none }] })
    !(s.pu 0).rested && nextB (exec (.debugHalt 0) s) (fun t => dbgEnds s t 0 1 && !(t.pu 0).halted && (t.pu 0).haltReq)) = true ∧
    [Instr.debugStep 0, .debugResume 0].all (fun j => nextB (exec j (sDbg id)) (fun t => dbgEnds (sDbg id) t 0 4)) = true ∧
    (!pswW (sHalt.pu 0).psw && nextB (exec (.debugStep 0) sHalt) (fun t => dbgEnds sHalt t 0 1 && (t.pu 0).stepArm)) = true ∧
    nextB (exec (.debugResume 0) sHalt) (fun t => dbgEnds sHalt t 0 1 && !(t.pu 0).halted) = true ∧
    nextB (exec .debugLock sHalt) (fun t => dbgEnds sHalt t 0 1 && !t.dbg.unlocked && !(t.pu 0).halted) = true := by decide +kernel

/-- Debug accesses: to memory, to complex control space (0x1018, BOOTADDR), to registers. -/
def acc (s t : State) (status : Nat) : Bool := quietB s t && decide (t.dbg.ir = 0x22 ∧ t.dbg.accStat = status)

theorem test_dbgacc_memory : (let s := sDbg id
    installed s 0x100 && !guestOwns s 4 && canOwn s 4 && !badTag tagPtr && badTag 8 && badTag 0xE && !badTag 0xF &&
    nextB (exec (.dbgacc 0 false 0x100 uninitWord) s) (fun t => acc s t 1 && decide (t.dbg.accWord = memGet s 0x20)) &&
    nextB (exec (.dbgacc 0 true 0x100 (intWord 7)) s) (fun t => decide (t.dbg.accStat = 1 ∧ memGet t 0x20 = intWord 7 ∧ memGet t 0x21 = memGet s 0x21)) &&
    nextB (exec (.dbgacc 0 true 0x100 ⟨7, 0xB⟩) s) (fun t => acc s t 4) &&
    nextB (exec (.dbgacc 0 false 0x104 uninitWord) s) (fun t => acc s t 3) && nextB (exec (.dbgacc 0 true 0x8000000000000 (intWord 7)) s) (fun t => acc s t 3)) = true := by decide +kernel

theorem test_dbgacc_ccs : (let s := sDbg id
    (regAt 0x1018).isSome && nextB (exec (.dbgacc 1 false 0x1018 uninitWord) s) (fun t => acc s t 1 && decide (t.dbg.accWord.data = (ccsReadBy s 2 0x1018).1)) &&
    nextB (exec (.dbgacc 1 true 0x1018 (intWord 0x4000)) s) (fun t => decide (t.dbg.accStat = 1 ∧ ccsGet t 0x1018 = 0x4000)) &&
    decide (regAt 0x10 = none) && nextB (exec (.dbgacc 1 false 0x10 uninitWord) s) (fun t => acc s t 3)) = true := by decide +kernel

/-- R1 read and written, the 32nd control register, and the indices on both sides of the reserved ones. -/
theorem test_dbgacc_registers : nextB (exec (.dbgacc 2 false 1 uninitWord) (sDbg id)) (fun t => acc (sDbg id) t 2) = true ∧
    nextB (exec (.dbgacc 2 false 1 uninitWord) sHalt) (fun t => acc sHalt t 1 && decide (t.dbg.accWord = intWord 9)) = true ∧
    nextB (exec (.dbgacc 2 true 15 (intWord 3)) sHalt) (fun t => decide (t.dbg.accStat = 1 ∧ t.mem = sHalt.mem ∧ (t.pu 0).reg 15 = intWord 3 ∧ (t.pu 0).reg 1 = intWord 9 ∧ t.pu 1 = sHalt.pu 1)) = true ∧
    nextB (exec (.dbgacc 2 false 0x5F uninitWord) sHalt) (fun t => acc sHalt t 1 && decide (t.dbg.accWord.data = (sHalt.pu 0).ctlReg 31)) = true ∧
    nextB (exec (.dbgacc 2 true 0x40 (intWord 3)) sHalt) (fun t => decide (t.dbg.accStat = 1 ∧ t.pu 0 = (sHalt.pu 0).setCtl 0 3)) = true ∧
    [(0x25, 1), (0x26, 3), (0x3F, 3), (0x60, 3), (0xFF, 3)].all (fun (i, c) => nextB (exec (.dbgacc 2 false i uninitWord) sHalt) (fun t => acc sHalt t c)) = true ∧
    nextB (exec (.dbgacc 3 false 0 uninitWord) sHalt) (fun t => acc sHalt t 3) = true := by decide +kernel

/-- Codes 7, 8, 0x7B, 0x7C, 0xBB, 0xBC of lands 0 to 5: the reserved ones are stored as 0. -/
theorem test_vfsel : nextB (exec (.vfselUpdate 0xBCBB7C7B0807) (sDbg id)) (fun t => quietB (sDbg id) t && decide (t.dbg.ir = 0x30 ∧
    (List.range 6).map (fun k => bits t.dbg.vfsel (8 * k + 7) (8 * k)) = [7, 0, 0x7B, 0, 0xBB, 0])) = true := by decide +kernel
/-! ### Parcels, microwords and opcodes -/

/-- R40's worked example; a bit that turns in one parcel, and the copy that mends it (R41). -/
theorem test_parcels : (List.range 4).map (parcel ⟨0x0102030405060708, tagInt⟩) = [0x30708, 0x00506, 0x20304, 0x00102] ∧
    readStored (stored ⟨0x0102030405060708, tagInt⟩) = some ⟨0x0102030405060708, tagInt⟩ ∧
    readStored (stored ⟨0x0102030405060708, tagInt⟩ ^^^ 1) = none ∧
    readMirrored (stored (intWord 5) ^^^ 8) (stored (intWord 5)) = some (intWord 5) := by decide +kernel

/-- The parity bits of a stored microword (R160). -/
theorem test_microword : storedMicro 0x0000100003 = 0x20000100003 ∧ fetchMicro 0x20000100003 = some 0x100003 ∧ fetchMicro 0x20000100002 = none := by decide +kernel

theorem test_opcodes : opcodeOf (.add h0 (.reg 1) (.reg 2)) = [0x20] ∧ opcodeOf (.customInstruction h0 5 [] ⟨[], [], []⟩) = [0xF0, 0xC5] ∧
    opcodeOf (.shutterTick []) = [] ∧ isPrefix 0xE3 = true ∧ isPrefix 0xF0 = false := by decide +kernel

/-! ### Accesses that wait for a line a guest's agent owns (R236) -/

/-- A line owned by the agent of guest port 0. -/
def heldLine (s : State) (line : Nat) : State := { s with dir := [(line, ⟨.X, 6, 64, 0, false⟩)] }

theorem test_host_waits : (let s := heldLine (reg sEp [(epwin 0, 0x8000000000000000)]) 0
    !canOwn s 0 && nextB (exec (.bar2WindowAccess 0 1 true [⟨0xFF, 9⟩]) s) (fun t => quietB s t && decide (t.ep.tlps = [.window 0x8000000000000000 1 true [⟨0xFF, 9⟩]]) &&
      nextB (exec (.unsupportedRequest true) t) (fun u => decide (u.ep.tlps.length = 2)) &&
      nextB (step { t with dir := [] }) (fun u => decide (u.ep.tlps = [] ∧ memGet u 1 = ⟨9, tagBytes⟩)))) = true := by decide +kernel

theorem test_boot_waits : (let s := heldLine sIpl 0x4000
    !startReady s 0x100000 && !rangeHeld s 0x102000 16 && nextB (exec (.iplmem 1 3) s) (fun t => quietB s t && decide (t.boot.job = some (.held 4 1 3) ∧ ccsFld t 0x1028 63 63 = 1))) = true ∧
    (let s := heldLine sFw 0x380
    !startReady s 0xE000 && !rangeHeld s 0x10000 0x48 && nextB (exec (.startfw 1) s) (fun t => quietB s t && decide (t.boot.job = some (.held 2 1 0) ∧ ccsFld t 0x1028 63 63 = 1))) = true := by decide +kernel

theorem test_load_waits : (let s := heldLine sOm 0x400
    rangeHeld s (omsrc s 3) 16 && nextB (exec (.load 3) s) (fun t => quietB s t && decide (t.loader = some ⟨3, true, 0, false⟩ ∧ ccsFld t (omstat 3) 63 63 = 1) &&
      nextB (exec .openMicrostoreCommandComplete t) (fun u => decide (u.loader = t.loader)) &&
      nextB (exec .openMicrostoreCommandComplete { t with dir := [] }) (fun u => decide (u.loader = some ⟨3, true, 1, false⟩)))) = true := by decide +kernel

theorem test_debug_waits : (let s := heldLine (sDbg id) 4
    guestOwns s 4 && !canOwn s 4 && nextB (exec (.dbgacc 0 false 0x100 uninitWord) s) (fun t => quietB s t && decide (t.dbg = { s.dbg with accRun := some ⟨false, 0x100, uninitWord⟩ }) &&
      nextB (exec (.dbgacc 3 false 0 uninitWord) t) (fun u => decide (u.dbg.accStat = 5 ∧ u.dbg.accRun = t.dbg.accRun))) &&
    nextB (exec (.dbgacc 0 true 0x100 (intWord 7)) s) (fun t => quietB s t && decide (t.dbg = { s.dbg with accRun := some ⟨true, 0x100, intWord 7⟩ }))) = true := by decide +kernel

end Sys2Proof.Tests
end

section
/-! The FPC (R119, R126): the flags of an instruction recorded in it, and what `fpRaise` leaves in its fields. -/

namespace Sys2Proof.Machine

/-! ### Fields by their bits -/

/-- Two numbers that agree on the bits of a field have the same field. -/
theorem bits_congr {x y hi lo : Nat} (h : ∀ k, lo ≤ k → k ≤ hi → x.testBit k = y.testBit k) :
    bits x hi lo = bits y hi lo := by
  apply Nat.eq_of_testBit_eq
  intro k
  rw [testBit_bits, testBit_bits]
  by_cases hk : k < hi + 1 - lo
  · rw [h (lo + k) (by omega) (by omega)]
  · simp [hk]

/-- MULT set: bit 46 and no other. -/
theorem testBit_setMult (w : Word) (k : Nat) : (w ||| (1 <<< 46)).toNat.testBit k = (w.toNat.testBit k || decide (46 = k)) := by
  have hmult : BitVec.toNat (1 <<< 46 : Word) = 2 ^ 46 := rfl
  rw [BitVec.toNat_or, Nat.testBit_or, hmult, Nat.testBit_two_pow]

/-! ### The flags recorded -/

/-- The FPC with an instruction's flags added to FPC.FLAGS. -/
def fpcRecord (fl : Nat) (w : Word) : Word := w ||| BitVec.ofNat 64 (fl * 2 ^ 8)

/-- FLAGS has five bits. -/
theorem testBit_flags_of_le {fl k : Nat} (hfl : fl < 32) (hk : 5 ≤ k) : fl.testBit k = false :=
  Nat.testBit_lt_two_pow (Nat.lt_of_lt_of_le hfl (Nat.pow_le_pow_right (n := 2) (by omega) hk))

theorem testBit_fpcRecord (fl : Nat) (w : Word) (k : Nat) :
    (fpcRecord fl w).toNat.testBit k = (w.toNat.testBit k || (decide (k < 64) && (decide (8 ≤ k) && fl.testBit (k - 8)))) := by
  rw [fpcRecord, BitVec.toNat_or, Nat.testBit_or, BitVec.toNat_ofNat, Nat.testBit_mod_two_pow, Nat.testBit_mul_two_pow]

/-- Outside FLAGS the bits are as they were. -/
theorem testBit_fpcRecord_other {fl : Nat} (hfl : fl < 32) (w : Word) {k : Nat} (hk : k < 8 ∨ 12 < k) :
    (fpcRecord fl w).toNat.testBit k = w.toNat.testBit k := by
  rw [testBit_fpcRecord]
  rcases hk with hlow | hhigh
  · simp [show ¬ 8 ≤ k by omega]
  · simp [testBit_flags_of_le hfl (show 5 ≤ k - 8 by omega)]

theorem bits_fpcRecord_other {fl : Nat} (hfl : fl < 32) (w : Word) {hi lo : Nat} (hd : hi < 8 ∨ 12 < lo) :
    bits (fpcRecord fl w).toNat hi lo = bits w.toNat hi lo :=
  bits_congr fun _ _ _ => testBit_fpcRecord_other hfl w (by omega)

theorem bits_fpcRecord_flags {fl : Nat} (hfl : fl < 32) (w : Word) :
    bits (fpcRecord fl w).toNat 12 8 = bits w.toNat 12 8 ||| fl := by
  apply Nat.eq_of_testBit_eq
  intro k
  rw [testBit_bits, Nat.testBit_or, testBit_bits, testBit_fpcRecord]
  by_cases hk : k < 5
  · simp [hk, show 8 + k < 64 by omega]
  · simp [hk, testBit_flags_of_le hfl (Nat.le_of_not_lt hk)]

/-! ### The three outcomes of R126 -/

/-- The exceptions of an instruction whose TE bit is 1. -/
def fpEnabled (fl : Nat) (w : Word) : Nat := fl &&& bits w.toNat 36 32

theorem fpEnabled_lt {fl : Nat} (hfl : fl < 32) (w : Word) : fpEnabled fl w < 2 ^ 5 := Nat.lt_of_le_of_lt Nat.and_le_left hfl

/-- TE and PEND, which decide the outcome, are as before the flags were recorded. -/
theorem fpRaise_eq {fl : Nat} (hfl : fl < 32) (ia : Nat) (p : Pu) :
    fpRaise fl ia p =
      if fpEnabled fl p.fpc = 0 ∨ p.isBusy 1 then { p with fpc := fpcRecord fl p.fpc }
      else if bit p.fpc.toNat 47 then { p with fpc := fpcRecord fl p.fpc ||| (1 <<< 46) }
      else
        { p with
          fpc := wordSet (wordSet (fpcRecord fl p.fpc) 47 46 2) 44 40 (fpEnabled fl p.fpc)
          fpfia := BitVec.ofNat 64 ia } := by
  have hte : bits (fpcRecord fl p.fpc).toNat 36 32 = bits p.fpc.toNat 36 32 := bits_fpcRecord_other hfl p.fpc (by omega)
  have hpend : bit (fpcRecord fl p.fpc).toNat 47 = bit p.fpc.toNat 47 := testBit_fpcRecord_other hfl p.fpc (by omega)
  rw [fpEnabled, ← hte, ← hpend]
  rfl

/-- Nothing enabled, or class 1 busy: only the flags are recorded. -/
theorem fpRaise_of_held {fl : Nat} (hfl : fl < 32) (ia : Nat) (p : Pu) (h : fpEnabled fl p.fpc = 0 ∨ p.isBusy 1 = true) :
    fpRaise fl ia p = { p with fpc := fpcRecord fl p.fpc } := by
  rw [fpRaise_eq hfl, if_pos h]

/-- An enabled exception with PEND 0: PEND 1, MULT 0, its cause and its address. -/
theorem fpRaise_of_not_pending {fl : Nat} (hfl : fl < 32) (ia : Nat) (p : Pu) (hon : fpEnabled fl p.fpc ≠ 0)
    (hb : p.isBusy 1 = false) (hp : bit p.fpc.toNat 47 = false) :
    fpRaise fl ia p =
      { p with
        fpc := wordSet (wordSet (fpcRecord fl p.fpc) 47 46 2) 44 40 (fpEnabled fl p.fpc)
        fpfia := BitVec.ofNat 64 ia } := by
  rw [fpRaise_eq hfl, if_neg (by simp [hon, hb]), if_neg (by simp [hp])]

/-- An enabled exception with PEND 1: MULT 1. -/
theorem fpRaise_of_pending {fl : Nat} (hfl : fl < 32) (ia : Nat) (p : Pu) (hon : fpEnabled fl p.fpc ≠ 0)
    (hb : p.isBusy 1 = false) (hp : bit p.fpc.toNat 47 = true) :
    fpRaise fl ia p = { p with fpc := fpcRecord fl p.fpc ||| (1 <<< 46) } := by
  rw [fpRaise_eq hfl, if_neg (by simp [hon, hb]), if_pos hp]

/-! ### The fields after an exception -/

/-- A bit of the FPC after the trap becomes pending. -/
theorem testBit_setPending (w : Word) (on k : Nat) :
    (wordSet (wordSet w 47 46 2) 44 40 on).toNat.testBit k =
      if 40 ≤ k ∧ k ≤ 44 then on.testBit (k - 40) else if 46 ≤ k ∧ k ≤ 47 then Nat.testBit 2 (k - 46) else w.toNat.testBit k := by
  rw [toNat_wordSet _ _ _ _ (by omega) (by omega), testBit_setBits _ _ _ _ _ (by omega),
    toNat_wordSet _ _ _ _ (by omega) (by omega), testBit_setBits _ _ _ _ _ (by omega)]

/-- Below PCAUSE an exception changes the FPC in its FLAGS only, whatever becomes of the trap. -/
theorem testBit_fpRaise_low {fl : Nat} (hfl : fl < 32) (ia : Nat) (p : Pu) {k : Nat} (hk : k < 40) :
    (fpRaise fl ia p).fpc.toNat.testBit k = (fpcRecord fl p.fpc).toNat.testBit k := by
  by_cases hheld : fpEnabled fl p.fpc = 0 ∨ p.isBusy 1 = true
  · rw [fpRaise_of_held hfl ia p hheld]
  · obtain ⟨hon, hb⟩ := not_or.mp hheld
    rw [Bool.not_eq_true] at hb
    cases hp : bit p.fpc.toNat 47 with
    | false =>
      rw [fpRaise_of_not_pending hfl ia p hon hb hp, testBit_setPending, if_neg (by omega), if_neg (by omega)]
    | true =>
      rw [fpRaise_of_pending hfl ia p hon hb hp, testBit_setMult]
      simp [show 46 ≠ k by omega]

theorem bits_fpRaise_low {fl : Nat} (hfl : fl < 32) (ia : Nat) (p : Pu) {hi lo : Nat} (hhi : hi < 40) :
    bits (fpRaise fl ia p).fpc.toNat hi lo = bits (fpcRecord fl p.fpc).toNat hi lo :=
  bits_congr fun _ _ _ => testBit_fpRaise_low hfl ia p (by omega)

/-- Settles O19: FLAGS, TE and RM lie below PCAUSE; PEND, MULT, PCAUSE and FPFIA follow the three outcomes of R126. -/
theorem floatFlagsAndDeferredTrap : Obligations.Float_flags_and_deferred_trap := by
  intro fl ia p hfl
  have hother {k : Nat} : 12 < k → (fpcRecord fl p.fpc).toNat.testBit k = p.fpc.toNat.testBit k :=
    fun h => testBit_fpcRecord_other hfl p.fpc (Or.inr h)
  refine ⟨?flags, ?te, ?rm, fun hheld => ?held, fun hon hb hp => ?first, fun hon hb hp => ?again⟩
  case flags => rw [bits_fpRaise_low hfl ia p (by omega), bits_fpcRecord_flags hfl]
  case te => rw [bits_fpRaise_low hfl ia p (by omega), bits_fpcRecord_other hfl p.fpc (by omega)]
  case rm => rw [bits_fpRaise_low hfl ia p (by omega), bits_fpcRecord_other hfl p.fpc (by omega)]
  case held =>
    rw [fpRaise_of_held hfl ia p hheld]
    exact ⟨hother (by omega), hother (by omega), rfl⟩
  case first =>
    rw [fpRaise_of_not_pending hfl ia p hon hb hp]
    refine ⟨testBit_setPending _ _ 47, testBit_setPending _ _ 46, ?_, rfl⟩
    rw [toNat_wordSet _ _ _ _ (by omega) (by omega), bits_setBits_self _ _ _ _ (by omega)]
    exact Nat.mod_eq_of_lt (fpEnabled_lt hfl p.fpc)
  case again =>
    rw [fpRaise_of_pending hfl ia p hon hb hp]
    refine ⟨?pend, ?mult, ?pcause, rfl⟩
    case pend =>
      have hpend : (fpcRecord fl p.fpc).toNat.testBit 47 = true := (hother (by omega)).trans hp
      exact (testBit_setMult _ 47).trans (by simp [hpend])
    case mult => exact (testBit_setMult _ 46).trans (by simp)
    case pcause =>
      refine bits_congr fun k hlo hhi => ?_
      rw [testBit_setMult, hother (by omega)]
      simp [show 46 ≠ k by omega]

end Sys2Proof.Machine
end

section
/-! PRELOAD by the L2 of a PU whose die has failed (R204, R250). A failed die's node accepts nothing further from its own caches,
yet `mayPreload`, unlike `mayOwn`, does not ask whether the die has failed: the directory then names the failed die as the owner
of a line, and the next line that needs the way makes the first one POISON. -/

namespace Sys2Proof.Machine

@[simp] theorem memGet_l2CmdEnd (s : State) (n status w : Nat) : memGet (l2CmdEnd s n status) w = memGet s w := by
  rw [l2CmdEnd, memGet_ccsSet, memGet_ccsSet, memGet_modPu]

/-- A PRELOAD whose lines have all been brought in, or skipped, ends with that state's memory. -/
theorem memGet_preloadComplete {pu : Fin 60} {s t u : State} {a k skip st : Nat} (hcmd : (s.pu pu.val).l2cmd = some (1, a, k))
    (hrun : preloadRun pu.val (plWays s pu.val) k a [] 0 s = some (u, skip, st))
    (hexec : exec (.l2CommandComplete pu) s = .next t) (w : Nat) : memGet t w = memGet u w := by
  have harm : exec (.l2CommandComplete pu) s = execL2CommandComplete pu s := rfl
  simp only [harm, execL2CommandComplete, hcmd, hrun, if_true, Host.Outcome.next.injEq] at hexec
  rw [← hexec, memGet_ccsSet, memGet_l2CmdEnd]

/-- With DRAM and memory alike and the word's owner not lost, moving lines leaves the word as it was. -/
theorem Kept.memGet_eq {s t : State} {a : Nat} (h : Kept s t a) (hdram : s.dram = []) (hown : ownerLost s (a / 8) = false) :
    memGet t a = memGet s a := by
  rcases h with heq | hold | ⟨hlost, _⟩
  · exact heq
  · simp [hdram] at hold
  · simp [hown] at hlost

/-! ### The state of the counterexample -/

/-- The first of the two lines of the PRELOAD. The next one, 2 ^ 35, lies in the same directory set: A[23:6] XOR A[41:24] is 2 ^ 17
for both. -/
def firstPreloaded : Nat := 2 ^ 35 - 1

/-- An open read by PU 10 of a line that no directory entry names yet. -/
def openRead (line : Nat) : Txn where
  req := { op := .rds, who := .pu 10, line := line, wr := [], stash := none, part := 0, txn := 0,
           found := { dir := .clean, dram := .clean }, cycle := 0, port := 0 }
  snoops := []
  src := none
  dirty := false
  held := false
  grant := .E
  alone := true
  got := false
  done := false

/-- 15 of the 16 ways of the set of both lines are taken by open reads. -/
def crowdedSet : List Txn := (List.range 15).map fun j => openRead (firstPreloaded + 1 + (j + 1) * (2 ^ 18 + 1))

/-- PU 0, on die 0, runs a PRELOAD of two lines into way 0; die 1 is their home, with 2 GiB from 2047 GiB. -/
def preloading : State :=
  let s := { State.reset with txns := crowdedSet }.modPu 0 fun p => { p with l2cmd := some (1, firstPreloaded, 2) }
  let s := ccsPut (ccsPut s (l2Reg 0 0x08) 1) (l2Reg 0 0x28) 0x8000000000000000
  ccsPut (ccsPut s (dieReg 1 0x200000) 0x820007FF00000002) (dieReg 1 0x200008) 0x8000000000000002

/-- The same with die 0 failed while the PRELOAD runs. -/
def preloadingFailed : State := failNode preloading 0

theorem preloadingFailed_l2cmd : (preloadingFailed.pu 0).l2cmd = some (1, firstPreloaded, 2) := by decide +kernel

/-- Before the PRELOAD ends the line is sound: DRAM holds what memory holds, no failed node owns the line, its word is no POISON. -/
theorem preloadingFailed_sound : preloadingFailed.dram = [] ∧ ownerLost preloadingFailed (8 * firstPreloaded / 8) = false ∧
    memGet preloadingFailed (8 * firstPreloaded) = uninitWord := by decide +kernel

/-- The second line evicts the first one's directory entry, whose owner, die 0, has failed: the first line is POISON. -/
theorem preloadRun_poisons : (preloadRun 0 (plWays preloadingFailed 0) 2 firstPreloaded [] 0 preloadingFailed).map
    (fun r => memGet r.1 (8 * firstPreloaded)) = some poisonWord := by decide +kernel

/-- Refutes O36: the clause of PRELOAD's completion fails where the PU's die has failed. The command runs to its end, but a word of
memory that nothing had lost becomes POISON, which `MovesLines` excludes. -/
theorem not_l2CommandsActOnTheL2 : ¬ Obligations.L2_commands_act_on_the_l2 := by
  unfold Obligations.L2_commands_act_on_the_l2
  intro hall
  obtain ⟨⟨u, skip, st⟩, hrun, hpoison⟩ := Option.map_eq_some_iff.mp preloadRun_poisons
  obtain ⟨hdram, hown, hword⟩ := preloadingFailed_sound
  obtain ⟨-, -, -, hpreload⟩ := hall 0 preloadingFailed
  obtain ⟨-, hends⟩ := hpreload firstPreloaded 2 preloadingFailed_l2cmd
  obtain ⟨t, hexec, ⟨hkept, -⟩, -⟩ := hends u skip st hrun
  have hpoisoned : memGet t (8 * firstPreloaded) = poisonWord :=
    (memGet_preloadComplete (pu := 0) preloadingFailed_l2cmd hrun hexec (8 * firstPreloaded)).trans hpoison
  have hsame : memGet t (8 * firstPreloaded) = uninitWord := ((hkept _).memGet_eq hdram hown).trans hword
  exact absurd (hpoisoned.symm.trans hsame) (by decide)

end Sys2Proof.Machine
end

section
/-! What the alarm and the random bit generators change of the state (R382, R385 to R388): for each operation, the bits of complex
control space it may write, with memory, the registers that software sees and the pending Cut events of every PU as they were. -/

namespace Sys2Proof.Machine

/-! ### Changes confined to some bits of complex control space -/

/-- Of complex control space only the bits (register, number) in `W` may differ; the event is quiet, and no PU's pending Cut events
change. -/
structure ChangesOnly (W : Nat → Nat → Prop) (s t : State) : Prop where
  quiet : Quiet s t
  cutEv : ∀ n, (t.pu n).cutEv = (s.pu n).cutEv
  bits  : ∀ a k, ¬ W a k → (ccsGet t a).toNat.testBit k = (ccsGet s a).toNat.testBit k

theorem Quiet.refl (s : State) : Quiet s s := ⟨rfl, fun _ => rfl⟩

theorem Quiet.trans {s t u : State} (h : Quiet s t) (k : Quiet t u) : Quiet s u :=
  ⟨k.mem.trans h.mem, fun n => (k.pus n).trans (h.pus n)⟩

namespace ChangesOnly

variable {W W' : Nat → Nat → Prop} {s t u : State}

theorem refl (s : State) : ChangesOnly W s s := ⟨Quiet.refl s, fun _ => rfl, fun _ _ _ => rfl⟩

theorem trans (h : ChangesOnly W s t) (k : ChangesOnly W t u) : ChangesOnly W s u :=
  ⟨h.quiet.trans k.quiet, fun n => (k.cutEv n).trans (h.cutEv n), fun a j hj => (k.bits a j hj).trans (h.bits a j hj)⟩

theorem mono (h : ChangesOnly W s t) (hW : ∀ a k, W a k → W' a k) : ChangesOnly W' s t :=
  ⟨h.quiet, h.cutEv, fun a k hk => h.bits a k fun hw => hk (hW a k hw)⟩

theorem of_foldl {α : Type} {f : State → α → State} {l : List α} (h : ∀ x ∈ l, ∀ s, ChangesOnly W s (f s x)) (s : State) :
    ChangesOnly W s (l.foldl f s) :=
  List.foldlRecOn l f (refl s) fun t ht x hx => ht.trans (h x hx t)

theorem of_ite {p : Prop} [Decidable p] (ht : ChangesOnly W s t) (hu : ChangesOnly W s u) :
    ChangesOnly W s (if p then t else u) := by
  split
  · exact ht
  · exact hu

/-- A change of fields other than memory, the registers and the PUs. -/
theorem of_eq (hmem : t.mem = s.mem) (hregs : t.regs = s.regs) (hpus : t.pus = s.pus) : ChangesOnly W s t := by
  have hpu (n : Nat) : t.pu n = s.pu n := by rw [State.pu, hpus, State.pu]
  have hget (a : Nat) : ccsGet t a = ccsGet s a := by rw [ccsGet, hregs, ccsGet]
  exact ⟨⟨hmem, fun n => by rw [hpu]⟩, fun n => by rw [hpu], fun a k _ => by rw [hget]⟩

theorem modPu (h : ChangesOnly W s t) {n : Nat} {f : Pu → Pu} (harch : ∀ p, (f p).arch = p.arch)
    (hcut : ∀ p, (f p).cutEv = p.cutEv) : ChangesOnly W s (t.modPu n f) := by
  refine h.trans ⟨⟨rfl, fun k => ?arch⟩, fun k => ?cutEv, fun _ _ _ => rfl⟩ <;> rw [pu_modPu] <;> split
  case arch.isTrue h => rw [h, harch]
  case cutEv.isTrue h => rw [h, hcut]
  all_goals rfl

theorem ccsPut (h : ChangesOnly W s t) {a : Nat} (w : Word) (hW : ∀ k, W a k) : ChangesOnly W s (ccsPut t a w) := by
  refine h.trans ⟨⟨rfl, fun _ => rfl⟩, fun _ => rfl, fun b k hk => ?_⟩
  have hb : b ≠ a := fun hb => hk (hb ▸ hW k)
  rw [ccsGet_ccsPut_ne _ _ _ _ hb]

theorem ccsSet (h : ChangesOnly W s t) {a hi lo : Nat} (v : Nat) (hlo : lo ≤ hi + 1) (hhi : hi < 64)
    (hW : ∀ k, lo ≤ k → k ≤ hi → W a k) : ChangesOnly W s (ccsSet t a hi lo v) := by
  refine h.trans ⟨⟨rfl, fun _ => rfl⟩, fun _ => rfl, fun b k hk => ?_⟩
  by_cases hb : b = a
  · subst hb
    have hout : ¬ (lo ≤ k ∧ k ≤ hi) := fun h => hk (hW k h.1 h.2)
    rw [ccsGet_ccsSet_self, toNat_wordSet _ _ _ _ hlo hhi, testBit_setBits _ _ _ _ _ hlo, if_neg hout]
  · rw [ccsGet_ccsSet_ne _ _ _ _ _ _ hb]

/-- A field none of whose bits may change. -/
theorem ccsFld_eq (h : ChangesOnly W s t) {a hi lo : Nat} (hW : ∀ k, lo ≤ k → k ≤ hi → ¬ W a k) :
    ccsFld t a hi lo = ccsFld s a hi lo := bits_congr fun k hl hh => h.bits a k (hW k hl hh)

/-- A register none of whose bits may change. -/
theorem ccsGet_eq (h : ChangesOnly W s t) {a : Nat} (hW : ∀ k, ¬ W a k) : ccsGet t a = ccsGet s a :=
  BitVec.eq_of_toNat_eq (Nat.eq_of_testBit_eq fun k => h.bits a k (hW k))

end ChangesOnly

/-- A fold over different elements, each step of which changes what is observed at its own element alone. -/
theorem foldl_observed {σ α : Type} {f : σ → Nat → σ} {obs : σ → Nat → α} {g : α → α}
    (hself : ∀ s e, obs (f s e) e = g (obs s e)) (hother : ∀ s e e', e' ≠ e → obs (f s e) e' = obs s e')
    {l : List Nat} (hl : l.Nodup) (s : σ) (e : Nat) : obs (l.foldl f s) e = if e ∈ l then g (obs s e) else obs s e := by
  induction l generalizing s with
  | nil => simp
  | cons x l ih =>
    obtain ⟨hx, hl⟩ := List.nodup_cons.1 hl
    rw [List.foldl_cons, ih hl]
    by_cases he : e = x
    · subst he
      simp [hx, hself]
    · simp [he, hother]

/-! ### Everything but registers and PUs as it was -/

/-- Only registers of complex control space and PUs may differ. -/
structure OnlyRegsAndPus (s t : State) : Prop where
  rest : { t with regs := s.regs, pus := s.pus } = s

namespace OnlyRegsAndPus

theorem refl (s : State) : OnlyRegsAndPus s s := ⟨rfl⟩

theorem trans {s t u : State} (h : OnlyRegsAndPus s t) (k : OnlyRegsAndPus t u) : OnlyRegsAndPus s u :=
  ⟨(congrArg (fun x : State => { x with regs := s.regs, pus := s.pus }) k.rest).trans h.rest⟩

/-- A part of the state that reads neither registers nor PUs. -/
theorem proj_eq {β : Type} {s t : State} (h : OnlyRegsAndPus s t) (π : State → β)
    (hπ : ∀ s r p, π { s with regs := r, pus := p } = π s) : π t = π s := (hπ t _ _).symm.trans (congrArg π h.rest)

theorem of_ite {p : Prop} [Decidable p] {s t u : State} (ht : OnlyRegsAndPus s t) (hu : OnlyRegsAndPus s u) :
    OnlyRegsAndPus s (if p then t else u) := by
  split
  · exact ht
  · exact hu

theorem ccsSet {s t : State} (h : OnlyRegsAndPus s t) (a hi lo v : Nat) : OnlyRegsAndPus s (ccsSet t a hi lo v) := h.trans ⟨rfl⟩

theorem modPu {s t : State} (h : OnlyRegsAndPus s t) (n : Nat) (f : Pu → Pu) : OnlyRegsAndPus s (t.modPu n f) := h.trans ⟨rfl⟩

theorem of_foldl {α : Type} {f : State → α → State} (h : ∀ s x, OnlyRegsAndPus s (f s x)) (l : List α) (s : State) :
    OnlyRegsAndPus s (l.foldl f s) :=
  List.foldlRecOn l f (refl s) fun t ht x _ => ht.trans (h t x)

end OnlyRegsAndPus

/-! ### The Mute engines and the link pair -/

theorem mutReg_inj {d e : Nat} (h : mutReg d 0 = mutReg e 0) : d = e := by
  simp only [mutReg, belReg, dieReg] at h
  omega

theorem mutState_setMut_self (s : State) (e st owner : Nat) : mutState (setMut s e st owner) e = st % 4 := by
  rw [mutState, setMut, ccsFld_ccsSet_other _ _ _ _ _ _ _ (by omega) (by omega) (by omega)]
  exact ccsFld_ccsSet_self _ _ _ _ _ (by omega) (by omega)

theorem mutState_setMut_ne (s : State) {d e : Nat} (st owner : Nat) (h : d ≠ e) : mutState (setMut s e st owner) d = mutState s d := by
  have hreg : mutReg d 0 ≠ mutReg e 0 := fun heq => h (mutReg_inj heq)
  rw [mutState, setMut, ccsFld_ccsSet_ne _ _ _ _ _ _ _ _ hreg, ccsFld_ccsSet_ne _ _ _ _ _ _ _ _ hreg, mutState]

theorem changesOnly_setMut {W : Nat → Nat → Prop} (s : State) (e st owner : Nat) (hW : ∀ k, W (mutReg e 0) k) :
    ChangesOnly W s (setMut s e st owner) :=
  ((ChangesOnly.refl s).ccsSet st (by omega) (by omega) fun k _ _ => hW k).ccsSet owner (by omega) (by omega) fun k _ _ => hW k

/-- Freezing of one engine: a fenced one stays fenced (R386). -/
def freezeEngine (s : State) (e : Nat) : State := if mutState s e = 2 then s else setMut s e 3 0x3F

/-- Freezing of one engine of the link pair. -/
def freezeLink (s : State) (hi lo : Nat) : State :=
  if ccsFld s 0x0205000000 hi lo = 2 then s else ccsSet s 0x0205000000 hi lo 3

/-- The end of one engine's freezing (R388). -/
def thawEngine (s : State) (e : Nat) : State := if mutState s e = 3 then setMut s e 0 0x3F else s

/-- The end of the freezing of one engine of the link pair. -/
def thawLink (s : State) (hi lo : Nat) : State :=
  if ccsFld s 0x0205000000 hi lo = 3 then ccsSet s 0x0205000000 hi lo 0 else s

/-- Freezing of every engine. -/
def freezeAll (s : State) : State := freezeLink (freezeLink ((List.range 12).foldl freezeEngine s) 63 62) 61 60

/-- The end of the freezing of every engine. -/
def thawAll (s : State) : State := thawLink (thawLink ((List.range 12).foldl thawEngine s) 63 62) 61 60

theorem freeze_eq (s : State) : freeze s = freezeAll (ccsSet s 0x40008 63 63 1) := rfl

/-- UNFREEZE where it is not discarded. -/
theorem cutCmd_of_frozen {s : State} (hfrozen : frozen s = true) (hlevel : maskLevel s (ccsFld s 0x40008 53 48) = 0) :
    cutCmd s 1 = thawAll (ccsSet s 0x40008 63 63 0) := by
  rw [cutCmd, if_pos (by simp [hfrozen, hlevel])]
  rfl

/-- UNFREEZE discarded. -/
theorem cutCmd_of_idle {s : State} (h : frozen s = false ∨ maskLevel s (ccsFld s 0x40008 53 48) ≠ 0) :
    cutCmd s 1 = ccsSet s 0x40008 60 60 1 := by
  rw [cutCmd, if_neg]
  rcases h with h | h <;> simp [h]

theorem mutState_freezeEngines (s : State) {e : Nat} (he : e < 12) :
    mutState ((List.range 12).foldl freezeEngine s) e = if mutState s e = 2 then 2 else 3 := by
  rw [foldl_observed (obs := mutState) (g := fun st => if st = 2 then 2 else 3) ?self ?other List.nodup_range,
    if_pos (List.mem_range.2 he)]
  case self =>
    intro s e
    unfold freezeEngine
    split
    next h => exact h
    next => exact mutState_setMut_self s e 3 0x3F
  case other =>
    intro s e d hd
    unfold freezeEngine
    split
    · rfl
    · exact mutState_setMut_ne s 3 0x3F hd

theorem mutState_thawEngines (s : State) {e : Nat} (he : e < 12) :
    mutState ((List.range 12).foldl thawEngine s) e = if mutState s e = 3 then 0 else mutState s e := by
  rw [foldl_observed (obs := mutState) (g := fun st => if st = 3 then 0 else st) ?self ?other List.nodup_range,
    if_pos (List.mem_range.2 he)]
  case self =>
    intro s e
    unfold thawEngine
    split
    · exact mutState_setMut_self s e 0 0x3F
    · rfl
  case other =>
    intro s e d hd
    unfold thawEngine
    split
    · exact mutState_setMut_ne s 0 0x3F hd
    · rfl

/-! ### What each response may write -/

/-- The status of the Mute engines and the link pair. -/
def EngineBits (a _k : Nat) : Prop := a = 0x0205000000 ∨ ∃ e, a = mutReg e 0

/-- The bits that the erasures of levels 2 and 3 and the end of debug may write. -/
def EraseBits (a k : Nat) : Prop :=
  (a = 0x40008 ∧ (k = 61 ∨ k = 62)) ∨ a = 0x40138 ∨ (∃ i < 64, a = 0x0205001000 + 8 * i) ∨ (∃ e < 12, a = mutReg e 0x18) ∨
    (∃ n < 60, a = puReg n 0) ∨ ∃ p < 32, a = partReg p 0x300

/-- The bits that an entry in PUs' machine-check logs may write. -/
def LogBits (a _k : Nat) : Prop := ∃ n < 60, ∃ off < 0x1000, a = puReg n off

theorem mutReg_not_eraseBits (e k : Nat) : ¬ EraseBits (mutReg e 0) k := by
  simp only [EraseBits, mutReg, belReg, dieReg, puReg, partReg]
  rintro (h | h | ⟨i, hi, h⟩ | ⟨d, hd, h⟩ | ⟨n, hn, h⟩ | ⟨p, hp, h⟩) <;> omega

theorem mutReg_not_logBits (e k : Nat) : ¬ LogBits (mutReg e 0) k := by
  simp only [LogBits, mutReg, belReg, dieReg, puReg]
  rintro ⟨n, hn, off, hoff, h⟩
  omega

/-- No erasure writes CUTSTAT elsewhere than at bits 61 and 62, the time of the event, or a temperature. -/
theorem not_eraseBits {a k : Nat} (ha : a = 0x40008 ∧ k ≠ 61 ∧ k ≠ 62 ∨ a = 0x40010 ∨ a = 0x0200000000) : ¬ EraseBits a k := by
  simp only [EraseBits, mutReg, belReg, dieReg, puReg, partReg]
  rintro (h | h | ⟨i, hi, h⟩ | ⟨d, hd, h⟩ | ⟨n, hn, h⟩ | ⟨p, hp, h⟩) <;> omega

theorem not_engineBits {a k : Nat} (ha : a = 0x40008 ∨ a = 0x40010 ∨ a = 0x0200000000) : ¬ EngineBits a k := by
  simp only [EngineBits, mutReg, belReg, dieReg]
  rintro (h | ⟨e, h⟩) <;> omega

/-! ### Freezing and UNFREEZE (R386, R388) -/

section
variable (s : State)

theorem changesOnly_freezeEngine (e : Nat) : ChangesOnly EngineBits s (freezeEngine s e) :=
  .of_ite (.refl s) (changesOnly_setMut s e 3 0x3F fun _ => .inr ⟨e, rfl⟩)

theorem changesOnly_thawEngine (e : Nat) : ChangesOnly EngineBits s (thawEngine s e) :=
  .of_ite (changesOnly_setMut s e 0 0x3F fun _ => .inr ⟨e, rfl⟩) (.refl s)

theorem changesOnly_freezeLink {hi lo : Nat} (hlo : lo ≤ hi + 1) (hhi : hi < 64) : ChangesOnly EngineBits s (freezeLink s hi lo) :=
  .of_ite (.refl s) (.ccsSet (.refl s) 3 hlo hhi fun _ _ _ => .inl rfl)

theorem changesOnly_thawLink {hi lo : Nat} (hlo : lo ≤ hi + 1) (hhi : hi < 64) : ChangesOnly EngineBits s (thawLink s hi lo) :=
  .of_ite (.ccsSet (.refl s) 0 hlo hhi fun _ _ _ => .inl rfl) (.refl s)

theorem changesOnly_freezeAll : ChangesOnly EngineBits s (freezeAll s) :=
  ((ChangesOnly.of_foldl (fun e _ s => changesOnly_freezeEngine s e) s).trans
    (changesOnly_freezeLink _ (by omega) (by omega))).trans (changesOnly_freezeLink _ (by omega) (by omega))

theorem changesOnly_thawAll : ChangesOnly EngineBits s (thawAll s) :=
  ((ChangesOnly.of_foldl (fun e _ s => changesOnly_thawEngine s e) s).trans
    (changesOnly_thawLink _ (by omega) (by omega))).trans (changesOnly_thawLink _ (by omega) (by omega))

theorem mutReg_ne_link (e : Nat) : mutReg e 0 ≠ 0x0205000000 := by
  simp only [mutReg, belReg, dieReg]
  omega

theorem mutState_freezeLink (hi lo e : Nat) : mutState (freezeLink s hi lo) e = mutState s e := by
  unfold freezeLink
  split
  · rfl
  · exact ccsFld_ccsSet_ne _ _ _ _ _ _ _ _ (mutReg_ne_link e)

theorem mutState_thawLink (hi lo e : Nat) : mutState (thawLink s hi lo) e = mutState s e := by
  unfold thawLink
  split
  · exact ccsFld_ccsSet_ne _ _ _ _ _ _ _ _ (mutReg_ne_link e)
  · rfl

theorem mutState_cutstat (hi lo v e : Nat) : mutState (ccsSet s 0x40008 hi lo v) e = mutState s e :=
  ccsFld_ccsSet_ne _ _ _ _ _ _ _ _ (by simp only [mutReg, belReg, dieReg]; omega)

theorem frozen_freeze : frozen (freeze s) = true := by
  rw [frozen, freeze_eq, (changesOnly_freezeAll _).ccsFld_eq fun _ _ _ => not_engineBits (.inl rfl),
    ccsFld_ccsSet_self _ _ _ _ _ (by omega) (by omega)]
  rfl

theorem mutState_freeze {e : Nat} (he : e < 12) : mutState (freeze s) e = if mutState s e = 2 then 2 else 3 := by
  rw [freeze_eq, freezeAll, mutState_freezeLink, mutState_freezeLink, mutState_freezeEngines _ he, mutState_cutstat]

theorem frozen_unfreeze : frozen (thawAll (ccsSet s 0x40008 63 63 0)) = false := by
  rw [frozen, (changesOnly_thawAll _).ccsFld_eq fun _ _ _ => not_engineBits (.inl rfl),
    ccsFld_ccsSet_self _ _ _ _ _ (by omega) (by omega)]
  rfl

theorem mutState_thawAll {e : Nat} (he : e < 12) : mutState (thawAll s) e = if mutState s e = 3 then 0 else mutState s e := by
  rw [thawAll, mutState_thawLink, mutState_thawLink, mutState_thawEngines _ he]

/-- The end of freezing at a field of the link pair's status. -/
theorem ccsFld_thawLink_self {hi lo : Nat} (hlo : lo ≤ hi + 1) (hhi : hi < 64) :
    ccsFld (thawLink s hi lo) 0x0205000000 hi lo =
      if ccsFld s 0x0205000000 hi lo = 3 then 0 else ccsFld s 0x0205000000 hi lo := by
  unfold thawLink
  split
  · rw [ccsFld_ccsSet_self _ _ _ _ _ hlo hhi, Nat.zero_mod]
  · rfl

theorem ccsFld_thawLink_other {hi lo hi' lo' : Nat} (hlo : lo ≤ hi + 1) (hhi : hi < 64) (hd : hi' < lo ∨ hi < lo') :
    ccsFld (thawLink s hi lo) 0x0205000000 hi' lo' = ccsFld s 0x0205000000 hi' lo' := by
  unfold thawLink
  split
  · exact ccsFld_ccsSet_other _ _ _ _ _ _ _ hlo hhi hd
  · rfl

theorem link_thawEngines (hi lo : Nat) :
    ccsFld ((List.range 12).foldl thawEngine s) 0x0205000000 hi lo = ccsFld s 0x0205000000 hi lo :=
  (ChangesOnly.of_foldl (W := fun a _ => ∃ e, a = mutReg e 0) (fun e _ s =>
    .of_ite (changesOnly_setMut s e 0 0x3F fun _ => ⟨e, rfl⟩) (.refl s)) s).ccsFld_eq fun _ _ _ ⟨e, h⟩ => mutReg_ne_link e h.symm

theorem link_thawAll {hi lo : Nat} (h : (hi, lo) ∈ [(63, 62), (61, 60)]) : ccsFld (thawAll s) 0x0205000000 hi lo =
    if ccsFld s 0x0205000000 hi lo = 3 then 0 else ccsFld s 0x0205000000 hi lo := by
  simp only [List.mem_cons, Prod.mk.injEq, List.not_mem_nil, or_false] at h
  rw [thawAll]
  obtain ⟨rfl, rfl⟩ | ⟨rfl, rfl⟩ := h
  · rw [ccsFld_thawLink_other _ (by omega) (by omega) (by omega), ccsFld_thawLink_self _ (by omega) (by omega), link_thawEngines]
  · rw [ccsFld_thawLink_self _ (by omega) (by omega), ccsFld_thawLink_other _ (by omega) (by omega) (by omega), link_thawEngines]

theorem onlyRegsAndPus_thawLink (hi lo : Nat) : OnlyRegsAndPus s (thawLink s hi lo) := .of_ite (.ccsSet (.refl s) ..) (.refl s)

theorem onlyRegsAndPus_thawEngine (e : Nat) : OnlyRegsAndPus s (thawEngine s e) :=
  .of_ite (.ccsSet (.ccsSet (.refl s) ..) ..) (.refl s)

theorem onlyRegsAndPus_thawAll : OnlyRegsAndPus s (thawAll s) :=
  ((OnlyRegsAndPus.of_foldl onlyRegsAndPus_thawEngine _ s).trans (onlyRegsAndPus_thawLink ..)).trans (onlyRegsAndPus_thawLink ..)

/-! ### Erasures and the end of debug (R386, R435) -/

theorem changesOnly_setSync (n : Nat) (v : Option StandIn) : ChangesOnly (fun a _ => a = puReg n 0) s (setSync s n v) := by
  rw [setSync]
  refine .ccsSet ?_ _ (by omega) (by omega) fun _ _ _ => rfl
  exact .modPu (.refl s) (fun _ => rfl) fun _ => rfl

theorem changesOnly_startSync (n : Nat) (r : Role) : ChangesOnly (fun a _ => a = puReg n 0) s (startSync s n r) := by
  unfold startSync
  split
  · exact .refl s
  · exact changesOnly_setSync ..

theorem changesOnly_wakeRestart (n : Nat) : ChangesOnly (fun a _ => a = puReg n 0) s (wakeRestart s n) :=
  have hrun : ChangesOnly (fun a _ => a = puReg n 0) s (setPuState s n 1) :=
    .ccsSet (.refl s) 1 (by omega) (by omega) fun _ _ _ => rfl
  .of_ite (.of_ite (.modPu (.refl s) (fun _ => rfl) fun _ => rfl) (.of_ite (.refl s) hrun)) (.refl s)

/-- A PU that has left its debug halt: a stand-in sync that was abandoned starts again. -/
def restartSync (s : State) (n : Nat) : State :=
  match roles.find? (fun r => !roleFilled s n r) with
  | some r => if (s.pu n).standIn.isNone then startSync s n r else s
  | none => s

theorem exitHalt_eq (n : Nat) : exitHalt s n = if (s.pu n).halted then
      wakeRestart (restartSync (s.modPu n fun p =>
        { p with halted := false, stepArm := false, haltReq := false, resync := some .debugExit }) n) n
    else s.modPu n fun p => { p with haltReq := false } := rfl

theorem changesOnly_restartSync (n : Nat) : ChangesOnly (fun a _ => a = puReg n 0) s (restartSync s n) := by
  unfold restartSync
  split
  · exact .of_ite (changesOnly_startSync ..) (.refl s)
  · exact .refl s

theorem changesOnly_exitHalt (n : Nat) : ChangesOnly (fun a _ => a = puReg n 0) s (exitHalt s n) := by
  rw [exitHalt_eq]
  refine .of_ite (.trans (.trans ?_ (changesOnly_restartSync _ n)) (changesOnly_wakeRestart _ n)) ?_
  · exact .modPu (.refl s) (fun _ => rfl) fun _ => rfl
  · exact .modPu (.refl s) (fun _ => rfl) fun _ => rfl

/-- The debug port locked again. -/
def relock (s : State) : State :=
  { s with dbg := { s.dbg with unlocked := false, extest := false, vfsel := setBits s.dbg.vfsel 63 0 0 } }

theorem lockDebug_eq : lockDebug s = if s.dbg.unlocked then (List.range 60).foldl exitHalt (relock s) else s := rfl

theorem changesOnly_lockDebug : ChangesOnly EraseBits s (lockDebug s) := by
  rw [lockDebug_eq]
  have hrelock : ChangesOnly EraseBits s (relock s) := .of_eq rfl rfl rfl
  refine .of_ite (hrelock.trans (.of_foldl (fun n hn s => ?_) _)) (.refl s)
  exact (changesOnly_exitHalt s n).mono fun _ _ h => .inr (.inr (.inr (.inr (.inl ⟨n, List.mem_range.1 hn, h⟩))))

/-- What level 2 clears of complex control space, and ERASED2 set. -/
def eraseSessionRegs (s : State) : State :=
  let s := (List.range 12).foldl (fun s e => ccsPut s (mutReg e 0x18) 0) s
  let s := (List.range 64).foldl (fun s i => ccsPut s (0x0205001000 + 8 * i) 0) s
  ccsSet s 0x40008 62 62 1

theorem changesOnly_eraseSessionRegs : ChangesOnly EraseBits s (eraseSessionRegs s) := by
  refine .ccsSet (.trans (.of_foldl (fun e he s => ?mutkv) s) (.of_foldl (fun i hi s => ?lkv) _)) 1 (by omega) (by omega)
    fun k _ _ => .inl ⟨rfl, by omega⟩
  case mutkv => exact .ccsPut (.refl s) 0 fun _ => .inr (.inr (.inr (.inl ⟨e, List.mem_range.1 he, rfl⟩)))
  case lkv => exact .ccsPut (.refl s) 0 fun _ => .inr (.inr (.inl ⟨i, List.mem_range.1 hi, rfl⟩))

/-- What level 2 erases outside complex control space, the commands in progress marked as abandoned. -/
def dropSession (s : State) : State :=
  { s with slotKeys := [], linkKeys := [], genBase := s.genBase + 1, stateKey := s.noiseCnt, noiseCnt := s.noiseCnt + 1
           kekJob := s.kekJob.map (fun j => { j with cut := true }), lkJob := s.lkJob.map (fun j => { j with cut := true })
           loader := s.loader.map (fun j => { j with cut := true }) }

theorem eraseSession_eq : eraseSession s = dropSession (eraseSessionRegs s) := rfl

theorem changesOnly_eraseSession : ChangesOnly EraseBits s (eraseSession s) := by
  have hdrop (t : State) : ChangesOnly EraseBits t (dropSession t) := .of_eq rfl rfl rfl
  rw [eraseSession_eq]
  exact (changesOnly_eraseSessionRegs s).trans (hdrop _)

theorem changesOnly_eraseImageKey {p : Nat} (hp : p < 32) : ChangesOnly EraseBits s (eraseImageKey s p) := by
  rw [eraseImageKey]
  refine .ccsSet ?_ 0 (by omega) (by omega) fun _ _ _ => .inr (.inr (.inr (.inr (.inr ⟨p, hp, rfl⟩))))
  exact .of_eq rfl rfl rfl

/-- What level 3 erases outside complex control space beside the customer image keys. -/
def dropKeks (s : State) : State := { s with keks := [] }

theorem eraseKeks_eq : eraseKeks s =
    ccsSet (ccsSet (dropKeks ((List.range 32).foldl eraseImageKey s)) 0x40138 31 0 0) 0x40008 61 61 1 := rfl

theorem changesOnly_eraseKeks : ChangesOnly EraseBits s (eraseKeks s) := by
  have himages := ChangesOnly.of_foldl (fun p hp s => changesOnly_eraseImageKey s (List.mem_range.1 hp)) s
  have hkeks (t : State) : ChangesOnly EraseBits t (dropKeks t) := .of_eq rfl rfl rfl
  rw [eraseKeks_eq]
  exact .ccsSet (.ccsSet (himages.trans (hkeks _)) 0 (by omega) (by omega) fun k _ _ => .inr (.inl rfl)) 1
    (by omega) (by omega) fun k _ _ => .inl ⟨rfl, by omega⟩

theorem onlyRegsAndPus_startSync (n : Nat) (r : Role) : OnlyRegsAndPus s (startSync s n r) := by
  unfold startSync
  split
  · exact .refl s
  · exact .ccsSet (.modPu (.refl s) ..) ..

theorem onlyRegsAndPus_restartSync (n : Nat) : OnlyRegsAndPus s (restartSync s n) := by
  unfold restartSync
  split
  · exact .of_ite (onlyRegsAndPus_startSync ..) (.refl s)
  · exact .refl s

theorem onlyRegsAndPus_wakeRestart (n : Nat) : OnlyRegsAndPus s (wakeRestart s n) := by
  unfold wakeRestart setPuState
  exact .of_ite (.of_ite (.modPu (.refl s) ..) (.of_ite (.refl s) (.ccsSet (.refl s) ..))) (.refl s)

theorem onlyRegsAndPus_exitHalt (n : Nat) : OnlyRegsAndPus s (exitHalt s n) := by
  rw [exitHalt_eq]
  exact .of_ite (((OnlyRegsAndPus.refl s).modPu _ _ |>.trans (onlyRegsAndPus_restartSync _ n)).trans
    (onlyRegsAndPus_wakeRestart _ n)) (.modPu (.refl s) ..)

end

end Sys2Proof.Machine
end

section
/-! A Cut event (R385 to R387): its record, its interruption, its responses. -/

namespace Sys2Proof.Machine

/-- What each step of a fold keeps, the fold keeps. -/
theorem foldl_kept {σ α β : Type} {f : σ → α → σ} (π : σ → β) (h : ∀ s x, π (f s x) = π s) (l : List α) (s : σ) :
    π (l.foldl f s) = π s :=
  List.foldlRecOn l f (motive := fun t => π t = π s) rfl fun t ht x _ => (h t x).trans ht

/-! ### The record -/

/-- The bits that the record of a Cut event may write: CUTSTAT below bit 46, the time, the endpoint's attention bit. -/
def RecordBits (a k : Nat) : Prop := (a = 0x40008 ∧ k ≤ 45) ∨ a = 0x40010 ∨ a = 0x0203001018

/-- CUTSTAT of a Cut event. -/
def cutStatRecord (s : State) (mask part : Nat) : State :=
  let l := maskLevel s mask
  let s := ccsSet s 0x40008 45 40 (ccsFld s 0x40008 45 40 ||| mask)
  ccsAdd (ccsSet (ccsSet (ccsSet s 0x40008 33 32 l) 0x40008 28 24 part) 0x40008 21 16 mask) 0x40008 15 0 1

/-- CUTSTAT, the time and the endpoint's attention bit of a Cut event. -/
def cutRecord (s : State) (mask part : Nat) : State :=
  attend (ccsPut (cutStatRecord s mask part) 0x40010 (todMid (cutStatRecord s mask part))) 3

/-- The external interruption of a Cut event made pending in one PU. -/
def queueCutAt (w : Word) (s : State) (n : Nat) : State := s.modPu n (fun p => { p with cutEv := p.cutEv ++ [w] })

/-- The same in every PU of partition 0 (R387). -/
def queueCut (s : State) (w : Word) : State := (pusOf s 0).foldl (queueCutAt w) s

/-- The responses of levels 2 and 3. -/
def cutErase (s : State) (l : Nat) : State :=
  let s := if 2 ≤ l then lockDebug (eraseSession s) else s
  if 3 ≤ l then eraseKeks s else s

/-- The responses of a level. -/
def cutResponse (s : State) (l : Nat) : State := cutErase (if 1 ≤ l then freeze s else s) l

/-- The parameter word of a Cut event (R387). -/
def cutWord (mask l part : Nat) : Word := BitVec.ofNat 64 (mask * 2 ^ 16 + l * 2 ^ 8 + part)

theorem cutEvent_eq (s : State) (mask part : Nat) : cutEvent s mask part =
    cutResponse (queueCut (cutRecord s mask part) (cutWord mask (maskLevel s mask) part)) (maskLevel s mask) := rfl

section
variable (s : State)

theorem changesOnly_msixSend {W : Nat → Nat → Prop} (v : Nat) : ChangesOnly W s (msixSend s v) := by
  unfold msixSend
  exact .of_ite (.refl s) (.of_ite (.of_eq rfl rfl rfl) (.of_eq rfl rfl rfl))

theorem changesOnly_attend {k : Nat} (hk : k < 64) : ChangesOnly (fun a _ => a = 0x0203001018) s (attend s k) := by
  unfold attend
  refine .of_ite (.refl s) (.trans ?_ (changesOnly_msixSend _ 16))
  exact .ccsSet (.refl s) 1 (by omega) hk fun _ _ _ => rfl

theorem changesOnly_cutStatRecord (mask part : Nat) : ChangesOnly RecordBits s (cutStatRecord s mask part) := by
  unfold cutStatRecord ccsAdd
  dsimp only
  iterate 5 refine .ccsSet ?_ _ (by omega) (by omega) fun _ _ _ => .inl ⟨rfl, by omega⟩
  exact .refl s

theorem changesOnly_cutRecord (mask part : Nat) : ChangesOnly RecordBits s (cutRecord s mask part) := by
  unfold cutRecord
  refine .trans ?_ ((changesOnly_attend _ (by omega)).mono fun _ _ h => .inr (.inr h))
  exact .ccsPut (changesOnly_cutStatRecord s mask part) _ fun _ => .inr (.inl rfl)

/-- A field of CUTSTAT in the record. -/
theorem ccsFld_cutRecord (mask part hi lo : Nat) :
    ccsFld (cutRecord s mask part) 0x40008 hi lo = ccsFld (cutStatRecord s mask part) 0x40008 hi lo := by
  rw [cutRecord, (changesOnly_attend _ (by omega)).ccsFld_eq (by omega), ccsFld_ccsPut_ne _ _ _ _ _ _ (by omega)]

theorem tod_cutStatRecord (mask part : Nat) : (cutStatRecord s mask part).tod = s.tod := by
  unfold cutStatRecord ccsAdd
  dsimp only
  iterate 5 rw [ccsSet_tod]

theorem ccsGet_cutRecord_time (mask part : Nat) : ccsGet (cutRecord s mask part) 0x40010 = todMid s := by
  rw [cutRecord, (changesOnly_attend _ (by omega)).ccsGet_eq (by omega), ccsGet_ccsPut_self, todMid, tod_cutStatRecord, todMid]

theorem maskLevel_lt (mask : Nat) : maskLevel s mask < 4 := by
  refine List.foldlRecOn _ _ (motive := fun l => l < 4) (by omega) fun l hl t _ => ?_
  have ht : cutLevel s t < 2 ^ (2 * t + 1 + 1 - 2 * t) := bits_lt _ _ _
  rw [show 2 * t + 1 + 1 - 2 * t = 2 by omega] at ht
  split <;> omega

/-- The fields of CUTSTAT after a Cut event: level, triggers, partition and count. -/
theorem cutStatRecord_fields {mask part : Nat} (hmask : mask < 64) (hpart : part < 32) :
    ccsFld (cutStatRecord s mask part) 0x40008 33 32 = maskLevel s mask ∧ ccsFld (cutStatRecord s mask part) 0x40008 21 16 = mask ∧
      ccsFld (cutStatRecord s mask part) 0x40008 28 24 = part ∧
      ccsFld (cutStatRecord s mask part) 0x40008 15 0 = min (ccsFld s 0x40008 15 0 + 1) 0xFFFF := by
  have hlevel := maskLevel_lt s mask
  unfold cutStatRecord ccsAdd
  dsimp only
  refine ⟨?level, ?triggers, ?partition, ?count⟩
  case level =>
    rw [ccsFld_ccsSet_other _ _ _ _ _ _ _ (by omega) (by omega) (by omega),
      ccsFld_ccsSet_other _ _ _ _ _ _ _ (by omega) (by omega) (by omega),
      ccsFld_ccsSet_other _ _ _ _ _ _ _ (by omega) (by omega) (by omega), ccsFld_ccsSet_self _ _ _ _ _ (by omega) (by omega)]
    exact Nat.mod_eq_of_lt hlevel
  case triggers =>
    rw [ccsFld_ccsSet_other _ _ _ _ _ _ _ (by omega) (by omega) (by omega), ccsFld_ccsSet_self _ _ _ _ _ (by omega) (by omega)]
    exact Nat.mod_eq_of_lt hmask
  case partition =>
    rw [ccsFld_ccsSet_other _ _ _ _ _ _ _ (by omega) (by omega) (by omega),
      ccsFld_ccsSet_other _ _ _ _ _ _ _ (by omega) (by omega) (by omega), ccsFld_ccsSet_self _ _ _ _ _ (by omega) (by omega)]
    exact Nat.mod_eq_of_lt hpart
  case count =>
    rw [ccsFld_ccsSet_self _ _ _ _ _ (by omega) (by omega)]
    iterate 4 rw [ccsFld_ccsSet_other _ _ _ _ _ _ 0 (by omega) (by omega) (by omega)]
    exact Nat.mod_eq_of_lt (by omega)

theorem pusOf_cutRecord (mask part q : Nat) : pusOf (cutRecord s mask part) q = pusOf s q := by
  refine List.filter_congr fun n hn => ?_
  have hpart : puPart (cutRecord s mask part) n = puPart s n :=
    (changesOnly_cutRecord s mask part).ccsFld_eq fun k _ _ => by simp only [RecordBits, puReg]; omega
  rw [hpart]

/-! ### The interruption -/

theorem quiet_queueCut (w : Word) : Quiet s (queueCut s w) := by
  refine List.foldlRecOn _ _ (motive := Quiet s) (.refl s) fun t ht n _ => ht.trans ⟨rfl, fun k => ?_⟩
  rw [queueCutAt, pu_modPu]
  split
  next h => rw [h]; rfl
  next => rfl

theorem ccsGet_queueCut (w : Word) (a : Nat) : ccsGet (queueCut s w) a = ccsGet s a :=
  foldl_kept (f := queueCutAt w) (fun s => ccsGet s a) (fun _ _ => rfl) _ s

theorem cutEv_queueCut (w : Word) {k : Nat} (hk : k ∈ pusOf s 0) : ((queueCut s w).pu k).cutEv = (s.pu k).cutEv ++ [w] := by
  have h := foldl_observed (f := queueCutAt w) (obs := fun s k => (s.pu k).cutEv) (g := (· ++ [w])) ?self ?other
    (l := pusOf s 0) (List.nodup_range.filter _) s k
  case self =>
    intro s n
    rw [queueCutAt, pu_modPu_self]
  case other =>
    intro s n k hkn
    rw [queueCutAt, pu_modPu_ne _ _ _ _ hkn]
  exact h.trans (if_pos hk)

/-! ### The responses -/

theorem changesOnly_cutErase (l : Nat) : ChangesOnly EraseBits s (cutErase s l) := by
  have hsession : ChangesOnly EraseBits s (if 2 ≤ l then lockDebug (eraseSession s) else s) :=
    .of_ite ((changesOnly_eraseSession s).trans (changesOnly_lockDebug _)) (.refl s)
  exact .of_ite (hsession.trans (changesOnly_eraseKeks _)) hsession

/-- The bits that the responses may write. -/
def ResponseBits (a k : Nat) : Prop := (a = 0x40008 ∧ k = 63) ∨ EngineBits a k ∨ EraseBits a k

theorem changesOnly_freeze : ChangesOnly ResponseBits s (freeze s) := by
  rw [freeze_eq]
  refine .trans ?_ ((changesOnly_freezeAll _).mono fun _ _ h => .inr (.inl h))
  exact .ccsSet (.refl s) 1 (by omega) (by omega) fun _ _ _ => .inl ⟨rfl, by omega⟩

theorem changesOnly_cutResponse (l : Nat) : ChangesOnly ResponseBits s (cutResponse s l) :=
  .trans (.of_ite (changesOnly_freeze s) (.refl s)) ((changesOnly_cutErase _ l).mono fun _ _ h => .inr (.inr h))

theorem not_responseBits {a k : Nat} (ha : a = 0x40008 ∧ k < 61 ∨ a = 0x40010 ∨ a = 0x0200000000) : ¬ ResponseBits a k := by
  rintro (⟨rfl, rfl⟩ | h | h)
  · omega
  · exact not_engineBits (by omega) h
  · exact not_eraseBits (by omega) h

/-- Level 1 and above: frozen, and every Mute engine frozen or fenced. -/
theorem cutResponse_frozen {l : Nat} (hl : 1 ≤ l) :
    frozen (cutResponse s l) = true ∧ ∀ e < 12, 2 ≤ mutState (cutResponse s l) e := by
  rw [cutResponse, if_pos hl]
  refine ⟨?frozen, fun e he => ?engine⟩
  case frozen => rw [frozen, (changesOnly_cutErase _ l).ccsFld_eq fun _ _ _ => not_eraseBits (by omega), ← frozen, frozen_freeze]
  case engine =>
    rw [mutState, (changesOnly_cutErase _ l).ccsFld_eq fun _ _ _ => mutReg_not_eraseBits e _, ← mutState, mutState_freeze s he]
    split <;> omega

theorem lockDebug_spec : (lockDebug s).slotKeys = s.slotKeys ∧ (lockDebug s).linkKeys = s.linkKeys ∧
    (lockDebug s).dbg.unlocked = false := by
  rw [lockDebug_eq]
  split
  case isTrue =>
    have h := (OnlyRegsAndPus.of_foldl onlyRegsAndPus_exitHalt (List.range 60) (relock s))
    exact ⟨h.proj_eq State.slotKeys fun _ _ _ => rfl, h.proj_eq State.linkKeys fun _ _ _ => rfl,
      h.proj_eq (·.dbg.unlocked) fun _ _ _ => rfl⟩
  case isFalse hlocked => exact ⟨rfl, rfl, by simpa using hlocked⟩

theorem eraseImageKey_slotKeys (p : Nat) : (eraseImageKey s p).slotKeys = s.slotKeys := by rw [eraseImageKey, ccsSet_slotKeys]

theorem eraseImageKey_linkKeys (p : Nat) : (eraseImageKey s p).linkKeys = s.linkKeys := by rw [eraseImageKey, ccsSet_linkKeys]

theorem eraseImageKey_dbg (p : Nat) : (eraseImageKey s p).dbg = s.dbg := by rw [eraseImageKey, ccsSet_dbg]

theorem eraseKeks_kept : (eraseKeks s).slotKeys = s.slotKeys ∧ (eraseKeks s).linkKeys = s.linkKeys ∧
    (eraseKeks s).dbg = s.dbg := by
  rw [eraseKeks_eq, ccsSet_slotKeys, ccsSet_slotKeys, ccsSet_linkKeys, ccsSet_linkKeys, ccsSet_dbg, ccsSet_dbg]
  exact ⟨foldl_kept State.slotKeys eraseImageKey_slotKeys _ s, foldl_kept State.linkKeys eraseImageKey_linkKeys _ s,
    foldl_kept State.dbg eraseImageKey_dbg _ s⟩

/-- Level 2 and above: slot keys and link keys erased, debug locked. -/
theorem cutErase_session {l : Nat} (hl : 2 ≤ l) :
    (cutErase s l).slotKeys = [] ∧ (cutErase s l).linkKeys = [] ∧ (cutErase s l).dbg.unlocked = false := by
  obtain ⟨hslot, hlink, hdbg⟩ := lockDebug_spec (eraseSession s)
  unfold cutErase
  simp only [if_pos hl]
  split
  · obtain ⟨hslot', hlink', hdbg'⟩ := eraseKeks_kept (lockDebug (eraseSession s))
    exact ⟨hslot'.trans hslot, hlink'.trans hlink, (congrArg Debug.unlocked hdbg').trans hdbg⟩
  · exact ⟨hslot, hlink, hdbg⟩

/-- Level 3: the key-encryption keys erased. -/
theorem cutErase_keks {l : Nat} (hl : 3 ≤ l) : (cutErase s l).keks = [] := by
  unfold cutErase
  simp only [if_pos hl]
  rfl

end

end Sys2Proof.Machine
end

section
/-! CUT_TRIGGER, TEMPERATURE_SAMPLE and DRBG_RESEED (R382, R385, R386, R449). -/

namespace Sys2Proof.Machine

section
variable (s : State)

/-! ### A Cut event as a whole -/

theorem quiet_cutEvent (mask part : Nat) : Quiet s (cutEvent s mask part) := by
  rw [cutEvent_eq]
  exact ((changesOnly_cutRecord s mask part).quiet.trans (quiet_queueCut _ _)).trans (changesOnly_cutResponse _ _).quiet

/-- A field that neither the interruption nor the responses of a Cut event write. -/
theorem ccsFld_cutEvent (mask part : Nat) {a hi lo : Nat}
    (h : ∀ k, lo ≤ k → k ≤ hi → a = 0x40008 ∧ k < 61 ∨ a = 0x40010 ∨ a = 0x0200000000) :
    ccsFld (cutEvent s mask part) a hi lo = ccsFld (cutRecord s mask part) a hi lo := by
  rw [cutEvent_eq, (changesOnly_cutResponse _ _).ccsFld_eq fun k hl hh => not_responseBits (h k hl hh), ccsFld, ccsGet_queueCut, ccsFld]

/-- What a Cut event reports. -/
theorem cutEvent_fields {mask part : Nat} (hmask : mask < 64) (hpart : part < 32) :
    ccsFld (cutEvent s mask part) 0x40008 33 32 = maskLevel s mask ∧ ccsFld (cutEvent s mask part) 0x40008 21 16 = mask ∧
      ccsFld (cutEvent s mask part) 0x40008 28 24 = part ∧
      ccsFld (cutEvent s mask part) 0x40008 15 0 = min (ccsFld s 0x40008 15 0 + 1) 0xFFFF := by
  have hrecord (hi lo : Nat) (h : hi < 61) :
      ccsFld (cutEvent s mask part) 0x40008 hi lo = ccsFld (cutStatRecord s mask part) 0x40008 hi lo :=
    (ccsFld_cutEvent s mask part (by omega)).trans (ccsFld_cutRecord ..)
  rw [hrecord 33 32 (by omega), hrecord 21 16 (by omega), hrecord 28 24 (by omega), hrecord 15 0 (by omega)]
  exact cutStatRecord_fields s hmask hpart

theorem ccsGet_cutEvent_time (mask part : Nat) : ccsGet (cutEvent s mask part) 0x40010 = todMid s := by
  rw [cutEvent_eq, (changesOnly_cutResponse _ _).ccsGet_eq fun k => not_responseBits (by omega), ccsGet_queueCut,
    ccsGet_cutRecord_time]

theorem cutEv_cutEvent (mask part : Nat) {k : Nat} (hk : k ∈ pusOf s 0) :
    ((cutEvent s mask part).pu k).cutEv = (s.pu k).cutEv ++ [cutWord mask (maskLevel s mask) part] := by
  rw [cutEvent_eq, (changesOnly_cutResponse _ _).cutEv, cutEv_queueCut _ _ (by rwa [pusOf_cutRecord]),
    (changesOnly_cutRecord ..).cutEv]

/-! ### Conditions found present -/

/-- CUTSTAT with the conditions that are now present. -/
def notePresent (s : State) (now fire : Nat) : State :=
  ccsSet s 0x40008 53 48 (now ||| (ccsFld s 0x40008 53 48 &&& 0x20) ||| (fire &&& 0x20))

/-- The triggers of the Cut event, 0 where there is none. -/
def cutMask (s : State) (now fire : Nat) : Nat := (now &&& (0xF ^^^ (ccsFld s 0x40008 53 48 % 16))) ||| fire

theorem cutPresent_eq (now fire part : Nat) : cutPresent s now fire part =
    if cutMask s now fire = 0 then notePresent s now fire else cutEvent (notePresent s now fire) (cutMask s now fire) part := rfl

theorem changesOnly_notePresent (now fire : Nat) :
    ChangesOnly (fun a k => a = 0x40008 ∧ 48 ≤ k ∧ k ≤ 53) s (notePresent s now fire) := by
  rw [notePresent]
  exact .ccsSet (.refl s) _ (by omega) (by omega) fun _ hl hh => ⟨rfl, hl, hh⟩

theorem maskLevel_notePresent (now fire mask : Nat) : maskLevel (notePresent s now fire) mask = maskLevel s mask := by
  have hlevel (t : Nat) : cutLevel (notePresent s now fire) t = cutLevel s t :=
    (changesOnly_notePresent s now fire).ccsFld_eq (by omega)
  simp only [maskLevel, hlevel]

theorem todMid_notePresent (now fire : Nat) : todMid (notePresent s now fire) = todMid s := by
  rw [todMid, notePresent, ccsSet_tod, todMid]

theorem pusOf_notePresent (now fire q : Nat) : pusOf (notePresent s now fire) q = pusOf s q := by
  refine List.filter_congr fun n _ => ?_
  have hpart : puPart (notePresent s now fire) n = puPart s n :=
    (changesOnly_notePresent s now fire).ccsFld_eq fun k _ _ => by simp only [puReg]; omega
  rw [hpart]

theorem quiet_cutPresent (now fire part : Nat) : Quiet s (cutPresent s now fire part) := by
  have hnote := (changesOnly_notePresent s now fire).quiet
  rw [cutPresent_eq]
  split
  · exact hnote
  · exact hnote.trans (quiet_cutEvent ..)

/-- A field that `cutPresent` writes, if at all, where it notes the conditions that are present. -/
theorem ccsFld_cutPresent (now fire part : Nat) {a hi lo : Nat} (h : a = 0x40008 ∧ 46 ≤ lo ∧ hi < 61 ∨ a = 0x0200000000) :
    ccsFld (cutPresent s now fire part) a hi lo = ccsFld (notePresent s now fire) a hi lo := by
  rw [cutPresent_eq]
  split
  · rfl
  · rw [ccsFld_cutEvent _ _ _ (by omega)]
    exact (changesOnly_cutRecord ..).ccsFld_eq fun k hl hh => by simp only [RecordBits]; omega

/-- The condition of trigger 3 (R386). -/
theorem ccsFld_cutPresent_hot (now fire part : Nat) : ccsFld (cutPresent s now fire part) 0x40008 51 51 = bits now 3 3 := by
  rw [ccsFld_cutPresent _ _ _ _ (.inl ⟨rfl, by omega, by omega⟩), notePresent, ccsFld, ccsGet_ccsSet_self,
    toNat_wordSet _ _ _ _ (by omega) (by omega)]
  apply Nat.eq_of_testBit_eq
  intro k
  rw [testBit_bits, testBit_bits]
  by_cases hk : k = 0
  · subst hk
    have h32 : Nat.testBit 0x20 3 = false := by decide
    simp [testBit_setBits, Nat.testBit_or, Nat.testBit_and, h32]
  · simp [show ¬ k < 1 by omega]

theorem cutMask_lt (present : BitVec 4) (fire : BitVec 2) : cutMask s present.toNat (fire.toNat * 16) < 64 := by
  have hpresent : present.toNat &&& (0xF ^^^ (ccsFld s 0x40008 53 48 % 16)) ≤ present.toNat := Nat.and_le_left
  exact Nat.or_lt_two_pow (n := 6) (by omega) (by omega)

/-! ### Temperature and reseeds -/

theorem puReg_add (n off d : Nat) : puReg n off + d = puReg n (off + d) := by
  simp only [puReg]
  omega

theorem changesOnly_logEvent {n : Nat} (hn : n < 60) (event cause role core : Nat) (ia detail : Word) :
    ChangesOnly LogBits s (logEvent s n event cause role core ia detail) := by
  have hentry (q d : Nat) (hd : d < 32) (k : Nat) : LogBits (puReg n (0x400 + 32 * (q % 32)) + d) k :=
    ⟨n, hn, 0x400 + 32 * (q % 32) + d, by omega, puReg_add ..⟩
  have hnext (k : Nat) : LogBits (puReg n 0x38) k := ⟨n, hn, 0x38, by omega, rfl⟩
  unfold logEvent ccsAdd
  dsimp only
  refine .ccsSet (.ccsPut (.ccsPut (.ccsPut (.ccsPut (.of_ite ?lost (.refl s)) _ ?_) _ ?_) _ ?_) _ ?_) _ (by omega) (by omega)
    fun k _ _ => hnext k
  case lost => exact .ccsSet (.refl s) _ (by omega) (by omega) fun k _ _ => hnext k
  · exact hentry _ 0 (by omega)
  · exact hentry _ 8 (by omega)
  · exact hentry _ 16 (by omega)
  · exact hentry _ 24 (by omega)

theorem changesOnly_logOutside {n : Nat} (hn : n < 60) (event : Nat) (detail : Word) (k : McSub) :
    ChangesOnly LogBits s (logOutside s n event detail k) := by
  unfold logOutside logPend mcPend
  refine .modPu (changesOnly_logEvent s hn ..) (fun p => ?_) fun p => ?_ <;> cases k <;> rfl

/-- The reporting of a temperature of 90 degrees or more, once until every sensor has fallen below 85 (R449). -/
def warnHot (readings : List (Fin 7 × Int)) (s : State) : State :=
  match (if s.boot.warned then none else readings.find? (fun r => decide (90 ≤ r.2))) with
  | some (d, t) =>
    (pusOf s 0).foldl (fun s n => logOutside s n 0x18 (BitVec.ofNat 64 (d.val * 256 + min t.toNat 255)) .warn)
      (s.modBoot (fun b => { b with warned := true }))
  | none => if readings.all (fun r => decide (r.2 < 85)) then s.modBoot (fun b => { b with warned := false }) else s

/-- The condition of trigger 3 as the sensors find it, with the hysteresis of R386. -/
def hotNow (readings : List (Fin 7 × Int)) (was : Nat) : Nat :=
  if readings.any (fun r => decide (105 < r.2) || decide (r.2 < -10)) then 1
  else if readings.all (fun r => decide (0 ≤ r.2) && decide (r.2 ≤ 100)) then 0
  else was / 8

/-- The highest temperature of the I/O die. -/
def ioTemperature (readings : List (Fin 7 × Int)) : Nat :=
  (readings.filter (fun r => r.1.val == 6)).foldl (fun a r => max a r.2.toNat) 0

/-- A sample with the temperature recorded and reported. -/
def sampled (readings : List (Fin 7 × Int)) (s : State) : State :=
  warnHot readings (ccsSet s 0x0200000000 7 0 (min (ioTemperature readings) 255))

theorem exec_temperatureSample (readings : List (Fin 7 × Int)) (hgood : s.boot.pwrGood = true) :
    exec (.temperatureSample readings) s = .next (cutPresent (sampled readings s)
      (ccsFld (sampled readings s) 0x40008 51 48 % 8 + 8 * hotNow readings (ccsFld (sampled readings s) 0x40008 51 48)) 0 0) := by
  have harm : exec (.temperatureSample readings) s = execTemperatureSample readings s := rfl
  rw [harm, execTemperatureSample, if_neg (by simp [hgood])]
  rfl

theorem changesOnly_warnHot (readings : List (Fin 7 × Int)) : ChangesOnly LogBits s (warnHot readings s) := by
  have hboot (f : Boot → Boot) : ChangesOnly LogBits s (s.modBoot f) := .of_eq rfl rfl rfl
  unfold warnHot
  split
  · refine (hboot _).trans (.of_foldl (fun n hn s => changesOnly_logOutside s ?_ ..) _)
    exact List.mem_range.1 (List.mem_filter.1 hn).1
  · exact .of_ite (hboot _) (.refl s)

theorem temperature_not_logBits (k : Nat) : ¬ LogBits 0x0200000000 k := by
  rintro ⟨n, hn, off, hoff, h⟩
  simp only [puReg] at h
  omega

/-- ENT of a die's engines. -/
def entOf (d : Nat) (s : State) : Nat := if d = 6 then ccsFld s 0x0205000000 59 59 else ccsFld s (mutReg (2 * d) 0) 61 61

theorem link_not_logBits (k : Nat) : ¬ LogBits 0x0205000000 k := by
  rintro ⟨n, hn, off, hoff, h⟩
  simp only [puReg] at h
  omega

theorem entOf_eq_of_logged {t : State} (h : ChangesOnly LogBits s t) (d : Nat) : entOf d t = entOf d s := by
  unfold entOf
  rw [h.ccsFld_eq fun k _ _ => link_not_logBits k, h.ccsFld_eq fun k _ _ => mutReg_not_logBits (2 * d) k]

theorem quiet_setEnt (d v : Nat) : Quiet s (setEnt s d v) := by
  have h : ChangesOnly (fun _ _ => True) s (setEnt s d v) := by
    unfold setEnt
    refine .of_ite ?_ (.ccsSet ?_ v (by omega) (by omega) fun _ _ _ => trivial)
    all_goals exact .ccsSet (.refl s) v (by omega) (by omega) fun _ _ _ => trivial
  exact h.quiet

theorem entOf_setEnt (d v : Nat) : entOf d (setEnt s d v) = v % 2 := by
  unfold entOf setEnt
  split
  · exact ccsFld_ccsSet_self _ _ _ _ _ (by omega) (by omega)
  · have hreg : mutReg (2 * d) 0 ≠ mutReg (2 * d + 1) 0 := fun h => absurd (mutReg_inj h) (by omega)
    rw [ccsFld_ccsSet_ne _ _ _ _ _ _ _ _ hreg]
    exact ccsFld_ccsSet_self _ _ _ _ _ (by omega) (by omega)

theorem withheld_setEnt (d v : Nat) : (setEnt s d v).withheld = s.withheld := by
  unfold setEnt
  split
  · rw [ccsSet_withheld]
  · rw [ccsSet_withheld, ccsSet_withheld]

/-- The fourth withheld reseed in a row in the logs of the die's PUs (R382). -/
def logWithheld (d : Nat) (s : State) : State :=
  if d = 6 then s else (diePus d).foldl (fun s n => logOutside s n 0x15 0 .warn) s

theorem changesOnly_logWithheld (die : Fin 7) : ChangesOnly LogBits s (logWithheld die.val s) := by
  unfold logWithheld
  split
  case isTrue => exact .refl s
  case isFalse hd =>
    refine .of_foldl (fun n hn s => changesOnly_logOutside s ?_ ..) s
    obtain ⟨k, hk, rfl⟩ := List.mem_map.1 hn
    have hk10 := List.mem_range.1 hk
    omega

/-! ### The clauses -/

/-- CUT_TRIGGER (R385 to R387). -/
theorem cutTrigger_spec (present : BitVec 4) (fire : BitVec 2) (part : Fin 32)
    (hm : cutMask s present.toNat (fire.toNat * 16) ≠ 0) :
    let m := cutMask s present.toNat (fire.toNat * 16)
    let l := maskLevel s m
    let by' := if fire.getLsbD 0 then part.val else 0
    ∃ t, exec (.cutTrigger present fire part) s = .next t ∧ Quiet s t ∧ ccsFld t 0x40008 33 32 = l ∧
      ccsFld t 0x40008 21 16 = m ∧ ccsFld t 0x40008 28 24 = by' ∧
      ccsFld t 0x40008 15 0 = min (ccsFld s 0x40008 15 0 + 1) 0xFFFF ∧ ccsGet t 0x40010 = todMid s ∧
      (∀ k ∈ pusOf s 0, (t.pu k).cutEv = (s.pu k).cutEv ++ [cutWord m l by']) ∧
      (1 ≤ l → frozen t = true ∧ ∀ e < 12, 2 ≤ mutState t e) ∧
      (2 ≤ l → t.slotKeys = [] ∧ t.linkKeys = [] ∧ t.dbg.unlocked = false) ∧ (3 ≤ l → t.keks = []) := by
  intro m l by'
  have hquiet := quiet_cutPresent s present.toNat (fire.toNat * 16) by'
  have hexec : exec (.cutTrigger present fire part) s = .next (cutPresent s present.toNat (fire.toNat * 16) by') := rfl
  rw [cutPresent_eq, if_neg hm] at hquiet hexec
  have hnote := changesOnly_notePresent s present.toNat (fire.toNat * 16)
  have hlevel := maskLevel_notePresent s present.toNat (fire.toNat * 16) m
  have hpart : by' < 32 := by
    show (if fire.getLsbD 0 then part.val else 0) < 32
    split <;> omega
  obtain ⟨hl, hmask, hby, hcount⟩ := cutEvent_fields (notePresent s present.toNat (fire.toNat * 16)) (cutMask_lt s present fire) hpart
  refine ⟨_, hexec, hquiet, hl.trans hlevel, hmask, hby, ?count, ?time, fun k hk => ?pending, ?frozen, ?session, ?keks⟩
  case count => rw [hcount, hnote.ccsFld_eq (by omega)]
  case time => rw [ccsGet_cutEvent_time, todMid_notePresent]
  case pending => rw [cutEv_cutEvent _ _ _ (by rwa [pusOf_notePresent]), hnote.cutEv, hlevel]
  all_goals rw [cutEvent_eq, hlevel]; intro h
  case frozen => exact cutResponse_frozen _ h
  case session => exact cutErase_session _ h
  case keks => exact cutErase_keks _ h

/-- UNFREEZE while frozen and with no trigger that lasts (R388). -/
theorem unfreeze_spec (hfrozen : frozen s = true) (hlevel : maskLevel s (ccsFld s 0x40008 53 48) = 0) :
    ∃ t, exec .unfreeze s = .next t ∧ Quiet s t ∧ frozen t = false ∧ cutLow t = false ∧
      (∀ e < 12, mutState t e = if mutState s e = 3 then 0 else mutState s e) ∧
      (∀ hi lo, (hi, lo) ∈ [(63, 62), (61, 60)] → ccsFld t 0x0205000000 hi lo =
        if ccsFld s 0x0205000000 hi lo = 3 then 0 else ccsFld s 0x0205000000 hi lo) ∧
      t.slotKeys = s.slotKeys ∧ t.linkKeys = s.linkKeys ∧ t.keks = s.keks ∧ t.imageKeys = s.imageKeys := by
  have hexec : exec .unfreeze s = .next (cutCmd s 1) := rfl
  rw [cutCmd_of_frozen hfrozen hlevel] at hexec
  have hcleared : ChangesOnly (fun a _ => a = 0x40008) s (ccsSet s 0x40008 63 63 0) :=
    .ccsSet (.refl s) 0 (by omega) (by omega) fun _ _ _ => rfl
  have hthawed := frozen_unfreeze s
  have hkept : OnlyRegsAndPus s (thawAll (ccsSet s 0x40008 63 63 0)) :=
    ((OnlyRegsAndPus.refl s).ccsSet ..).trans (onlyRegsAndPus_thawAll _)
  refine ⟨_, hexec, hcleared.quiet.trans (changesOnly_thawAll _).quiet, hthawed, ?cutLow, fun e he => ?engine, fun hi lo h => ?link,
    hkept.proj_eq State.slotKeys fun _ _ _ => rfl, hkept.proj_eq State.linkKeys fun _ _ _ => rfl,
    hkept.proj_eq State.keks fun _ _ _ => rfl, hkept.proj_eq State.imageKeys fun _ _ _ => rfl⟩
  case cutLow => rw [cutLow, hthawed, Bool.and_false]
  case engine => rw [mutState_thawAll _ he, mutState_cutstat]
  case link => rw [link_thawAll _ h, hcleared.ccsFld_eq (by omega)]

/-- UNFREEZE discarded (R388). -/
theorem unfreeze_dropped (h : frozen s = false ∨ maskLevel s (ccsFld s 0x40008 53 48) ≠ 0) :
    ∃ t, exec .unfreeze s = .next t ∧ Quiet s t ∧ frozen t = frozen s ∧ cutLow t = cutLow s ∧ ccsFld t 0x40008 60 60 = 1 := by
  have hexec : exec .unfreeze s = .next (cutCmd s 1) := rfl
  rw [cutCmd_of_idle h] at hexec
  have hdrop : ChangesOnly (fun a k => a = 0x40008 ∧ k = 60) s (ccsSet s 0x40008 60 60 1) :=
    .ccsSet (.refl s) 1 (by omega) (by omega) fun _ _ _ => ⟨rfl, by omega⟩
  have hfrozen : frozen (ccsSet s 0x40008 60 60 1) = frozen s := by rw [frozen, hdrop.ccsFld_eq (by omega), frozen]
  refine ⟨_, hexec, hdrop.quiet, hfrozen, ?_, ccsFld_ccsSet_self _ _ _ _ _ (by omega) (by omega)⟩
  rw [cutLow, ccsSet_boot, hfrozen, cutLow]

theorem hotNow_of_outside {readings : List (Fin 7 × Int)} (h : ∃ r ∈ readings, 105 < r.2 ∨ r.2 < -10) (was : Nat) :
    hotNow readings was = 1 := by
  rw [hotNow, if_pos]
  simpa using h

theorem hotNow_of_inside {readings : List (Fin 7 × Int)} (h : ∀ r ∈ readings, 0 ≤ r.2 ∧ r.2 ≤ 100) (was : Nat) :
    hotNow readings was = 0 := by
  rw [hotNow, if_neg, if_pos]
  · simpa using h
  · simp only [List.any_eq_true, not_exists, not_and, Bool.or_eq_true, decide_eq_true_eq]
    intro r hr
    have hin := h r hr
    omega

/-- TEMPERATURE_SAMPLE (R386, R449). -/
theorem temperatureSample_spec (readings : List (Fin 7 × Int)) (v : Int) (hgood : s.boot.pwrGood = true)
    (hio : readings.filter (fun r => r.1.val == 6) = [(6, v)]) :
    ∃ t, exec (.temperatureSample readings) s = .next t ∧ Quiet s t ∧ ccsFld t 0x0200000000 7 0 = min v.toNat 255 ∧
      ((∃ r ∈ readings, 105 < r.2 ∨ r.2 < -10) → ccsFld t 0x40008 51 51 = 1) ∧
      ((∀ r ∈ readings, 0 ≤ r.2 ∧ r.2 ≤ 100) → ccsFld t 0x40008 51 51 = 0) := by
  have htemp : ChangesOnly (fun a _ => a = 0x0200000000) s (ccsSet s 0x0200000000 7 0 (min (ioTemperature readings) 255)) :=
    .ccsSet (.refl s) _ (by omega) (by omega) fun _ _ _ => rfl
  have hwarn := changesOnly_warnHot (ccsSet s 0x0200000000 7 0 (min (ioTemperature readings) 255)) readings
  refine ⟨_, exec_temperatureSample s readings hgood, (htemp.quiet.trans hwarn.quiet).trans (quiet_cutPresent ..), ?io, fun h => ?hot,
    fun h => ?cool⟩
  case io =>
    have hmax : ioTemperature readings = v.toNat := by rw [ioTemperature, hio]; simp
    rw [ccsFld_cutPresent _ _ _ _ (.inr rfl), (changesOnly_notePresent ..).ccsFld_eq (by omega), sampled,
      hwarn.ccsFld_eq fun k _ _ => temperature_not_logBits k, ccsFld_ccsSet_self _ _ _ _ _ (by omega) (by omega), hmax]
    exact Nat.mod_eq_of_lt (by omega)
  case hot =>
    rw [ccsFld_cutPresent_hot, hotNow_of_outside h, bits, Nat.shiftRight_eq_div_pow]
    omega
  case cool =>
    rw [ccsFld_cutPresent_hot, hotNow_of_inside h, bits, Nat.shiftRight_eq_div_pow]
    omega

/-- The state with no reseed of a die withheld. -/
def resetWithheld (s : State) (d : Nat) : State := { s with withheld := spErase s.withheld d }

theorem quiet_resetWithheld (d : Nat) : Quiet s (resetWithheld s d) := ⟨rfl, fun _ => rfl⟩

/-- A healthy reseed clears ENT and the count (R382). -/
theorem drbgReseed_healthy (die : Fin 7) : ∃ t, exec (.drbgReseed die true) s = .next t ∧ Quiet s t ∧ entOf die.val t = 0 ∧
    spGet 0 t.withheld die.val = 0 := by
  have hexec : exec (.drbgReseed die true) s = .next (setEnt (resetWithheld s die.val) die.val 0) := rfl
  refine ⟨_, hexec, (quiet_resetWithheld ..).trans (quiet_setEnt ..), entOf_setEnt .., ?_⟩
  rw [withheld_setEnt, resetWithheld, spGet, spFind_erase_self, Option.getD_none]

/-- The state with one more reseed of a die withheld in a row. -/
def withhold (s : State) (d : Nat) : State := { s with withheld := spSet 0 s.withheld d (spGet 0 s.withheld d + 1) }

theorem quiet_withhold (d : Nat) : Quiet s (withhold s d) := ⟨rfl, fun _ => rfl⟩

theorem exec_drbgReseed_withheld (die : Fin 7) : exec (.drbgReseed die false) s =
    if spGet 0 s.withheld die.val + 1 = 4 then .next (logWithheld die.val (setEnt (withhold s die.val) die.val 1))
    else .next (withhold s die.val) := by
  have harm : exec (.drbgReseed die false) s = execDrbgReseed die false s := rfl
  rw [harm, execDrbgReseed, if_neg (by decide)]
  rfl

/-- Fewer than four reseeds withheld in a row (R382). -/
theorem drbgReseed_withheld {die : Fin 7} (h : spGet 0 s.withheld die.val < 3) : ∃ t, exec (.drbgReseed die false) s = .next t ∧
    Quiet s t ∧ entOf die.val t = entOf die.val s ∧ spGet 0 t.withheld die.val = spGet 0 s.withheld die.val + 1 := by
  have hexec := exec_drbgReseed_withheld s die
  rw [if_neg (by omega)] at hexec
  refine ⟨_, hexec, quiet_withhold .., rfl, ?_⟩
  rw [withhold, spGet_spSet_self]

/-- The fourth withheld reseed in a row sets ENT (R382). -/
theorem drbgReseed_fourth {die : Fin 7} (h : spGet 0 s.withheld die.val = 3) : ∃ t, exec (.drbgReseed die false) s = .next t ∧
    Quiet s t ∧ entOf die.val t = 1 := by
  have hexec := exec_drbgReseed_withheld s die
  rw [if_pos (by omega)] at hexec
  have hlog := changesOnly_logWithheld (setEnt (withhold s die.val) die.val 1) die
  refine ⟨_, hexec, ((quiet_withhold ..).trans (quiet_setEnt ..)).trans hlog.quiet, ?_⟩
  rw [entOf_eq_of_logged _ hlog, entOf_setEnt]

end

/-- Settles O52: each clause by the lemma about its command. -/
theorem cutEventsAndRandomness : Obligations.Cut_events_and_randomness := by
  intro s
  exact ⟨fun present fire part hm => cutTrigger_spec s present fire part hm, unfreeze_spec s, unfreeze_dropped s,
    temperatureSample_spec s, fun die => ⟨drbgReseed_healthy s die, drbgReseed_withheld s, drbgReseed_fourth s⟩⟩

end Sys2Proof.Machine
end
